-- ==== Sys2Proof/Word.lean ====
section
/-! DEFINITION. The word types of R1 and R3, the names of the four streams (R22) and the plainest arithmetic on them. -/

namespace Sys2Proof

abbrev Byte := BitVec 8
abbrev Half := BitVec 16
abbrev Word := BitVec 32
abbrev Dword := BitVec 64
/-- A 64-byte line. Byte j of memory is bits [8j+7:8j] (R3). -/
abbrev Line := BitVec 512
/-- A register field of an S or A word (R200). -/
abbrev Reg := BitVec 5
/-- A pennant: VI in [15:8], generation in [7:0] (R9). -/
abbrev Pen := BitVec 16

/-- The four streams of a context, in the order of their codes (R87, R200). -/
inductive Stream where
  | s | a | v | m
  deriving DecidableEq, Repr

/-- The stream's code: 0 S, 1 A, 2 V, 3 M (R200). -/
def Stream.code : Stream → Nat
  | .s => 0 | .a => 1 | .v => 2 | .m => 3

/-- The stream a two-bit code names. -/
def Stream.ofCode (n : Nat) : Stream :=
  match n with
  | 0 => .s | 1 => .a | 2 => .v | _ => .m

/-- The length of one word of the stream in bytes (R198). -/
def Stream.wordBytes : Stream → Nat
  | .s => 4 | .a => 4 | .v => 12 | .m => 24

/-- The alignment of the stream's words (R198). -/
def Stream.wordAlign : Stream → Nat
  | .s => 4 | .a => 4 | .v => 4 | .m => 8

end Sys2Proof
end

