-- ==== Sys2Proof/Syntax.lean ====
section
/-! DEFINITION. The instructions and the acts of the other agents: one constructor for each row of the opcode table. -/

namespace Sys2Proof

/-- An 18-bit operand field of a V word (R205), as it stands in the word: ID, PK, OFS and STR. -/
structure VOperand where
  id : BitVec 6
  pk : Bool
  ofs : BitVec 7
  str : BitVec 4
  deriving DecidableEq, Repr

/-- The fields of a V word besides its opcode (R204, R207). -/
structure VWord where
  rc : BitVec 3
  sq : Bool
  sat : Bool
  msk : Bool
  ty : BitVec 3
  tkw : BitVec 3
  tkp : BitVec 3
  d : VOperand
  x : VOperand
  y : VOperand
  grd : BitVec 3
  rb : BitVec 2
  u : Bool
  pa : BitVec 13
  deriving DecidableEq, Repr

/-- The fields of an M word besides its opcode (R210). -/
structure MWord where
  rc : BitVec 3
  sq : Bool
  mode : BitVec 4
  tkw : BitVec 3
  tkp : BitVec 3
  acc : Bool
  zi : Bool
  con : Bool
  atile : BitVec 7
  kt : BitVec 4
  wsrc : BitVec 4
  hsz : BitVec 2
  dfmt : BitVec 4
  dq : Bool
  row0 : BitVec 7
  nrow : BitVec 7
  grd : BitVec 3
  pa : BitVec 128
  deriving DecidableEq, Repr

/-- Every row of the opcode table. The operands of an S or A row are the fields of its word; those of a V or M row
are the word's fields; those of an event row say which unit acts, and what reaches the machine from outside it. -/
inductive Instr where
  -- The S stream (R202)
  | add (d : Reg) (a : Reg) (b : Reg)  -- R219: writes s[a] + s[b], modulo 2^64, to s[d]
  | sub (d : Reg) (a : Reg) (b : Reg)  -- R219: writes s[a] − s[b], modulo 2^64, to s[d]
  | and (d : Reg) (a : Reg) (b : Reg)  -- R219: writes the bitwise AND of s[a] and s[b] to s[d]
  | or (d : Reg) (a : Reg) (b : Reg)  -- R219: writes the bitwise OR of s[a] and s[b] to s[d]
  | xor (d : Reg) (a : Reg) (b : Reg)  -- R219: writes the bitwise XOR of s[a] and s[b] to s[d]
  | sll (d : Reg) (a : Reg) (b : Reg)  -- R219: shifts s[a] left by s[b][5:0]
  | srl (d : Reg) (a : Reg) (b : Reg)  -- R219: shifts s[a] right by s[b][5:0], filling with zeros
  | sra (d : Reg) (a : Reg) (b : Reg)  -- R219: shifts s[a] right by s[b][5:0], filling with the sign bit
  | mul (d : Reg) (a : Reg) (b : Reg)  -- R219: writes the low 64 bits of the product to s[d]
  | mulh (d : Reg) (a : Reg) (b : Reg)  -- R219: writes the high 64 bits of the signed product to s[d]
  | mulhu (d : Reg) (a : Reg) (b : Reg)  -- R219: writes the high 64 bits of the unsigned product to s[d]
  | div (d : Reg) (a : Reg) (b : Reg)  -- R220: signed division truncating toward zero, with fixed border cases
  | divu (d : Reg) (a : Reg) (b : Reg)  -- R220: unsigned division, with fixed border cases
  | rem (d : Reg) (a : Reg) (b : Reg)  -- R220: signed remainder, whose sign follows x
  | remu (d : Reg) (a : Reg) (b : Reg)  -- R220: unsigned remainder
  | slt (d : Reg) (a : Reg) (b : Reg)  -- R219: writes 1 if s[a] < s[b] as signed values, else 0
  | sltu (d : Reg) (a : Reg) (b : Reg)  -- R219: writes 1 if s[a] < s[b] as unsigned values, else 0
  | min (d : Reg) (a : Reg) (b : Reg)  -- R219: writes the signed minimum
  | max (d : Reg) (a : Reg) (b : Reg)  -- R219: writes the signed maximum
  | minu (d : Reg) (a : Reg) (b : Reg)  -- R219: writes the unsigned minimum
  | maxu (d : Reg) (a : Reg) (b : Reg)  -- R219: writes the unsigned maximum
  | clz (d : Reg) (a : Reg)  -- R219: writes the number of leading zeros of s[a]
  | popc (d : Reg) (a : Reg)  -- R219: writes the number of set bits of s[a]
  | addi (d : Reg) (a : Reg) (imm : BitVec 16)  -- R221: adds the sign-extended imm16 to s[a]
  | andi (d : Reg) (a : Reg) (imm : BitVec 16)  -- R221: ANDs s[a] with the sign-extended imm16
  | ori (d : Reg) (a : Reg) (imm : BitVec 16)  -- R221: ORs s[a] with the sign-extended imm16
  | xori (d : Reg) (a : Reg) (imm : BitVec 16)  -- R221: XORs s[a] with the sign-extended imm16
  | slli (d : Reg) (a : Reg) (imm : BitVec 16)  -- R221: shifts s[a] left by an immediate amount from 0 to 63
  | srli (d : Reg) (a : Reg) (imm : BitVec 16)  -- R221: shifts s[a] right logically by an immediate amount
  | srai (d : Reg) (a : Reg) (imm : BitVec 16)  -- R221: shifts s[a] right arithmetically by an immediate amount
  | slti (d : Reg) (a : Reg) (imm : BitVec 16)  -- R221: signed compare of s[a] with the immediate
  | sltiu (d : Reg) (a : Reg) (imm : BitVec 16)  -- R221: unsigned compare of s[a] with the sign-extended immediate
  | lui (d : Reg) (imm : BitVec 16)  -- R222: writes sext(imm16) << 16 to s[d]
  | li (d : Reg) (imm : Word)  -- R222: S stream, X form: writes the sign-extended imm32 to s[d]
  | ldb (d : Reg) (a : Reg) (imm : BitVec 16)  -- R223: loads a sign-extended byte through the store buffer and the view
  | ldbu (d : Reg) (a : Reg) (imm : BitVec 16)  -- R223: loads a zero-extended byte
  | ldh (d : Reg) (a : Reg) (imm : BitVec 16)  -- R223: loads a sign-extended half
  | ldhu (d : Reg) (a : Reg) (imm : BitVec 16)  -- R223: loads a zero-extended half
  | ldw (d : Reg) (a : Reg) (imm : BitVec 16)  -- R223: loads a sign-extended word
  | ldwu (d : Reg) (a : Reg) (imm : BitVec 16)  -- R223: loads a zero-extended word
  | ldd (d : Reg) (a : Reg) (imm : BitVec 16)  -- R223: loads a dword
  | stb (d : Reg) (a : Reg) (imm : BitVec 16)  -- R224: checks steps 1–7 and buffers a byte store until commit or release
  | sth (d : Reg) (a : Reg) (imm : BitVec 16)  -- R224: buffers a half store
  | stw (d : Reg) (a : Reg) (imm : BitVec 16)  -- R224: buffers a word store
  | std (d : Reg) (a : Reg) (imm : BitVec 16)  -- R224: buffers a dword store
  | beq (a : Reg) (b : Reg) (disp : BitVec 16)  -- R225: branches if s[a] equals s[b]
  | bne (a : Reg) (b : Reg) (disp : BitVec 16)  -- R225: branches if s[a] differs from s[b]
  | blt (a : Reg) (b : Reg) (disp : BitVec 16)  -- R225: branches if signed s[a] < s[b]
  | bge (a : Reg) (b : Reg) (disp : BitVec 16)  -- R225: branches if signed s[a] ≥ s[b]
  | bltu (a : Reg) (b : Reg) (disp : BitVec 16)  -- R225: branches if unsigned s[a] < s[b]
  | bgeu (a : Reg) (b : Reg) (disp : BitVec 16)  -- R225: branches if unsigned s[a] ≥ s[b]
  | j (disp : BitVec 26)  -- R226: jumps by a 26-bit word displacement
  | jal (disp : BitVec 26)  -- R226: jumps and links PC + 4 in s31
  | jr (a : Reg)  -- R226: jumps to s[a]
  | jalr (d : Reg) (a : Reg)  -- R226: jumps to s[a] and writes PC + 4 to s[d]
  | strm (d : Reg) (a : Reg)  -- R228: waits until stream A, V or M is idle and then starts it at s[a]
  | loop (a : Reg) (stg : BitVec 3) (len : BitVec 16)  -- R227: starts S's hardware loop with count s[a] and the given stages and body length
  | bqrcv (q : Reg) (disp : BitVec 16)  -- R230: pops an outcome from bq.as or bq.vs and branches if it is 1
  | toks (d : Reg)  -- R229: posts one token to tk.sX when it retires
  | tokw (d : Reg)  -- R229: waits for a token on tk.Xs and takes it
  | bqsnd (d : Reg) (a : Reg)  -- R230: pushes s[a][0] into bq.sX, waiting while the queue is full
  | phase  -- R232: commits the context's buffered and spilled stores and refreshes its view, as a group of one
  | gbar (a : Reg) (b : Reg)  -- R233: counts an arrival at the group descriptor and waits until that phase completes
  | join (d : Reg) (a : Reg) (b : Reg)  -- R234: atomically joins the group with member index s[b] and writes a status
  | leave (a : Reg)  -- R235: makes a final arrival carrying the context's stores and loses its membership at the boundary
  | spawn (d : Reg) (a : Reg) (b : Reg)  -- R236: reads a record, releases, and pushes the record at the task queue's tail
  | tend  -- R237: ends the task by drain, wait for commands, commit, leave, hand-over, release, tile free and JDEC
  | yield  -- R238: switches banks if the other bank is READY, otherwise does nothing
  | claim (d : Reg) (a : Reg) (b : Reg) (c : Reg)  -- R240: looks up or installs a claim name at its bucket's home controller and returns MAKER, WAITER, DONE or FULL
  | clpark (a : Reg) (b : Reg) (c : Reg)  -- R241: commits and then parks a continuation node on a MAKING claim entry, ending the context, or returns the claim outcome
  | fulfil (d : Reg) (a : Reg) (b : Reg) (c : Reg)  -- R242: releases, sets the claim entry DONE with a value and wakes its waiters
  | abandon (d : Reg) (a : Reg) (b : Reg)  -- R243: releases and hands the claim entry to the oldest waiter, or empties it
  | capt (d : Reg) (a : Reg) (b : Reg)  -- R245: captures by-value values into a new environment entry and writes a closure handle
  | captr (d : Reg) (a : Reg) (b : Reg)  -- R245: captures values, including tile and frame references, into a new environment entry
  | apply (d : Reg) (a : Reg) (b : Reg)  -- R247: calls a closure in this context, or routes it as a task record to its virtual core's queue
  | kdup (d : Reg) (a : Reg)  -- R249: copies a closure handle and takes a reference
  | krel (d : Reg)  -- R250: releases a closure reference and writes null
  | kenv (d : Reg) (a : Reg)  -- R251: reads the eight environment values of a handle into s registers
  | doorw (d : Reg) (a : Reg)  -- R252: receives the oldest message of an inbound door, waiting while it is empty; an acquire
  | doors (a : Reg) (b : Reg)  -- R253: releases and appends a 64-byte message to an outbound door, signalling its MSI-X vector
  | csrr (d : Reg) (csr : BitVec 12)  -- R254: reads a CSR into s[d]
  | csrw (d : Reg) (csr : BitVec 12)  -- R254: writes a CSR when it retires
  | nop  -- R334: does nothing
  | eret  -- R335: leaves handler state and resumes the streams at their epc values
  | wfe  -- R336: clears EV, waiting in WAITING until EV is set if it is 0
  | brk  -- R334: traps with code 33
  | trap (imm : BitVec 16)  -- R334: traps with code 32, carrying the immediate
  | vishut (d : Reg) (a : Reg) (b : Reg)  -- R338: Privileged: halts and discards a VI's contexts, drops its commands and increments its generation, optionally closing it
  | vikeyz (d : Reg) (a : Reg) (b : Reg)  -- R339: Privileged: zeroises one key slot or every key slot of a VI
  | virev (d : Reg) (a : Reg) (b : Reg)  -- R340: Privileged: revokes ownership of one page or of every page of a VI
  | vimapLeaf (d : Reg) (a : Reg)  -- R342: VIMAP LEAF: writes a leaf or contiguity run in the VI's tables on a die and answers waiting faults
  | vimapLink (d : Reg) (a : Reg)  -- R342: VIMAP LINK: zeroes a TBL page and links it as a non-leaf entry
  | vimapOwn (d : Reg) (a : Reg)  -- R342: VIMAP OWN: assigns a page to a VI in the ownership table
  | vimapEvict (d : Reg) (a : Reg)  -- R389: VIMAP EVICT: writes the page's stored image and trailer to a buffer and marks the page EVICTED with a new VERSION
  | vimapReturn (d : Reg) (a : Reg)  -- R390: VIMAP RETURN: checks an eviction image and writes it back, clearing EVICTED and answering faults
  | vimapFail (d : Reg) (a : Reg)  -- R342: VIMAP FAIL: fails the waiting fault with a given SEQ
  | vimapVient (d : Reg) (a : Reg)  -- R164: VIMAP VIENT: writes a VI map entry on both dies
  | vimapCore (d : Reg) (a : Reg)  -- R167: VIMAP CORE: writes a core-map entry on a die
  | vimapQueue (d : Reg) (a : Reg)  -- R148: VIMAP QUEUE: writes BASE, CAP, PRIO and EN of a task-queue descriptor
  | vimapDoor (d : Reg) (a : Reg)  -- R155: VIMAP DOOR: writes BASE, DIR, CAP, VEC and EN of a door descriptor
  | vimapWindow (d : Reg) (a : Reg)  -- R170: VIMAP WINDOW: writes a window entry of a VI on a die
  | vimapKey (d : Reg) (a : Reg)  -- R172: VIMAP KEY: assigns a key slot to a VI or returns it to EMPTY
  | vimapRoute (d : Reg) (a : Reg)  -- R368: VIMAP ROUTE: writes a routing-table entry in a die's router
  | vimapMcast (d : Reg) (a : Reg)  -- R174: VIMAP MCAST: writes a multicast address group on both dies of the package
  | vimapTblpg (d : Reg) (a : Reg)  -- R342: VIMAP TBLPG: sets or clears TBL on a page, zeroing its lines
  -- The A stream (R203)
  | addA (d : Reg) (a : Reg) (b : Reg)  -- R257: adds two a registers
  | subA (d : Reg) (a : Reg) (b : Reg)  -- R257: subtracts two a registers
  | andA (d : Reg) (a : Reg) (b : Reg)  -- R257: bitwise AND
  | orA (d : Reg) (a : Reg) (b : Reg)  -- R257: bitwise OR
  | xorA (d : Reg) (a : Reg) (b : Reg)  -- R257: bitwise XOR
  | sllA (d : Reg) (a : Reg) (b : Reg)  -- R257: logical left shift
  | srlA (d : Reg) (a : Reg) (b : Reg)  -- R257: logical right shift
  | sraA (d : Reg) (a : Reg) (b : Reg)  -- R257: arithmetic right shift
  | mulA (d : Reg) (a : Reg) (b : Reg)  -- R257: low 64 bits of the product
  | minA (d : Reg) (a : Reg) (b : Reg)  -- R257: signed minimum
  | maxA (d : Reg) (a : Reg) (b : Reg)  -- R257: signed maximum
  | minuA (d : Reg) (a : Reg) (b : Reg)  -- R257: unsigned minimum
  | maxuA (d : Reg) (a : Reg) (b : Reg)  -- R257: unsigned maximum
  | addiA (d : Reg) (a : Reg) (imm : BitVec 16)  -- R257: adds a sign-extended immediate
  | andiA (d : Reg) (a : Reg) (imm : BitVec 16)  -- R257: ANDs with a sign-extended immediate
  | oriA (d : Reg) (a : Reg) (imm : BitVec 16)  -- R257: ORs with a sign-extended immediate
  | xoriA (d : Reg) (a : Reg) (imm : BitVec 16)  -- R257: XORs with a sign-extended immediate
  | slliA (d : Reg) (a : Reg) (imm : BitVec 16)  -- R257: left shift by an immediate
  | srliA (d : Reg) (a : Reg) (imm : BitVec 16)  -- R257: logical right shift by an immediate
  | sraiA (d : Reg) (a : Reg) (imm : BitVec 16)  -- R257: arithmetic right shift by an immediate
  | luiA (d : Reg) (imm : BitVec 16)  -- R257: loads sext(imm16) << 16
  | liA (d : Reg) (imm : Word)  -- R257: A stream, X form: loads a sign-extended imm32
  | ldv (d : Reg) (a : Reg) (consume : Bool) (post : Bool)  -- R261: loads 128 contiguous scratchpad words into an lq entry, with optional consume and post-increment
  | ldvs (d : Reg) (a : Reg) (b : Reg) (consume : Bool) (post : Bool)  -- R261: loads 128 strided scratchpad words into an lq entry
  | ldvg (d : Reg) (a : Reg) (b : Reg) (consume : Bool) (post : Bool)  -- R261: gathers 128 scratchpad words by an index vector into an lq entry
  | stv (d : Reg) (a : Reg) (post : Bool)  -- R262: pops an sq entry and stores it to 128 contiguous scratchpad words
  | stvs (d : Reg) (a : Reg) (b : Reg) (post : Bool)  -- R262: pops an sq entry and stores it at a stride
  | stvg (d : Reg) (a : Reg) (b : Reg) (post : Bool)  -- R262: pops an sq entry and scatters it by an index vector
  | abrEq (a : Reg) (b : Reg) (disp : BitVec 16)  -- R258: branches if a[a] equals a[b]
  | abrNe (a : Reg) (b : Reg) (disp : BitVec 16)  -- R258: branches if a[a] differs from a[b]
  | abrLt (a : Reg) (b : Reg) (disp : BitVec 16)  -- R258: branches on signed less than
  | abrGe (a : Reg) (b : Reg) (disp : BitVec 16)  -- R258: branches on signed greater or equal
  | abrLtu (a : Reg) (b : Reg) (disp : BitVec 16)  -- R258: branches on unsigned less than
  | abrGeu (a : Reg) (b : Reg) (disp : BitVec 16)  -- R258: branches on unsigned greater or equal
  | ajmp (disp : BitVec 26)  -- R258: jumps; with displacement 0 it is A's end instruction
  | aloop (a : Reg) (stg : BitVec 3) (len : BitVec 16)  -- R258: starts A's hardware loop
  | abrBq (disp : BitVec 16)  -- R258: pops an outcome from bq.sa and branches if it is 1
  | toksA (d : Reg)  -- R258: posts a token to tk.aX
  | tokwA (d : Reg)  -- R258: waits for and takes a token from tk.Xa
  | bqsndA (a : Reg)  -- R258: pushes a[a][0] into bq.as
  | talloc (d : Reg)  -- R265: allocates the lowest free tile to the context and writes its number
  | tfree (a : Reg)  -- R266: waits for LAND = 0, frees the tile, bumps INC and drops held deliveries
  | twaitf (a : Reg)  -- R264: waits until the tile is FULL, acquiring its delivery
  | twaite (a : Reg)  -- R264: waits until the tile has FULL = 0 and LAND = 0
  | tsetf (a : Reg)  -- R267: waits for LAND = 0 and sets FULL, releasing earlier A stores to the tile
  | tclr (a : Reg)  -- R267: clears FULL and admits the oldest held delivery
  | tstat (d : Reg) (a : Reg)  -- R264: writes a tile's metadata word to a[d]
  | wdset (d : Reg) (a : Reg) (b : Reg)  -- R268: writes a weight-stream descriptor from two a registers
  | cpy (d : Reg) (a : Reg) (b : Reg)  -- R276: pushes a copy command between memory and tiles, releasing overlapping source stores
  | cpyf (d : Reg) (a : Reg) (b : Reg)  -- R277: pushes a copy into the issuer's tile with a follow-on matrix word for fq
  | cpymc (d : Reg) (a : Reg) (b : Reg)  -- R278: pushes a multicast copy to a tile at every member of a group
  | cpylr (d : Reg) (a : Reg) (b : Reg)  -- R279: pushes a reduction of every group member's tile through the routers
  | cpyrd (d : Reg) (a : Reg) (b : Reg)  -- R280: pushes an atomic combine of source lines into device memory
  | pref (a : Reg) (b : Reg)  -- R281: pushes a prefetch that translates every page of a region and reports missing pages
  | sacc (d : Reg) (a : Reg)  -- R282: pushes a scatter-accumulate that applies xq pairs to device memory
  | sigdec (a : Reg)  -- R283: pushes a release and a decrement of a signal
  | sigwait (a : Reg) (b : Reg)  -- R284: pushes a wait until a signal's count is at most a threshold
  | jdec (a : Reg)  -- R283: pushes a release and a decrement of a join counter
  | cres (d : Reg)  -- R285: pops the oldest outstanding command's result element, an acquire
  | nopA  -- R334: does nothing
  | brkA  -- R334: traps with code 33, naming A
  -- The V stream (R209)
  | vadd (w : VWord)  -- R294: element-wise addition, rounded under the rounding code
  | vsub (w : VWord)  -- R294: element-wise subtraction
  | vmul (w : VWord)  -- R294: element-wise multiplication
  | vdiv (w : VWord)  -- R294: element-wise FP division
  | vmin (w : VWord)  -- R294: element-wise minimum
  | vmax (w : VWord)  -- R294: element-wise maximum
  | vabs (w : VWord)  -- R295: element-wise absolute value
  | vneg (w : VWord)  -- R295: element-wise negation
  | vfma (w : VWord)  -- R296: fused multiply-add with one rounding
  | vfms (w : VWord)  -- R296: fused multiply-subtract with one rounding
  | vand (w : VWord)  -- R297: element-wise AND
  | vor (w : VWord)  -- R297: element-wise OR
  | vxor (w : VWord)  -- R297: element-wise XOR
  | vshl (w : VWord)  -- R297: element-wise left shift, optionally saturating
  | vshr (w : VWord)  -- R297: element-wise right shift
  | vmulh (w : VWord)  -- R297: high half of the element-wise product
  | vexp2 (w : VWord)  -- R298: bounded-error 2^x
  | vlog2 (w : VWord)  -- R298: bounded-error log2 x
  | vrcp (w : VWord)  -- R298: bounded-error reciprocal
  | vrsq (w : VWord)  -- R298: bounded-error reciprocal square root
  | vtanh (w : VWord)  -- R298: bounded-error tanh
  | vsig (w : VWord)  -- R298: bounded-error logistic sigmoid
  | vceq (w : VWord)  -- R299: element-wise equality compare
  | vcne (w : VWord)  -- R299: element-wise inequality compare
  | vclt (w : VWord)  -- R299: element-wise less-than compare
  | vcle (w : VWord)  -- R299: element-wise less-or-equal compare
  | vsel (w : VWord)  -- R300: selects X or Y per element by the truth of Z
  | vcvt (w : VWord)  -- R301: converts elements between formats
  | vqd8 (w : VWord)  -- R304: quantises FP32 lanes to packed D8 codes, counting underflows in zc
  | vqi8 (w : VWord)  -- R304: quantises FP32 lanes to packed INT8 or N8, counting underflows
  | vsca (w : VWord)  -- R305: multiplies by an FP32 scale
  | vscd (w : VWord)  -- R305: multiplies by 10^E
  | vssel (w : VWord)  -- R306: computes a decimal scale exponent from a zc register, optionally clearing it
  | vrsum (w : VWord)  -- R307: tree sum of all active elements broadcast to active lanes
  | vrmax (w : VWord)  -- R307: tree maximum of active elements
  | vrmin (w : VWord)  -- R307: tree minimum of active elements
  | vrot (w : VWord)  -- R308: rotates lanes by an immediate amount
  | vperm (w : VWord)  -- R309: permutes lanes by indices in Y
  | vpack (w : VWord)  -- R302: converts and packs two entries into narrower elements
  | vunpk (w : VWord)  -- R303: widens one part of packed elements into lanes
  | vmov (w : VWord)  -- R310: pushes X's lanes unchanged
  | vldi (w : VWord)  -- R310: adds each element's index to it
  | vrseed (w : VWord)  -- R311: seeds a random source from lane 0 of X
  | mpush (w : VWord)  -- R312: pushes top AND the truth of X onto the mask stack
  | minv (w : VWord)  -- R312: inverts the mask-stack top against the entry below
  | mpop (w : VWord)  -- R312: removes the mask-stack top
  | vbz (w : VWord)  -- R313: branches when every bit of the mask top is 0
  | vbr (w : VWord)  -- R313: pops bq.sv and branches on 1, killing squashable words in flight
  | vjmp (w : VWord)  -- R313: always branches; displacement 0 is V's end instruction
  | vloop (w : VWord)  -- R315: starts V's hardware loop with count from X
  | vapply (w : VWord)  -- R316: routes the closure in k0 once per active lane as task records
  | vscat (w : VWord)  -- R318: pushes an index and value scatter pair into xq
  | vbqsnd (w : VWord)  -- R314: sends whether any mask-top bit is set through bq.vs
  -- The M stream (R211)
  | mma (w : MWord)  -- R327: runs tile steps from A tiles and weight slots into an accumulator
  | mmaw (w : MWord)  -- R327: runs tile steps with weights streamed through the weight port
  | mmaq (w : MWord)  -- R326: pops an MMA or MMAW word from fq and performs it
  | mhad (w : MWord)  -- R329: Hadamard-transforms A rows into accumulator rows
  | mwld (w : MWord)  -- R330: fills a weight slot from a weight-stream tile
  | mdrn (w : MWord)  -- R331: drains accumulator rows into a dq queue
  | mzero (w : MWord)  -- R332: sets every accumulator row to +0
  | mloop (w : MWord)  -- R332: starts M's hardware loop
  | mbr (w : MWord)  -- R332: pops bq.sm and branches on 1
  | mjmp (w : MWord)  -- R332: always branches; displacement 0 is M's end instruction
  | mnop (w : MWord)  -- R332: does nothing
  -- Events of the other agents
  | vPushLand  -- R287: A V word's push lands in its destination, with its zc update and token post, at issue plus latency
  | kstepCommit  -- R327: One K-step of a tile-step word updates an accumulator row and advances MRS and POS
  | mhadRowWrite  -- R329: MHAD writes one transformed row to the accumulator
  | mdrnRowLand  -- R331: An MDRN row lands in its dq queue
  | mzeroEffect  -- R320: MZERO zeroes the accumulator at start plus 2
  | mwldSlotWrite  -- R330: MWLD writes the slot lines and header after issue
  | weightPortFetch  -- R328: The weight port fetches and checks weight lines into the staging ring ahead of the array
  | dispatch (k : Nat)  -- R36: An EMPTY bank takes the head record of the selected bound queue and sets up a context
  | bankSwitch (c : Nat)  -- R32: The core switches from the running bank to the READY bank after the drain
  | sliceExpiry (c : Nat)  -- R32: After 65,536 cycles with the other bank READY the core switches at the next boundary
  | tileWaitTimeout (k : Nat)  -- R32: A TWAITF or TWAITE whose tag has not changed for 256 cycles makes the context WAITING
  | contextSave (k slot : Nat)  -- R33: The scheduler saves a context with its tiles to a save slot, emptying its bank
  | contextRestore (slot k : Nat)  -- R33: A saved context whose event has occurred is restored into an EMPTY bank of an eligible core
  | trapEntry  -- R333: After the drain the context writes the trap record and CSRs and enters the handler or ends
  | contextEnd (k : Nat) (cause : BitVec 8)  -- R347: A context ends without TEND: record, discard, leave, hand-over, release, free and JDEC
  | commitComplete (g : Nat)  -- R130: When every line of a commit is written the members' views are refreshed and they continue
  | barrierEvaluate (p q : Nat) (sig : Dword)  -- R152: A barrier record is evaluated at the head or on a signal notification and waits, is satisfied or aborts
  | heldPushEnter (p q : Nat)  -- R149: A push held at a queue's home controller enters once EN is 1 and space exists
  | engineTakeCommand (k : Nat) (seq : BitVec 16)  -- R137: A copy engine takes a command from cq and begins performing it
  | engineCommandComplete (k : Nat) (seq : BitVec 16)  -- R274: An engine command ends and posts its result element to the issuer's rq
  | deliveryArrive (n : Nat)  -- R98: A delivery reaches its tile and is admitted, held or dropped
  | deliveryLanded (n : Nat)  -- R98: A delivery's last byte lands, setting FULL and clearing LAND in one event
  | sigwaitSatisfy (k : Nat) (seq : BitVec 16)  -- R284: A SIGWAIT completes at the home controller when the count reaches the threshold
  | traceRecordWrite (dn cl : Nat) (hyp : Bool)  -- R399: A queued trace record is written to the ring at lowest priority and TWPTR advances
  | hostDoorAppend (p : Nat) (vi : BitVec 8) (door ofs : Nat) (data : List Byte) (ide : Bool)  -- R156: A 64-byte posted write to an inbound door's slot appends a message or is discarded and counted
  | doorHeadWrite (p : Nat) (vi : BitVec 8) (door : Nat) (v : Word) (ide : Bool)  -- R157: The host writes a new HEAD of an outbound door, freeing messages
  | hostMemRead (p : Nat) (vi : BitVec 8) (va : Dword) (len : Nat) (ide : Bool)  -- R406: A host read through BAR4 is translated, checked and returns committed lines
  | hostMemWrite (p : Nat) (vi : BitVec 8) (va : Dword) (data : List Byte) (ide : Bool)  -- R406: A host write through BAR4 is translated, checked and written line by line
  | overflowCounterClear (p : Nat) (vi : BitVec 8) (door : Nat) (v : Word)  -- R192: A write of 0 to a door overflow counter by its owner clears it
  | counterConfigWrite (dn cl : Nat) (hyp : Bool) (vi : BitVec 8) (v : Dword)  -- R194: A write to a counter bank copy's configuration, with grant and seizure rules
  | traceCounterClear (dn cl : Nat) (hyp : Bool) (vi : BitVec 8) (lost : Bool) (v : Word)  -- R195: The owning copy's write of 0 clears TDELAY or TLOST
  | tctlWrite (dn cl : Nat) (hyp : Bool) (vi : BitVec 8) (v : Dword)  -- R398: A write of TCTL enables the trace copy, ignored while TBASE or TCAP is out of range
  | trptrWrite (dn cl : Nat) (hyp : Bool) (vi : BitVec 8) (v : Word)  -- R398: A write of TRPTR consumes trace records, ignored outside TRPTR to TWPTR
  | plimWrite (p : Nat) (v : Dword)  -- R413: A write of the power limit, clamped to 400–1,600 W
  | registerWrite (p : Nat) (vi : BitVec 8) (ofs : Nat) (v : Dword)  -- R405: A host write to any other window register takes or discards its value
  | preempt (p : Nat) (vi : BitVec 8) (vcn : BitVec 16) (g : Bool)  -- R350: PREQ PREEMPT stops dispatch and halts and saves the targeted contexts with HELD set
  | release (p : Nat) (vi : BitVec 8) (vcn : BitVec 16) (g : Bool)  -- R350: PREQ RELEASE clears HELD and resumes dispatch to the targeted virtual cores
  | cancel (p : Nat) (vi : BitVec 8) (vcn : BitVec 16) (g : Bool)  -- R350: PREQ CANCEL ends every targeted context as in R347 with cause 2
  | seed (p : Nat) (vi : BitVec 8) (index : Dword) (record : Line)  -- R411: The bootstrap mailbox pushes a task record into a physical queue of a VI
  | keyload (p : Nat) (vi : BitVec 8) (slot : Nat) (material : Line)  -- R393: SPDM request that writes key material into an ASSIGNED slot and sets it LOADED
  | manreg (p : Nat) (vi : BitVec 8) (mid : Nat) (key sig body : List Byte)  -- R393: SPDM request that verifies and stores a signed manifest
  | mandel (p : Nat) (vi : BitVec 8) (mid : Nat)  -- R393: SPDM request that frees a manifest of the session VI
  | getCertificate (p : Nat) (vi : BitVec 8)  -- R394: SPDM request returning the device certificate chain
  | challenge (p : Nat) (vi : BitVec 8) (nonce : List Byte)  -- R394: SPDM challenge signed with the identity key
  | getMeasurements (p : Nat) (vi : BitVec 8)  -- R394: SPDM request returning the signed measurement blocks
  | fabkey (p : Nat) (secret : BitVec 256)  -- R410: Vendor request installing the domain secret once per cold reset
  | ideKm (p : Nat) (vi : BitVec 8) (key : BitVec 256)  -- R408: Programs a function's Selective IDE stream keys over SPDM
  | stopInterface (p : Nat) (vi : BitVec 8)  -- R409: TDISP STOP_INTERFACE performs a function-level reset and unlocks the interface
  | functionLevelReset (p : Nat) (vi : BitVec 8)  -- R359: Closes doors, halts contexts, drops commands, revokes pages, erases keys and shuts the VI
  | flrShutterResume (p : Nat) (vi : BitVec 8)  -- R360: A deferred reset shutter is performed once a pass end lowers RCNT
  | coldReset (p : Nat) (imgA imgB : Bool)  -- R410: Cold reset runs bring-up and leaves the state of R414
  | thermalHalt (p : Nat) (celsius : Nat)  -- R413: A junction temperature of 110 °C drops the link and halts the package
  | powerSample (p : Nat) (watts : Nat)  -- R413: Every 10 µs the controller samples package power
  | throttleStep (p : Nat)  -- R413: Each millisecond the throttle level rises or falls by one against PLIM
  | sweepPassStart (p : Nat)  -- R188: Both idle sweep units start a pass, setting SNAP to RCNT and SWPROG to 0
  | sweepVisit (dn : Nat)  -- R188: A sweep unit visits one pennant unit and voids it if its generation is in SNAP
  | sweepPassEnd (p : Nat)  -- R189: When both units finish, RCNT drops by SNAP and CLOSING VIs with RCNT 0 become FREE
  | flitCrcRetry (dn : Nat) (link : BitVec 3)  -- R363: A flit that fails its CRC is retried from the replay buffer
  | linkDead (dn : Nat) (link : BitVec 3)  -- R376: A link is declared dead, counting LINKDEAD and setting DET on entries with a live ALT
  | linkReturn (dn : Nat) (link : BitVec 3)  -- R376: A retrained link returns and DET is cleared
  | packetForward (n : Nat)  -- R370: A router forwards a transit packet by cut-through or drops it
  | packetWaitExpiry (n : Nat)  -- R370: A packet waiting over 50 µs in one router is dropped and counted
  | wr (n : Nat)  -- R374: A line-write packet is authenticated, deduplicated and performed at its target
  | dlv (n : Nat)  -- R377: A delivery packet is admitted, held, refused or landed at its target tile
  | rd (n : Nat)  -- R374: A read request packet is performed at its target on every arrival
  | rdr (n : Nat)  -- R367: Read data returns to the source
  | red (n : Nat)  -- R280: A combine packet for CPYRD or SACC is performed at most once at its target
  | hop (n : Nat)  -- R374: A home-controller operation packet is performed at most once at its target
  | lrp (n : Nat)  -- R381: A CPYLR partial is combined in the router in tree order
  | rsp (n : Nat)  -- R375: A response arrives at the source and settles its request
  | mgt (n : Nat)  -- R367: A fabric management packet arrives at its target
  | requestReissue (dn n : Nat)  -- R375: A request without response for 20 µs is reissued bit for bit
  | remoteTimeout (k : Nat) (seq : BitVec 16) (cmd : Bool) (tdie : BitVec 14) (addr : Dword)  -- R375: No response within 2 ms fails the command or S operation with REMOTE
  | admitRepeat (n : Nat)  -- R377: A target repeats an unsolicited ADMIT every 20 µs until the delivery's next packet arrives
  | deliveryRetry (n : Nat)  -- R377: 20 µs after BUSY the source resends the FIRST packet as a new packet
  | bootstrapMailboxGo (p : Nat) (v : Dword)  -- R411: The host writes 1 to GO of the bootstrap mailbox; after earlier posted writes are performed, the device performs the 192-byte request as VIMAP would for VI 0 and writes the status word to +0x108
  | lockInterface (p : Nat) (vi : BitVec 8)  -- R409: A TDISP request moves a virtual function's interface from CONFIG_UNLOCKED to CONFIG_LOCKED
  | startInterface (p : Nat) (vi : BitVec 8)  -- R409: A TDISP request moves a locked interface into RUN, where unprotected BAR2 and BAR4 requests are rejected
  deriving DecidableEq, Repr

end Sys2Proof
end

