-- ==== Sys2Proof/Machine/State.lean ====
section
/-! DEFINITION. The state of an SV4 domain as plain data, the reasons a step can stop, and the state after reset. -/

namespace Sys2Proof.Machine

/-! ### Tables and memories -/

/-- Data by number: keys strictly rising, an unlisted key standing for a default its reader names. -/
abbrev Table (α : Type) := List (Nat × α)

/-- Bytes by address with a pennant by 64-byte line (R92, R110). Both lists are in canonical form: keys strictly
rising, no byte 0 and no void pennant listed, which are what an unlisted address and line read as. -/
structure Memory where
  cells : List Host.Cell
  pens : Table Pen
  deriving DecidableEq, Repr

/-- The void pennant, which matches no reader (R71). -/
abbrev voidPen : Pen := 0xFFFF

def Memory.empty : Memory := ⟨[], []⟩

/-- Keys strictly rising, all above `lo`. -/
def risingFrom (lo : Nat) : List Nat → Bool
  | [] => true
  | k :: r => lo < k && risingFrom k r

/-- Keys strictly rising. -/
def rising : List Nat → Bool
  | [] => true
  | k :: r => risingFrom k r

/-- The canonical form of a memory. -/
def Memory.wf (m : Memory) : Bool :=
  rising (m.cells.map Prod.fst) && rising (m.pens.map Prod.fst) &&
  m.cells.all (fun c => c.2 != 0) && m.pens.all (fun p => p.2 != voidPen)

/-! ### Registers -/

/-- A register element with its pennant (R71). -/
structure Tag (n : Nat) where
  pen : Pen
  val : BitVec n
  deriving DecidableEq, Repr

/-- The element at reset: zero under the void pennant. -/
def Tag.void {n : Nat} : Tag n := ⟨voidPen, 0⟩

/-- 128 lanes of 32 bits. -/
abbrev Lanes := Vector Word 128
def Lanes.zero : Lanes := Vector.replicate 128 0

/-- A 128-lane entry of a FIFO register, a data queue, an accumulator row or an rb register, with its pennant. -/
structure Entry where
  pen : Pen
  lanes : Lanes
  deriving DecidableEq, Repr

def Entry.void : Entry := ⟨voidPen, Lanes.zero⟩

/-- An entry of xq, with its lane mask (R145). -/
structure XEntry where
  pen : Pen
  lanes : Lanes
  mask : BitVec 128
  deriving DecidableEq, Repr

/-- The state of one hardware loop (R82). -/
structure Loop where
  n : BitVec 32
  s : BitVec 3
  p : BitVec 33
  start : Dword
  fin : Dword
  act : Bool
  /-- The pennant of the loop state (R73). -/
  pen : Pen
  deriving DecidableEq, Repr

def Loop.off : Loop := ⟨0, 0, 0, 0, 0, false, voidPen⟩

/-- A bank's state (R31). -/
inductive CtxStatus where
  | empty | running | ready | waiting
  deriving DecidableEq, Repr

/-! ### Work under way inside a context -/

/-- Where a V word's push goes (R205). -/
inductive PushDest where
  | nothing
  | v (n : Nat)
  | sq (n : Nat)
  | xq
  deriving DecidableEq, Repr

/-- One zc register's update that lands with a push (R62): its number, the greatest magnitude and the underflows. -/
structure ZcUpdate where
  zc : Nat
  max : Word
  count : Nat
  deriving DecidableEq, Repr

/-- A V word that has issued and not landed (R287). -/
structure Flight where
  due : Nat
  squash : Bool
  dest : PushDest
  pen : Pen
  lanes : Lanes
  /-- VSCAT: the value entry and the mask of both. -/
  lanes2 : Lanes
  mask : BitVec 128
  zcs : List ZcUpdate
  /-- The TKP field. -/
  post : BitVec 3
  /-- VAPPLY: the records to push, and their queue (R316). -/
  recs : List Line
  queue : Nat
  deriving DecidableEq, Repr

/-- Which array word runs (R319). -/
inductive ArrayOp where
  | mma | mmaw | mhad | mdrn | mzero
  deriving DecidableEq, Repr

/-- A fault found while weights are staged, held until the array reaches it (R323). -/
structure HeldFault where
  code : Nat
  addr : Dword
  /-- It awaits an answer under R126. -/
  awaits : Bool
  deriving DecidableEq, Repr

/-- The array word running on the array unit (R319, R327). -/
structure ArrayRun where
  op : ArrayOp
  w : MWord
  /-- The address of the M word, which for MMAQ is the MMAQ. -/
  addr : Dword
  viaQ : Bool
  sq : Bool
  post : BitVec 3
  /-- The cycle at which the next K-step or row is due. -/
  due : Nat
  /-- K-steps whose weights the port has staged (R102, R322). -/
  staged : Nat
  /-- The descriptor by which the port fetches, its POS that of the word's first K-step (R83, R327). -/
  wd : BitVec 128
  /-- The last page of the word's last tile has been checked (R328). -/
  checked : Bool
  /-- MMA: the material that the key slots of its weight slots held at issue, by key (R29, R171). -/
  keys : Table (BitVec 512)
  fault : Option HeldFault
  /-- No K-step or row has been made since it started. -/
  fresh : Bool
  /-- MDRN: the rows whose room is reserved and which have not landed, oldest first: number and cycle. -/
  rows : List (Nat × Nat)
  deriving DecidableEq, Repr

/-- An MWLD whose slot is still to be written (R320, R330). -/
structure SlotFill where
  due : Nat
  slot : Nat
  /-- The descriptor it was filled by. -/
  wd : Nat
  two : Bool
  /-- The lines staged at issue, 256 or 512; none for a line of a stored image that read stale, which the slot then holds
  stale (R385). -/
  lines : List (Option Line)
  hdr0 : BitVec 128
  hdr1 : BitVec 128
  pen : Pen
  post : BitVec 3
  deriving DecidableEq, Repr

/-- A line of the store buffer or of the spill area (R108). -/
structure SbEntry where
  line : Dword
  data : Line
  mask : BitVec 64
  pen : Pen
  /-- The group whose open boundary takes the store: its context has arrived there since it was made (R139). -/
  taken : Option Nat
  /-- Its place in its context's part of the spill area, while it stands there (R108, log entry 59). -/
  place : Nat
  deriving DecidableEq, Repr

/-- A line at which a commit has paused, the SEQ of its record, and the code with which its fault has been failed, by VIMAP
FAIL or by a return (R131, R390). -/
structure CommitPause where
  va : Dword
  seq : Nat
  failed : Option Nat
  deriving DecidableEq, Repr

/-- A membership record (R231). -/
structure Membership where
  addr : Dword
  index : Nat
  np : Bool
  deriving DecidableEq, Repr

/-- An entry of the maker set (R179, R239). -/
structure Maker where
  entry : BitVec 24
  mtok : Word
  n0 : Dword
  n1 : Dword
  n2 : Dword
  deriving DecidableEq, Repr

/-- How far an engine command has come (R146). -/
inductive CmdState where
  /-- Pushed, and no engine has taken it. -/
  | queued
  /-- Taken: lines or lane updates performed so far. -/
  | taken (done : Nat)
  /-- Held at its engine by a fault that awaits an answer, whose SEQ stands beside it (R126). -/
  | held (done : Nat) (seq : Nat)
  /-- Its fault has been answered by a failure with this code (R126): it ends next. -/
  | failing (done : Nat) (code : Nat)
  /-- Ended, its element not yet posted: STATUS and VALUE. -/
  | ended (status : BitVec 8) (value : Dword)
  /-- Its element is in rq. -/
  | posted
  deriving DecidableEq, Repr

/-- How far a delivery over the fabric has come at its source (R377). -/
inductive FarState where
  | unsent | waiting | admitted
  deriving DecidableEq, Repr

/-- A delivery to another die: its part of the command, the tile it goes to, and the lines sent. -/
structure FarPart where
  part : Nat
  die : Nat
  vcn : Nat
  tile : Nat
  line : Nat
  next : Nat
  state : FarState
  deriving DecidableEq, Repr

/-- The stored length that goes with a line of a WCT = 1 page: its LEN, and its block's entry of a side table, where the page's
CMP keeps its lengths there (R391). -/
structure Carried where
  len : BitVec 6
  side : Option (BitVec 6)
  deriving DecidableEq, Repr

/-- An outstanding engine command: its place in cq and its element in rq (R86, R146, R273). -/
structure Cmd where
  words : Line
  /-- The address of its A word (R380). -/
  pc : Dword
  seq : BitVec 16
  state : CmdState
  /-- The result element once posted (R86). -/
  element : BitVec 128
  pen : Pen
  /-- Its deliveries have been presented, or a SIGWAIT has come to its signal. -/
  sent : Bool
  /-- The deliveries or requests it waits for, by number. -/
  parts : List Nat
  /-- Its deliveries to other dies. -/
  far : List FarPart
  /-- Lines read and not yet written everywhere, by their place in the transfer. -/
  got : Table Line
  /-- The stored lengths that go with them, of lines of a WCT = 1 page (R391). -/
  lens : Table Carried
  /-- SACC: the pair taken from xq whose lanes are being performed, index entry and value entry (R282). -/
  pair : Option (XEntry × XEntry)
  /-- Lane updates performed (SACC), or pages reported (PREF). -/
  count : Nat
  /-- Bit m: member m failed; bit m of `unknown`: with an unknown outcome (R278). -/
  failed : Word
  unknown : Word
  /-- STATUS of the failed member with the lowest slot. -/
  code : BitVec 8
  deriving DecidableEq, Repr

/-- The access a waiting fault was met by (R344, KIND 1). -/
inductive AccessKind where
  | read | write | fetch | weight | engine
  deriving DecidableEq, Repr

/-- What has become of a fault that awaits an answer (R348). -/
inductive WaitState where
  | waiting
  /-- VIMAP FAIL named it: its code is raised when the context next runs. -/
  | failed
  deriving DecidableEq, Repr

/-- An access waiting under R126. -/
structure PageWait where
  stream : Stream
  kind : AccessKind
  code : Nat
  va : Dword
  pc : Dword
  seq : Nat
  state : WaitState
  /-- The command's SEQ when an engine command waits. -/
  cmd : BitVec 16
  /-- The die whose tables the access used. -/
  die : Nat
  deriving DecidableEq, Repr

/-- A fault met in the present cycle and not yet taken: it awaits an answer, or it is the array's, and a fault of another
stream may precede it (R346). -/
structure SoftFault where
  stream : Stream
  kind : AccessKind
  code : Nat
  va : Nat
  pc : Dword
  awaits : Bool
  deriving DecidableEq, Repr

/-- What a WAITING context waits for besides its page faults (R32). -/
inductive Blocked where
  | nothing
  | door (phys : Nat)
  | event
  | command (seq : BitVec 16)
  /-- TWAITF (`full`) or TWAITE on a tile. -/
  | tile (t : Nat) (full : Bool)
  deriving DecidableEq, Repr

/-- A GBAR or LEAVE that has arrived, by the word's address and its descriptor's, and whether the boundary it waits for has
completed. A handler entered while S waits may make further ones, each its own (R218, R233). -/
structure GroupWait where
  pc : Dword
  addr : Dword
  passed : Bool
  deriving DecidableEq, Repr

/-- A use of table entries that a privileged operation waits for: the model's number of a packet, a request, a delivery or a
context, and, of a context, which of its uses (R123, R162). -/
abbrev Use := Nat × Nat

/-- The wait a stalled S instruction is inside (R218). -/
inductive SInside where
  | nothing
  /-- DOORW has been given its message, of a sequence number. -/
  | message (m : Line) (seq : Nat)
  /-- A privileged operation has been performed by the word at an address: its status word, and the uses of what it has
  changed that it waits for (R123, R337). -/
  | settling (pc : Dword) (w : Dword) (uses : List Use)
  deriving DecidableEq, Repr

/-- A fault, TRAP or BRK to be entered (R333). -/
structure Trap where
  code : Nat
  stream : Stream
  pc : Dword
  addr : Dword
  imm : BitVec 16
  deriving DecidableEq, Repr

/-- A breakpoint stop still to be taken (R401): its stream, the START of the loop at whose next word it stops, and whether
it halts the context. -/
structure Stop where
  stream : Stream
  start : Dword
  halt : Bool
  deriving DecidableEq, Repr

/-- What a target answers to a request of S: the step and code of the check that fails, 0 for none, and its words. -/
structure Answer where
  step : Nat
  code : Nat
  words : List Dword
  deriving DecidableEq, Repr

/-- A request of S that no response has answered, kept until one does (R375, R423): the cycles of its first transmission and
of its next reissue, its target, the address it names, the SEQ and PN it carries, what its target answered, once it has
performed it (R374), and whether it is an operation, not a read. -/
structure Lost where
  first : Nat
  next : Nat
  dst : Nat
  addr : Nat
  seq : BitVec 16
  pn : BitVec 34
  answer : Option Answer
  op : Bool
  deriving DecidableEq, Repr

/-- A tile's metadata (R96) and the bank that holds it (R97). -/
structure Tile where
  pen : Pen
  inc : Word
  held : Nat
  alloc : Bool
  full : Bool
  land : Bool
  bank : Bool
  deriving DecidableEq, Repr

def Tile.reset : Tile := ⟨voidPen, 0, 0, false, false, false, false⟩

/-! ### Context banks -/

/-- One context, in its bank or in its save slot (R31, R352). -/
structure Ctx where
  /-- The model's own number of the context, which stays with it when it moves. -/
  id : Nat
  /-- The core it is on, or was on when it was saved: 144·die + core. -/
  home : Nat
  status : CtxStatus
  vi : BitVec 8
  vcn : BitVec 16
  taskq : Tag 13
  cbase : Tag 64
  join : Dword
  frame : Dword
  finc : BitVec 16
  ev : Bool
  handler : Bool
  held : Bool
  pcS : Dword
  pcA : Dword
  pcV : Dword
  pcM : Dword
  idleA : Bool
  idleV : Bool
  idleM : Bool
  loopS : Loop
  loopA : Loop
  loopV : Loop
  loopM : Loop
  s : Vector (Tag 64) 32
  a : Vector (Tag 64) 32
  k : Vector (Tag 64) 8
  v : Vector (List Entry) 16
  c : Vector (Tag 32) 16
  mask : List (Tag 128)
  rb : Vector Entry 4
  zc : Vector (Tag 64) 8
  wd : Vector (Tag 128) 4
  acc : Vector (Table Entry) 2
  tok : Vector (Tag 6) 12
  lq : Vector (List Entry) 4
  sq : Vector (List Entry) 2
  dq : Vector (List Entry) 2
  xq : List XEntry
  fq : List (Tag 192)
  bqSA : List (Tag 1)
  bqSV : List (Tag 1)
  bqSM : List (Tag 1)
  bqAS : List (Tag 1)
  bqVS : List (Tag 1)
  rmode : Tag 64
  tvec : Tag 64
  tcause : Tag 64
  tinfo : Tag 64
  epcS : Tag 64
  epcA : Tag 64
  epcV : Tag 64
  epcM : Tag 64
  epcMN : Tag 64
  flights : List Flight
  run : Option ArrayRun
  fills : List SlotFill
  mrs : Nat
  mqw : Option (BitVec 192)
  /-- While a stopped array word stands at M's place: MNX, the address at which M goes on, with bit 0 set where the stream had
  ended (R322; log entry 24); or none, where an ERET with epcmn 0 lets M go on with the word after (R335). -/
  mnx : Option (Option Dword)
  /-- The wd register of a stopped word that will issue again (R83). -/
  mwd : Option Nat
  /-- The stopped word reads its weights from slots of the core it left (R324). -/
  mslot : Bool
  sbuf : List SbEntry
  spill : List SbEntry
  /-- Its part of its VI's spill area, once a line of it has spilled (R108). -/
  spillPart : Option Nat
  /-- The context's view, as far as loads have formed it: the lines of memory it has seen (R129). -/
  view : Table (Tag 512)
  member : List Membership
  maker : List Maker
  cmds : List Cmd
  seqNext : BitVec 16
  waits : List PageWait
  blocked : Blocked
  inside : SInside
  /-- Barriers at which S has arrived, innermost first. -/
  atGroup : List GroupWait
  pend : Option Trap
  stops : List Stop
  soft : List SoftFault
  lastTrap : Line
  /-- The lines at which its commits have paused, once reported (R131). -/
  paused : List CommitPause
  /-- A tile wait of A: the tile, whether for FULL, and the cycle since which its tag has not changed (R32). -/
  tileWait : Option (Nat × Bool × Nat)
  /-- The request of S that another die has not answered (R423). -/
  lost : Option Lost
  /-- A release or a phase has begun to write the context's stores and has not come to their end (R218, R351). -/
  begun : Bool
  /-- By load queue: the cycle of the latest load, and the entries it pushed, which the next cycle may pop (R261). -/
  lqNew : Vector (Nat × Nat) 4
  /-- The cycle in which each stream may next issue (R22); the model's own. -/
  nextS : Nat
  nextA : Nat
  nextV : Nat
  nextM : Nat
  /-- Its tiles and their lines while it is saved (R100, R352). -/
  savedTiles : Table Tile
  savedSpad : Memory
  deriving DecidableEq, Repr

/-- The EMPTY bank (R31, R414). -/
def Ctx.empty : Ctx :=
  { id := 0, home := 0, status := .empty, vi := 0, vcn := 0, taskq := .void, cbase := .void, join := 0,
    frame := 0, finc := 0, ev := false, handler := false, held := false, pcS := 0, pcA := 0, pcV := 0, pcM := 0, idleA := true, idleV := true,
    idleM := true, loopS := .off, loopA := .off, loopV := .off, loopM := .off, s := Vector.replicate 32 .void,
    a := Vector.replicate 32 .void, k := Vector.replicate 8 .void, v := Vector.replicate 16 [],
    c := Vector.replicate 16 .void, mask := [], rb := Vector.replicate 4 .void, zc := Vector.replicate 8 .void,
    wd := Vector.replicate 4 .void, acc := Vector.replicate 2 [], tok := Vector.replicate 12 .void,
    lq := Vector.replicate 4 [], sq := Vector.replicate 2 [], dq := Vector.replicate 2 [], xq := [], fq := [],
    bqSA := [], bqSV := [], bqSM := [], bqAS := [], bqVS := [], rmode := .void, tvec := .void, tcause := .void,
    tinfo := .void, epcS := .void, epcA := .void, epcV := .void, epcM := .void, epcMN := .void, flights := [],
    run := none, fills := [], mrs := 0, mqw := none, mnx := none, mwd := none, mslot := false, sbuf := [], spill := [], spillPart := none, view := [], member := [],
    maker := [], cmds := [], seqNext := 0, waits := [], blocked := .nothing, inside := .nothing, atGroup := [], pend := none, stops := [], soft := [],
    lastTrap := 0, paused := [], tileWait := none, lost := none, begun := false,
    lqNew := Vector.replicate 4 (0, 0), nextS := 0, nextA := 0, nextV := 0, nextM := 0,
    savedTiles := [], savedSpad := .empty }

/-! ### Cores -/

/-- A weight slot: its header (R101) and its lines with their pennants (R85). -/
structure Slot where
  hdr : BitVec 128
  mem : Memory
  deriving DecidableEq, Repr

def Slot.reset : Slot := ⟨0xFFFF, .empty⟩

/-- An entry of the closure environment store (R104). -/
structure Env where
  pen : Pen
  refs : BitVec 16
  kinds : BitVec 16
  used : Bool
  vals : Vector Dword 8
  /-- The virtual core it was made under (R106). -/
  vcn : BitVec 16
  deriving DecidableEq, Repr

def Env.reset : Env := ⟨voidPen, 0, 0, false, Vector.replicate 8 0, 0⟩

/-- A page's ownership entry (R122). -/
structure Own where
  version : Word
  vi : BitVec 8
  valid : Bool
  prot : Bool
  tbl : Bool
  evicted : Bool
  deriving DecidableEq, Repr

/-- A line of a core's L1 data cache: the line of memory it copies with that line's pennant, and the bank whose load
filled it (R107). -/
structure L1Line where
  line : Nat
  pen : Pen
  bank : Bool
  data : Line
  deriving DecidableEq, Repr

/-- A cached translation (R120): the pennant it was made for, the virtual page, or the first of a 2 MiB run, the leaf
and, for a frame of the die, the ownership entries it was checked against, one for each page. -/
structure Xlat where
  pen : Pen
  page : Nat
  run : Bool
  leaf : BitVec 128
  own : List Own
  deriving DecidableEq, Repr

/-- A 4 KiB block of a weight tile as its source delivers it, in the weight port's staging ring or on its way to the
array (R93, R102, R385): the fetching context's pennant, and the lines as fetched. -/
structure WBlock where
  pen : Pen
  wct : Bool
  key : Nat
  cmp : Nat
  /-- Its lines: L of a stored image, 64 logical ones. -/
  lines : List Line
  /-- A line of its image reads stale. -/
  stale : Bool
  /-- The tweak of its first line (R383). -/
  tweak : Nat
  /-- The material its key slot held when the block was checked; no party can read it (R171). -/
  mat : BitVec 512
  deriving DecidableEq, Repr

/-- What a scratchpad bank has been asked for in the latest cycle in which it was: by whom, as requester, pennant and virtual
core, and which requesters the conflict matrix has counted as not served (R94, R193). -/
structure BankUse where
  cycle : Nat
  wants : List (Nat × Pen × BitVec 16)
  counted : List Nat
  deriving DecidableEq, Repr

def BankUse.none : BankUse := ⟨0, [], []⟩

/-- What the two banks of a core share (R31, R93). -/
structure Core where
  tiles : Table Tile
  spad : Memory
  slots : Table Slot
  env : Table Env
  /-- Deliveries held, oldest first, by number (R98). -/
  holdq : List Nat
  running : Option Bool
  /-- The cycle of the last switch (R32). -/
  switched : Nat
  /-- The physical queue served last at each level (R39). -/
  served : Table Nat
  /-- The L1 data cache, newest fill first (R107). -/
  l1 : List L1Line
  /-- The S TLB and the stream TLB of the weight port, most recently used first (R120). -/
  tlb : List Xlat
  wtlb : List Xlat
  /-- The staging ring of the weight port: the tiles of the running MMAW from its committed position on, oldest first, each
as its blocks (R102). -/
  staging : List (List WBlock)
  /-- cq entries, each with its element, that a shutter has left stale, by bank, oldest first; a later push takes the oldest
one's place (R91). -/
  stale : List (Bool × Cmd)
  /-- By scratchpad bank: what it has been asked for (R94, R193). -/
  bankUse : Table BankUse
  deriving DecidableEq, Repr

def Core.reset : Core := ⟨[], .empty, [], [], [], none, 0, [], [], [], [], [], [], []⟩

/-! ### Dies -/

/-- The 64-bit counters of a die (R191, R382, R405). -/
structure Counters where
  dropPen : Dword
  dropTile : Dword
  dropCommit : Dword
  dedup : Dword
  detour : Dword
  eccCor : Dword
  eccUnc : Dword
  faultLost : Dword
  authFail : Dword
  fabDrop : Dword
  linkDead : Dword
  hostErr : Dword
  deriving DecidableEq, Repr

def Counters.zero : Counters := ⟨0, 0, 0, 0, 0, 0, 0, 0, 0, 0, 0, 0⟩

/-- One copy of a cluster's counter bank set (R193). -/
structure CountCopy where
  cfg : Dword
  sel : Dword
  count : Vector Dword 8
  /-- The conflict matrix, cell 16q + b. -/
  matrix : Table Word
  snap : Table Word
  deriving DecidableEq, Repr

def CountCopy.reset : CountCopy := ⟨0, 0, Vector.replicate 8 0, [], []⟩

/-- One copy of a trace unit (R195, R398, R401). -/
structure TraceCopy where
  tctl : Dword
  tbase : Dword
  tcap : Dword
  twptr : Word
  trptr : Word
  tnext : Word
  terr : Bool
  tdelay : Word
  tlost : Word
  /-- The on-die queue, oldest first (R399). -/
  queue : List (BitVec 256)
  bpAddr0 : Dword
  bpCtl0 : Dword
  bpAddr1 : Dword
  bpCtl1 : Dword
  deriving DecidableEq, Repr

def TraceCopy.reset : TraceCopy := ⟨0, 0, 0, 0, 0, 0, false, 0, 0, [], 0, 0, 0, 0⟩

/-- A cluster's counter bank set and trace unit, both copies of each; `pending` holds the guest writes that wait for
the end of a seizure (R194). -/
structure Cluster where
  hyp : CountCopy
  guest : CountCopy
  pending : List (Nat × Dword)
  traceHyp : TraceCopy
  traceGuest : TraceCopy
  deriving DecidableEq, Repr

def Cluster.reset : Cluster := ⟨.reset, .reset, [], .reset, .reset⟩

/-- A copy engine of a cluster: the commands it has taken, by context and SEQ, which wait at it without holding up one
another, and its stream TLB (R18, R120, R126, R145). -/
structure Engine where
  serves : List (Nat × BitVec 16)
  tlb : List Xlat
  deriving DecidableEq, Repr

def Engine.reset : Engine := ⟨[], []⟩

/-- What the nine cores of a cluster share besides its counters: the four copy engines, and the translation cache, 512
sets of eight entries, each most recently used first (R9, R120). -/
structure Units where
  engines : Vector Engine 4
  tcache : Table (List Xlat)
  deriving DecidableEq, Repr

def Units.reset : Units := ⟨Vector.replicate 4 .reset, []⟩

/-- Packet types (R367). -/
inductive PacketType where
  | wr | dlv | rd | rdr | red | hop | lrp | rsp | mgt
  deriving DecidableEq, Repr

/-- A home-controller operation carried by a HOP packet (R367). -/
inductive HomeOp where
  | none
  | sigDec
  | jDec
  | claim
  | push
  | parkNode
  /-- SIGWAIT, which waits at its signal (R284). -/
  | sigWait
  deriving DecidableEq, Repr

/-- What a packet says besides its numbers: its type, target, class of operation and lines (R366, R367). The leaf by
which its source translated, the mask of a partial line and the kind of its home-controller operation have no field in
R366: they travel beside the flits (log entry 8). -/
structure Msg where
  type : PacketType
  src : Nat
  dst : Nat
  pen : Pen
  /-- TGT (R366). -/
  tgt : BitVec 40
  aux : BitVec 8
  data : List Line
  /-- For RD: it reads a tile. -/
  tile : Bool
  leaf : BitVec 128
  op : HomeOp
  /-- Byte mask of a partial line, all ones for a whole one. -/
  mask : BitVec 64
  seq : BitVec 16
  /-- The stored length of the line of a WCT = 1 page that it carries (R391). -/
  len : Option Carried
  deriving DecidableEq, Repr

/-- A packet in flight: its header flit and its protected data flits (R365, R366, R372); where it is, and since when. -/
structure Packet where
  n : Nat
  header : BitVec 256
  flits : List (BitVec 256)
  /-- The die whose router holds it now, and since which cycle. -/
  here : Nat
  since : Nat
  /-- The dimension it travels in, 3 before its first hop (R369). -/
  dim : Nat
  /-- The cycle of its first transmission (R370). -/
  first : Nat
  /-- What travels beside the flits (log entry 8). -/
  tile : Bool
  leaf : BitVec 128
  op : HomeOp
  mask : BitVec 64
  len : Option Carried
  deriving DecidableEq, Repr

/-- What a source has heard of a request (R375, R377). -/
inductive RequestState where
  /-- No response yet. -/
  | sent
  /-- HELD: its 2 ms count is suspended. -/
  | held
  /-- BUSY: a new attempt follows. -/
  | busy
  deriving DecidableEq, Repr

/-- A request a source keeps until its response arrives (R375): the packet bit for bit, and what it says; the command it
serves and its member or line; the cycle of its last transmission or response; and whether any packet of it left its
die. -/
structure Request where
  pkt : Packet
  msg : Msg
  ctx : Nat
  cmd : BitVec 16
  part : Nat
  last : Nat
  state : RequestState
  left : Bool
  deriving DecidableEq, Repr

/-- A SIGWAIT of another die at its signal's home controller (R284): the command, the SEQ and pennant of its request, the
signal's global physical address, its threshold, the count that met it, and when its source is next told (log entry 74). -/
structure HomeWait where
  ctx : Nat
  cmd : BitVec 16
  src : Nat
  seq : BitVec 16
  pen : Pen
  gpa : Nat
  limit : Dword
  answer : Option Dword
  next : Nat
  deriving DecidableEq, Repr

/-- What a target keeps for one source die (R374). -/
structure Receive where
  high : BitVec 16
  done : BitVec 64
  /-- Cached responses by SEQ: the RSP code, the fault code and the value. -/
  cache : Table (Nat × Nat × Dword)
  /-- Newest epoch accepted (R371). -/
  epoch : Nat
  deriving DecidableEq, Repr

def Receive.reset : Receive := ⟨0xFFFF, 0, [], 0⟩

/-- A die's router (R363 to R377). -/
structure Router where
  pn : BitVec 34
  epoch : Nat
  /-- Next SEQ by target die. -/
  next : Table (BitVec 16)
  requests : List Request
  sources : Table Receive
  dead : List Nat
  /-- Commands counted in DETOUR, and by target die the cycle of the latest change of its DET (R376). -/
  detoured : List (Nat × BitVec 16)
  detAt : Table Nat
  /-- SIGWAITs of other dies that wait at signals of this one. -/
  sigwaits : List HomeWait
  deriving DecidableEq, Repr

def Router.reset : Router := ⟨0, 0, [], [], [], [], [], [], []⟩

/-- A part of a claim half that a pass visits (R188 step 7): claim entries, of a line each, or park nodes, of two lines. -/
structure SweepRange where
  vi : Nat
  node : Bool
  /-- Its first line, and its units. -/
  line : Nat
  count : Nat
  deriving DecidableEq, Repr

/-- A die's sweep unit (R190). -/
structure Sweep where
  prog : Dword
  total : Dword
  pass : Dword
  run : Bool
  /-- The cycle at which the pass started (R356, R378). -/
  begun : Nat
  /-- What its die held of claim halves when the pass started. -/
  halves : List SweepRange
  deriving DecidableEq, Repr

/-- What a die holds besides its cores and its device memory. -/
structure Die where
  own : Table Own
  /-- Core map entries by 65536·VI + vcn (R166). -/
  coreMap : Table Line
  /-- Window entries by 64·VI + n (R170). -/
  windows : Table (BitVec 128)
  routes : Table Word
  counters : Counters
  sweep : Sweep
  clusters : Table Cluster
  /-- The engines and the translation cache of each cluster. -/
  units : Table Units
  router : Router
  deriving DecidableEq, Repr

/-- SWTOTAL of a die: its populated memory and fixed stores; at bring-up no claim half exists (R190; log entry 12). -/
def swTotal : Dword := 5105384608

def Die.reset : Die := ⟨[], [], [], [], .zero, ⟨0, swTotal, 0, false, 0, []⟩, [], [], .reset⟩

/-! ### Packages -/

/-- A door: its descriptor (R155), its overflow counter (R192). -/
structure Door where
  desc : Line
  overflow : Word
  deriving DecidableEq, Repr

/-- A queue or door descriptor at reset: PEN void, the rest zero. -/
def Desc.reset : Line := 0xFFFF#512 <<< 432

def Door.reset : Door := ⟨Desc.reset, 0⟩

/-- A push held at a queue's home controller (R149). -/
structure HeldPush where
  queue : Nat
  record : Line
  pen : Pen
  deriving DecidableEq, Repr

/-- A barrier record being evaluated (R152): the signal values the queue has been notified of, in order of its six
signal fields; none for an unreachable signal. -/
structure Barrier where
  queue : Nat
  /-- Its TAIL position when it was pushed (R154). -/
  pos : Nat
  record : Line
  known : List (Option Dword)
  /-- Where its signals lay when it was last evaluated, by global physical address. -/
  places : List (Option Nat)
  /-- Its place in the side area, where it has been moved aside (R152). -/
  aside : Option Nat
  /-- The verdict once evaluated for the last time: satisfied, or the lowest failing index and code. -/
  verdict : Option (Option (Nat × Nat))
  deriving DecidableEq, Repr

/-- A notification of a signal's change on its way to a queue (R152). -/
structure Notice where
  queue : Nat
  sig : Dword
  value : Dword
  deriving DecidableEq, Repr

/-- A key slot: header and material (R171). -/
structure KeySlot where
  hdr : Dword
  material : BitVec 512
  deriving DecidableEq, Repr

def KeySlot.reset : KeySlot := ⟨0xFFFF000000000000, 0⟩

/-- A stored manifest (R392). -/
structure Manifest where
  pen : Pen
  objId : Dword
  objVer : Dword
  keyDigest : BitVec 256
  /-- Coordinates x + 256·y + 65536·z and digest of each entry. -/
  entries : List (Nat × BitVec 256)
  deriving DecidableEq, Repr

/-- States of a TDISP interface (R409). -/
inductive Tdisp where
  | unlocked | locked | run | error
  deriving DecidableEq, Repr

/-- How an access of the host completes (R406, R409). -/
inductive Completion where
  | successful | unsupportedRequest | completerAbort
  deriving DecidableEq, Repr

/-- What the host last received: the completion's status, and its bytes. -/
structure Reply where
  status : Completion
  bytes : List Byte
  deriving DecidableEq, Repr

/-- A package (R14). -/
structure Pkg where
  /-- The VI map, byte offset j in bits [8j+7:8j] (R163). -/
  viMap : Table (BitVec 1024)
  gens : Table Dword
  queues : Table Line
  doors : Table Door
  heldPushes : List HeldPush
  barriers : List Barrier
  /-- The records that stand in the rings as they were pushed, by 2^32·queue + position: each holds the closure reference and
  the hand-over that its removal ends, read or not (R422, log entry 60). -/
  pushed : Table Line
  notices : List Notice
  /-- Contexts waiting in DOORW: physical door and context, in order of entry (R41). -/
  doorWaiters : List (Nat × Nat)
  keys : Table KeySlot
  /-- Multicast groups by 64·VI + group (R174). -/
  mcast : Table (BitVec 1024)
  manifests : Table Manifest
  faultSeq : Table Nat
  saveKeys : Table (BitVec 512)
  /-- Spill quota per context in lines, by VI (R108, R215). -/
  spillQuota : Table Nat
  /-- Dispatches made by 65536·VI + vcn (R246). -/
  dispatches : Table Nat
  /-- Virtual cores to which dispatch is stopped, by 65536·VI + vcn (R350). -/
  stopped : Table Unit
  /-- PREQ and PSTAT (R349). -/
  preqReg : Dword
  pstat : Dword
  /-- Contexts a PREEMPT has still to save, by number (R350, R351). -/
  preq : List Nat
  /-- Contexts a CANCEL has still to end. -/
  cancelq : List Nat
  /-- Whether firmware images A and B verify (R410). -/
  images : Bool × Bool
  plim : Nat
  /-- The throttle level and the last hundred power samples, newest first (R413). -/
  throttle : Nat
  samples : List Nat
  mailbox : List Byte
  mailStatus : Dword
  /-- The request that the mailbox runs: its status word, and the uses it waits for (R123, R411). -/
  mailRun : Option (Dword × List Use)
  /-- MSI-X vectors by 2048·VI + vector: the table entry, whose bit 96 masks it, and the pending bit; and the signals
  sent, newest first (R407). -/
  msix : Table (BitVec 128 × Bool)
  signals : List (Nat × Nat)
  ideKeys : Table (BitVec 256)
  tdisp : Table Tdisp
  secret : Option (BitVec 256)
  reply : Reply
  /-- VIs whose function-level reset waits for its shutter (R360). -/
  flrPending : List Nat
  /-- Halted by temperature (R413). -/
  halted : Bool
  /-- The cycle of its last cold reset, from which its cycle CSR counts (R87). -/
  born : Nat
  deriving DecidableEq, Repr

/-- A package at cold reset (R414): VI 0 ACTIVE, all else at reset; its images verify (R410, log entry 13). -/
def Pkg.reset : Pkg :=
  { viMap := [(0, 1#1024 <<< 728)], gens := [], queues := [], doors := [], heldPushes := [], barriers := [], pushed := [],
    notices := [], doorWaiters := [], keys := [], mcast := [], manifests := [], faultSeq := [], saveKeys := [],
    spillQuota := [], dispatches := [], stopped := [], preqReg := 0, pstat := 0, preq := [], cancelq := [], images := (true, true), plim := 1600, throttle := 0,
    samples := [], mailbox := [], mailStatus := 0, mailRun := none, msix := [], signals := [], ideKeys := [], tdisp := [],
    secret := none, reply := ⟨.successful, []⟩, flrPending := [], halted := false, born := 0 }

/-! ### Groups, deliveries and reductions -/

/-- A member of a group: its context, index, and the phase from which it counts (R43). -/
structure Member where
  ctx : Nat
  index : Nat
  /-- The parity against which its next arrival is counted: it counts in the open phase where this is P. -/
  np : Bool
  /-- Its final arrival was a request that no response answered and that was not counted (R423). -/
  lost : Bool
  deriving DecidableEq, Repr

/-- An arrival at a group descriptor (R130, R233). The stores it carries stand in its context's buffer until the boundary
takes them, marked with the group (R139). -/
structure Arrival where
  ctx : Nat
  index : Nat
  parity : Bool
  leave : Bool
  pen : Pen
  /-- The die whose tables translate the stores. -/
  die : Nat
  /-- The address its context knows the descriptor by. -/
  va : Nat
  deriving DecidableEq, Repr

/-- A group (R42): where its descriptor lies, and the die, VI and virtual address through which it was last reached;
its members and arrivals, and the lines of the boundary being committed, each with the stores that reach it in ascending
member index (R130). -/
structure Group where
  n : Nat
  vi : BitVec 8
  gpa : Nat
  die : Nat
  va : Nat
  pen : Pen
  /-- The parity of the open phase, as P has it (R42). -/
  parity : Bool
  members : List Member
  arrivals : List Arrival
  commit : Option (List (List (Arrival × SbEntry)))
  paused : List CommitPause
  deriving DecidableEq, Repr

/-- How far a delivery has come (R98, R275). -/
inductive DeliveryState where
  | presented | held
  /-- Held while the tile's context is saved (R100). -/
  | parked
  | admitted | complete | ended
  deriving DecidableEq, Repr

/-- A delivery into a tile (R98). -/
structure Delivery where
  n : Nat
  /-- Its target: die, core and tile. -/
  die : Nat
  core : Nat
  tile : Nat
  vi : BitVec 8
  vcn : BitVec 16
  /-- First line in the tile, and its lines in all. -/
  line : Nat
  lines : Nat
  pen : Pen
  state : DeliveryState
  /-- Lines landed so far. -/
  landed : List Nat
  /-- The command it belongs to: context, SEQ and member slot. -/
  ctx : Nat
  cmd : BitVec 16
  part : Nat
  /-- The source die and the SEQ of its FIRST packet, for a delivery over the fabric (R377). -/
  remote : Option (Nat × BitVec 16)
  /-- The cycle at which its state last changed, or its ADMIT was last sent. -/
  since : Nat
  /-- Lines that came with its FIRST packet and wait for admission (R377). -/
  data : List Line
  /-- A packet after its FIRST has arrived. -/
  more : Bool
  /-- It has been held: its source is told when it is admitted (R377). -/
  waited : Bool
  deriving DecidableEq, Repr

/-- A CPYLR reduction (R381): the partials that have reached each die's router, at the present
level of the tree, and the die that holds each. -/
structure Reduction where
  n : Nat
  ctx : Nat
  cmd : BitVec 16
  /-- The group's members, by slot, as its entry named them at the start. -/
  members : List Nat
  /-- The lines of each member's tile that have been read, by slot, in order (R279). -/
  reads : Table (List Line)
  dies : List Nat
  /-- The partial held for each place of the present level, as lines. -/
  level : List (List Line)
  /-- Packets of the present level sent. -/
  sent : Nat
  deriving DecidableEq, Repr

/-! ### The domain -/

/-- What issues: the bank or slot of a context, and one of its streams. -/
structure Focus where
  key : Nat
  stream : Stream
  deriving DecidableEq, Repr

/-- The acts of the agents other than the streams, one for each event row of the opcode table: the instruction of the
same name with the same operands (`perform` in Agents.lean; a type of their own, because a value of so late a
constructor of Instr cannot be compiled); the host's reads of windows, which have no row, since nothing of the
machine but the reply changes by them; and what the loader tells the device of an image: its spill quota and the lines of its
group descriptors (R42, R108, R215). -/
inductive Act where
  | vPushLand
  | kstepCommit
  | mhadRowWrite
  | mdrnRowLand
  | mzeroEffect
  | mwldSlotWrite
  | weightPortFetch
  | dispatch (k : Nat)
  | bankSwitch (c : Nat)
  | sliceExpiry (c : Nat)
  | tileWaitTimeout (k : Nat)
  | contextSave (k slot : Nat)
  | contextRestore (slot k : Nat)
  | trapEntry
  | contextEnd (k : Nat) (cause : BitVec 8)
  | commitComplete (g : Nat)
  | barrierEvaluate (p q : Nat) (sig : Dword)
  | heldPushEnter (p q : Nat)
  | engineTakeCommand (k : Nat) (seq : BitVec 16)
  | engineCommandComplete (k : Nat) (seq : BitVec 16)
  | deliveryArrive (n : Nat)
  | deliveryLanded (n : Nat)
  | sigwaitSatisfy (k : Nat) (seq : BitVec 16)
  | traceRecordWrite (dn cl : Nat) (hyp : Bool)
  | hostDoorAppend (p : Nat) (vi : BitVec 8) (door ofs : Nat) (data : List Byte) (ide : Bool)
  | doorHeadWrite (p : Nat) (vi : BitVec 8) (door : Nat) (v : Word) (ide : Bool)
  | hostMemRead (p : Nat) (vi : BitVec 8) (va : Dword) (len : Nat) (ide : Bool)
  | hostMemWrite (p : Nat) (vi : BitVec 8) (va : Dword) (data : List Byte) (ide : Bool)
  | overflowCounterClear (p : Nat) (vi : BitVec 8) (door : Nat) (v : Word)
  | counterConfigWrite (dn cl : Nat) (hyp : Bool) (vi : BitVec 8) (v : Dword)
  | traceCounterClear (dn cl : Nat) (hyp : Bool) (vi : BitVec 8) (lost : Bool) (v : Word)
  | tctlWrite (dn cl : Nat) (hyp : Bool) (vi : BitVec 8) (v : Dword)
  | trptrWrite (dn cl : Nat) (hyp : Bool) (vi : BitVec 8) (v : Word)
  | plimWrite (p : Nat) (v : Dword)
  | registerWrite (p : Nat) (vi : BitVec 8) (ofs : Nat) (v : Dword)
  | registerRead (p : Nat) (vi : BitVec 8) (ofs : Nat)
  | doorRead (p : Nat) (vi : BitVec 8) (door ofs : Nat) (ide : Bool)
  | preempt (p : Nat) (vi : BitVec 8) (vcn : BitVec 16) (g : Bool)
  | release (p : Nat) (vi : BitVec 8) (vcn : BitVec 16) (g : Bool)
  | cancel (p : Nat) (vi : BitVec 8) (vcn : BitVec 16) (g : Bool)
  | seed (p : Nat) (vi : BitVec 8) (index : Dword) (record : Line)
  | keyload (p : Nat) (vi : BitVec 8) (slot : Nat) (material : Line)
  | manreg (p : Nat) (vi : BitVec 8) (mid : Nat) (key sig body : List Byte)
  | mandel (p : Nat) (vi : BitVec 8) (mid : Nat)
  | getCertificate (p : Nat) (vi : BitVec 8)
  | challenge (p : Nat) (vi : BitVec 8) (nonce : List Byte)
  | getMeasurements (p : Nat) (vi : BitVec 8)
  | fabkey (p : Nat) (secret : BitVec 256)
  | ideKm (p : Nat) (vi : BitVec 8) (key : BitVec 256)
  | stopInterface (p : Nat) (vi : BitVec 8)
  | functionLevelReset (p : Nat) (vi : BitVec 8)
  | flrShutterResume (p : Nat) (vi : BitVec 8)
  | coldReset (p : Nat) (imgA imgB : Bool)
  | thermalHalt (p : Nat) (celsius : Nat)
  | powerSample (p : Nat) (watts : Nat)
  | throttleStep (p : Nat)
  | sweepPassStart (p : Nat)
  | sweepVisit (dn : Nat)
  | sweepPassEnd (p : Nat)
  | flitCrcRetry (dn : Nat) (link : BitVec 3)
  | linkDead (dn : Nat) (link : BitVec 3)
  | linkReturn (dn : Nat) (link : BitVec 3)
  | packetForward (n : Nat)
  | packetWaitExpiry (n : Nat)
  | wr (n : Nat)
  | dlv (n : Nat)
  | rd (n : Nat)
  | rdr (n : Nat)
  | red (n : Nat)
  | hop (n : Nat)
  | lrp (n : Nat)
  | rsp (n : Nat)
  | mgt (n : Nat)
  | requestReissue (dn n : Nat)
  | remoteTimeout (k : Nat) (seq : BitVec 16) (cmd : Bool) (tdie : BitVec 14) (addr : Dword)
  | admitRepeat (n : Nat)
  | deliveryRetry (n : Nat)
  | bootstrapMailboxGo (p : Nat) (v : Dword)
  | lockInterface (p : Nat) (vi : BitVec 8)
  | startInterface (p : Nat) (vi : BitVec 8)
  | loadImage (p : Nat) (vi : BitVec 8) (spill : Nat)
  | loadGroup (p : Nat) (vi : BitVec 8) (die : Nat) (va : Dword)
  deriving DecidableEq, Repr

/-- Who acts next: a stream of the machine issues its next word, or another agent performs an act. -/
inductive Turn where
  | issue (f : Focus)
  | act (e : Act)
  /-- An act for the context in a bank, which is the issuing context for it. -/
  | on (key : Nat) (e : Act)
  deriving DecidableEq, Repr

/-- The state of a domain. -/
structure State where
  /-- Core cycles since cold reset (R87). -/
  cycle : Nat
  focus : Focus
  /-- The acts that come next; the model's own. -/
  agenda : List Turn
  /-- Numbers not yet used for contexts, packets, deliveries, groups and reductions; the model's own. -/
  fresh : Nat
  /-- Device memory by 60-bit global physical address (R15, R109). -/
  mem : Memory
  /-- POISON and LEN of lines that have them set (R110). -/
  poison : Table Unit
  len : Table (BitVec 6)
  /-- Lines in which an error has arisen that no read has yet found: whether it is uncorrectable (R110). -/
  errors : Table Bool
  /-- Context banks by 2·(144·die + core) + bank, and save slots above 2^32. -/
  ctxs : Table Ctx
  /-- Cores by 144·die + core. -/
  cores : Table Core
  dies : Table Die
  pkgs : Table Pkg
  groups : List Group
  /-- The lines declared group descriptors, by the loader or by a JOIN, each with the pennant it was declared under (R42). -/
  descriptors : Table Pen
  deliveries : List Delivery
  packets : List Packet
  reductions : List Reduction
  deriving DecidableEq, Repr

/-- The machine right after cold reset (R414). -/
def State.reset : State :=
  { cycle := 0, focus := ⟨0, .s⟩, agenda := [], fresh := 0, mem := .empty, poison := [], len := [], errors := [], ctxs := [],
    cores := [], dies := [], pkgs := [], groups := [], descriptors := [], deliveries := [], packets := [], reductions := [] }

/-! ### Stops -/

/-- Why the machine stops. -/
inductive Fault where
  /-- Raised by `step` where every package that has been brought into use has halted by temperature (R413: its state is
  lost, and only a cold reset restarts it). Safe: the machine does nothing further. -/
  | halted
  deriving DecidableEq, Repr

/-- Why an instruction has no meaning. -/
inductive Refusal where
  /-- Raised by `exec` for an instruction of the opcode table that has no meaning yet, by its mnemonic. Safe: the run
  ends. -/
  | notModelled (mnemonic : String)
  deriving DecidableEq, Repr

end Sys2Proof.Machine
end

