-- ==== Sys2Proof/Machine/Tables.lean ====
section
/-! DEFINITION. Reading and writing tables and memories, bytes with pennants by line (R92, R111), and the bit fields of
raw descriptors. -/

namespace Sys2Proof.Machine

/-! ### Tables -/

/-- The entry of a key, or the default. -/
def Table.get {α : Type} (t : Table α) (k : Nat) (d : α) : α :=
  match t with
  | [] => d
  | (k', v) :: r => if k' == k then v else Table.get r k d

/-- Whether a key is listed. -/
def Table.has {α : Type} (t : Table α) (k : Nat) : Bool :=
  match t with
  | [] => false
  | (k', _) :: r => k' == k || Table.has r k

/-- The table with an entry put in its place. -/
def Table.put {α : Type} (t : Table α) (k : Nat) (v : α) : Table α :=
  match t with
  | [] => [(k, v)]
  | (k', v') :: r =>
    if k < k' then (k, v) :: (k', v') :: r
    else if k' == k then (k, v) :: r
    else (k', v') :: Table.put r k v

/-- The table without an entry. -/
def Table.drop {α : Type} (t : Table α) (k : Nat) : Table α := t.filter (fun e => e.1 != k)

/-- The entries of a table changed where a condition holds. -/
def Table.mapIf {α : Type} (t : Table α) (c : Nat → α → Bool) (f : α → α) : Table α :=
  t.map (fun e => (e.1, if c e.1 e.2 then f e.2 else e.2))

/-! ### Bits of raw words -/

/-- Bits [lo + w − 1 : lo] as a number. -/
def field {n : Nat} (x : BitVec n) (lo w : Nat) : Nat := (x.extractLsb' lo w).toNat

/-- x with bits [lo + w − 1 : lo] replaced by the low w bits of v. -/
def setField {n : Nat} (x : BitVec n) (lo w v : Nat) : BitVec n :=
  let m : BitVec n := (BitVec.allOnes w).setWidth n <<< lo
  (x &&& ~~~ m) ||| (((BitVec.ofNat w v).setWidth n) <<< lo)

/-- Byte j of a line (R3). -/
def lineByte (l : Line) (j : Nat) : Byte := l.extractLsb' (8 * j) 8

/-- Little-endian bytes. -/
def leBytes : Nat → Nat → List Byte
  | 0, _ => []
  | k + 1, n => BitVec.ofNat 8 n :: leBytes k (n / 256)

/-- The number little-endian bytes stand for. -/
def leNat : List Byte → Nat
  | [] => 0
  | b :: r => b.toNat + 256 * leNat r

def lineBytes (l : Line) : List Byte := leBytes 64 l.toNat
def lineOf (bs : List Byte) : Line := BitVec.ofNat 512 (leNat bs)

/-- Dword i of a line. -/
def lineDword (l : Line) (i : Nat) : Dword := l.extractLsb' (64 * i) 64

/-- The byte mask of bytes lo to lo + n − 1. -/
def maskRange (lo n : Nat) : BitVec 64 := (BitVec.ofNat 64 (2 ^ n - 1)) <<< lo
def maskAll : BitVec 64 := BitVec.allOnes 64

/-- The bit mask of a byte mask. -/
def spread (m : BitVec 64) : Line :=
  BitVec.ofNat 512 (leNat ((List.range 64).map (fun j => if m.getLsbD j then 0xFF#8 else 0)))

/-- `old` with the bytes of the mask taken from `new`. -/
def mergeBytes (m : BitVec 64) (new old : Line) : Line :=
  let b := spread m
  (new &&& b) ||| (old &&& ~~~ b)

/-! ### Memories -/

/-- The byte an address holds, whatever its pennant; 0 where nothing has been written (log entry 1). -/
def Memory.byte (m : Memory) (a : Nat) : Byte := Table.get m.cells a 0

/-- The pennant of line l, which is bytes 64l to 64l + 63. -/
def Memory.pen (m : Memory) (l : Nat) : Pen := Table.get m.pens l voidPen

/-- The memory with one byte changed. -/
def Memory.setByte (m : Memory) (a : Nat) (b : Byte) : Memory :=
  { m with cells := if b == 0 then Table.drop m.cells a else Table.put m.cells a b }

/-- The cells of the bytes of line l that are not 0. -/
def lineCells (l : Nat) (d : Line) : List Host.Cell :=
  ((List.range 64).map (fun j => (64 * l + j, lineByte d j))).filter (fun c => c.2 != 0)

/-- The memory with the bytes of line l changed. -/
def Memory.setLine (m : Memory) (l : Nat) (d : Line) : Memory :=
  { m with cells := m.cells.filter (fun c => c.1 / 64 < l) ++ (lineCells l d ++ m.cells.filter (fun c => l < c.1 / 64)) }

/-- The memory with one line's pennant changed. -/
def Memory.setPen (m : Memory) (l : Nat) (p : Pen) : Memory :=
  { m with pens := if p == voidPen then Table.drop m.pens l else Table.put m.pens l p }

/-- The 64 bytes of a line as they stand, whatever its pennant. -/
def Memory.raw (m : Memory) (l : Nat) : Line :=
  let c := m.cells.filter (fun c => c.1 / 64 == l)
  lineOf ((List.range 64).map (fun j => Table.get c (64 * l + j) 0))

/-- A read of a line by a reader with pennant p: zero when the line's pennant differs (R92). -/
def Memory.read (m : Memory) (p : Pen) (l : Nat) : Line := if m.pen l == p then m.raw l else 0

/-- A read of one byte. -/
def Memory.readByte (m : Memory) (p : Pen) (a : Nat) : Byte := if m.pen (a / 64) == p then m.byte a else 0

/-- Bytes and pennant of a line put as they are given. -/
def Memory.putLine (m : Memory) (l : Nat) (p : Pen) (d : Line) : Memory :=
  (m.setLine l d).setPen l p

/-- A write of part of a line, or of all of it, by a writer with pennant p (R92): a line of another pennant is retagged
and the bytes not written become zero. -/
def Memory.write (m : Memory) (p : Pen) (l : Nat) (mask : BitVec 64) (d : Line) : Memory :=
  if m.pen l == p then m.setLine l (mergeBytes mask d (m.raw l))
  else m.putLine l p (mergeBytes mask d 0)

end Sys2Proof.Machine
end

