-- ==== Sys2Proof/Machine/Base.lean ====
section
/-! DEFINITION. Where each part of a domain lies: dies, packages, cores, banks (R14, R15, R21), the accessors of State,
pennants (R186) and the fields of the VI map, queues and doors (R148, R155, R163). -/

namespace Sys2Proof.Machine

/-! ### Numbers of dies, packages, cores and banks -/

/-- The package of a die (R14). -/
def pkgOf (die : Nat) : Nat := die % 384 + 384 * (die / 768)
/-- Die 0 of a package (R14). -/
def die0 (p : Nat) : Nat := p % 384 + 768 * (p / 384)
/-- Die 1 of a package. -/
def die1 (p : Nat) : Nat := die0 p + 384
/-- Whether a die is die 1 of its package: the one with odd z. -/
def isDie1 (die : Nat) : Bool := die / 384 % 2 == 1
/-- The number of dies the coordinates can name (R14). -/
def dieCount : Nat := 9216

/-- A core of the domain: 144·die + core. -/
def coreKey (die core : Nat) : Nat := 144 * die + core
def dieOfCore (ck : Nat) : Nat := ck / 144
/-- A bank of a core. -/
def bankKey (ck : Nat) (bank : Bool) : Nat := 2 * ck + bank.toNat
/-- A save slot of a VI (R352). -/
def slotKey (p vi slot : Nat) : Nat := 4294967296 + (p * 256 + vi) * 262144 + slot
def isSlot (k : Nat) : Bool := 4294967296 ≤ k
def bankOf (k : Nat) : Bool := k % 2 == 1
def coreOf (k : Nat) : Nat := k / 2
/-- The cluster of a core (R21). -/
def clusterOf (ck : Nat) : Nat := ck % 144 / 9

/-! ### Accessors of the domain -/

def State.ctx (s : State) (k : Nat) : Ctx := Table.get s.ctxs k .empty
def State.setCtx (s : State) (k : Nat) (c : Ctx) : State := { s with ctxs := Table.put s.ctxs k c }
def State.core (s : State) (ck : Nat) : Core := Table.get s.cores ck .reset
def State.setCore (s : State) (ck : Nat) (c : Core) : State := { s with cores := Table.put s.cores ck c }
def State.die (s : State) (d : Nat) : Die := Table.get s.dies d .reset
def State.setDie (s : State) (d : Nat) (x : Die) : State := { s with dies := Table.put s.dies d x }
def State.pkg (s : State) (p : Nat) : Pkg := Table.get s.pkgs p .reset
def State.setPkg (s : State) (p : Nat) (x : Pkg) : State := { s with pkgs := Table.put s.pkgs p x }

def State.modCtx (s : State) (k : Nat) (f : Ctx → Ctx) : State := s.setCtx k (f (s.ctx k))
def State.modCore (s : State) (ck : Nat) (f : Core → Core) : State := s.setCore ck (f (s.core ck))
def State.modDie (s : State) (d : Nat) (f : Die → Die) : State := s.setDie d (f (s.die d))
def State.modPkg (s : State) (p : Nat) (f : Pkg → Pkg) : State := s.setPkg p (f (s.pkg p))

/-- The context that issues, and its update. -/
def State.cur (s : State) : Ctx := s.ctx s.focus.key
def State.setCur (s : State) (c : Ctx) : State := s.setCtx s.focus.key c
def State.modCur (s : State) (f : Ctx → Ctx) : State := s.setCur (f s.cur)

/-- The domain with its first unused number taken. -/
def State.takeFresh (s : State) : Nat × State := (s.fresh, { s with fresh := s.fresh + 1 })

/-- The key of the context with a given number, resident or saved. -/
def State.keyOfId (s : State) (id : Nat) : Option Nat :=
  (s.ctxs.find? (fun e => e.2.id == id && e.2.status != .empty)).map Prod.fst

/-! ### Counters -/

/-- One more, staying at all ones (R185). -/
def satInc {n : Nat} (x : BitVec n) : BitVec n := if x == BitVec.allOnes n then x else x + 1

def State.count (s : State) (d : Nat) (f : Counters → Counters) : State :=
  s.modDie d (fun x => { x with counters := f x.counters })

def Counters.incDropPen (c : Counters) : Counters := { c with dropPen := satInc c.dropPen }
def Counters.incDropTile (c : Counters) : Counters := { c with dropTile := satInc c.dropTile }
def Counters.incDropCommit (c : Counters) : Counters := { c with dropCommit := satInc c.dropCommit }
def Counters.incDedup (c : Counters) : Counters := { c with dedup := satInc c.dedup }
def Counters.incDetour (c : Counters) : Counters := { c with detour := satInc c.detour }
def Counters.incEccCor (c : Counters) : Counters := { c with eccCor := satInc c.eccCor }
def Counters.incEccUnc (c : Counters) : Counters := { c with eccUnc := satInc c.eccUnc }
def Counters.incFaultLost (c : Counters) : Counters := { c with faultLost := satInc c.faultLost }
def Counters.incAuthFail (c : Counters) : Counters := { c with authFail := satInc c.authFail }
def Counters.incFabDrop (c : Counters) : Counters := { c with fabDrop := satInc c.fabDrop }
def Counters.incLinkDead (c : Counters) : Counters := { c with linkDead := satInc c.linkDead }
def Counters.incHostErr (c : Counters) : Counters := { c with hostErr := satInc c.hostErr }

/-! ### VI map and generations -/

def Pkg.vi (p : Pkg) (v : Nat) : BitVec 1024 := Table.get p.viMap v 0
/-- `size` bytes of a VI map entry from a byte offset (R163). -/
def viField (e : BitVec 1024) (off size : Nat) : Nat := field e (8 * off) (8 * size)
def viRoot (e : BitVec 1024) (one : Bool) : Nat := viField e (if one then 8 else 0) 8
def viCbase (e : BitVec 1024) : Nat := viField e 16 8
def viPark (e : BitVec 1024) : Nat := viField e 40 8
def viClaim (e : BitVec 1024) (one : Bool) : Nat := viField e (if one then 56 else 48) 8
def viSideb (e : BitVec 1024) : Nat := viField e 64 8
def viParkn (e : BitVec 1024) : Nat := viField e 72 4
def viVcores (e : BitVec 1024) : Nat := viField e 76 2
def viFaultd (e : BitVec 1024) : Nat := viField e 78 2
def viPagerd (e : BitVec 1024) : Nat := viField e 80 2
def viQfirst (e : BitVec 1024) : Nat := viField e 82 2
def viQcount (e : BitVec 1024) : Nat := viField e 84 2
def viDfirst (e : BitVec 1024) : Nat := viField e 86 2
def viDcount (e : BitVec 1024) : Nat := viField e 88 2
def viClb (e : BitVec 1024) : Nat := viField e 90 1
/-- STATE: 0 FREE, 1 ACTIVE, 2 CLOSING. -/
def viState (e : BitVec 1024) : Nat := field e 728 2
def viProt (e : BitVec 1024) : Bool := field e 730 1 == 1
def setViState (e : BitVec 1024) (st : Nat) : BitVec 1024 := setField e 728 2 st

/-- The generations of a VI: 256, and 255 for VI 255, so that 0xFFFF is never formed (R186). -/
def genCount (v : Nat) : Nat := if v == 255 then 255 else 256
def Pkg.gen (p : Pkg) (v : Nat) : Dword := Table.get p.gens v 0
def genGen (g : Dword) : Nat := field g 0 8
def genSnap (g : Dword) : Nat := field g 8 8
def genRcnt (g : Dword) : Nat := field g 16 8

/-- A VI's current pennant in a package (R186). -/
def Pkg.pen (p : Pkg) (v : Nat) : Pen := BitVec.ofNat 16 (v % 256 * 256 + genGen (p.gen v))
def State.penOf (s : State) (p v : Nat) : Pen := (s.pkg p).pen v

/-- The VI and generation a pennant names. -/
def penVi (p : Pen) : Nat := p.toNat / 256
def penGen (p : Pen) : Nat := p.toNat % 256

/-- Whether a pennant is the current one of the VI it names. -/
def Pkg.current (p : Pkg) (x : Pen) : Bool := x != voidPen && p.pen (penVi x) == x

/-- Whether a pennant lies in the oldest SNAP generations of its VI's retired window (R186, R188). -/
def Pkg.inSnap (p : Pkg) (x : Pen) : Bool :=
  let v := penVi x
  let g := p.gen v
  let l := genCount v
  x != voidPen && (penGen x + l - (genGen g + l - genRcnt g) % l) % l < genSnap g

/-- A context's die, package and current pennant (R71). -/
def Ctx.die (c : Ctx) : Nat := dieOfCore c.home
def Ctx.pkg (c : Ctx) : Nat := pkgOf c.die
def State.ctxPen (s : State) (c : Ctx) : Pen := s.penOf c.pkg c.vi.toNat
def State.pen (s : State) : Pen := s.ctxPen s.cur
/-- The task queue CSR of a context as its records name it (R87). -/
def State.taskOf (s : State) (c : Ctx) : Nat := if c.taskq.pen == s.ctxPen c then c.taskq.val.toNat else 0
/-- The VI map entry of a context. -/
def State.ctxVi (s : State) (c : Ctx) : BitVec 1024 := (s.pkg c.pkg).vi c.vi.toNat

/-! ### Elements with pennants -/

/-- A read by a reader with pennant p (R71). -/
def Tag.read {n : Nat} (t : Tag n) (p : Pen) : BitVec n := if t.pen == p then t.val else 0
def Entry.read (e : Entry) (p : Pen) : Lanes := if e.pen == p then e.lanes else Lanes.zero

/-! ### Queue and door descriptors -/

def Pkg.queue (p : Pkg) (q : Nat) : Line := Table.get p.queues q Desc.reset
def Pkg.setQueue (p : Pkg) (q : Nat) (d : Line) : Pkg := { p with queues := Table.put p.queues q d }
def qBase (d : Line) : Nat := field d 448 64
def qPen (d : Line) : Pen := d.extractLsb' 432 16
def qHead (d : Line) : Nat := field d 384 32
def qTail (d : Line) : Nat := field d 352 32
def qPass (d : Line) : Nat := field d 320 32
def qCap (d : Line) : Nat := 2 ^ (field d 60 4 + 6)
def qPrio (d : Line) : Nat := field d 58 2
def qCur (d : Line) : Nat := field d 56 2
def qEn (d : Line) : Bool := field d 55 1 == 1
/-- SIDE holds the side area's records, 0 to 8, in three bits (R148): modulo 8 (log entry 15). -/
def setSide (d : Line) (n : Nat) : Line := setField d 52 3 n

def Pkg.door (p : Pkg) (n : Nat) : Door := Table.get p.doors n .reset
def Pkg.setDoor (p : Pkg) (n : Nat) (d : Door) : Pkg := { p with doors := Table.put p.doors n d }
def dBase (d : Line) : Nat := field d 448 64
def dPen (d : Line) : Pen := d.extractLsb' 432 16
def dHead (d : Line) : Nat := field d 400 32
def dTail (d : Line) : Nat := field d 368 32
def dOut (d : Line) : Bool := field d 63 1 == 1
def dCap (d : Line) : Nat := 2 ^ (field d 59 4 + 4)
def dVec (d : Line) : Nat := field d 48 11
def dEn (d : Line) : Bool := field d 47 1 == 1

/-- TAIL − HEAD modulo 2^32. -/
def span32 (tail head : Nat) : Nat := (tail + 4294967296 - head) % 4294967296

/-- The die that holds a queue's descriptor (R161), of package p. -/
def queueDie (p q : Nat) : Nat := if q < 4096 then die0 p else die1 p
def doorDie (p d : Nat) : Nat := if d < 16384 then die0 p else die1 p

/-! ### Core map -/

def Die.coreEntry (d : Die) (vi vcn : Nat) : Line := Table.get d.coreMap (65536 * vi + vcn) 0
def ceDie (e : Line) : Nat := field e 498 14
def ceCore (e : Line) : Nat := field e 490 8
def ceValid (e : Line) : Bool := field e 489 1 == 1
def ceVdie (e : Line) : Nat := field e 256 24
/-- Slot i of BIND (R166). -/
def ceBind (e : Line) (i : Nat) : Nat := field e (16 * i) 16
/-- The virtual queues a valid entry binds, in slot order. -/
def ceQueues (e : Line) : List Nat :=
  if ceValid e then ((List.range 16).map (ceBind e)).filterMap
    (fun b => if b / 32768 == 1 then some (b % 8192) else none)
  else []

end Sys2Proof.Machine
end

