-- ==== Sys2Proof/Machine/Crypto.lean ====
section
/-! DEFINITION. AES-256 (FIPS 197), XTS (IEEE 1619), GCM (SP 800-38D) and SHAKE256 (FIPS 202), which R115, R372, R383 and R389 name and the
spec does not spell out (PRESUMED, log entry 8). -/

namespace Sys2Proof.Machine

/-! ### AES-256 -/

/-- The S-box, entry b in bits [8b+7:8b]. -/
def aesSbox : BitVec 2048 :=
    0x16bb54b00f2d99416842e6bf0d89a18cdf2855cee9871e9b948ed9691198f8e1#256 ++
    0x9e1dc186b95735610ef6034866b53e708a8bbd4b1f74dde8c6b4a61c2e2578ba#256 ++
    0x08ae7a65eaf4566ca94ed58d6d37c8e779e4959162acd3c25c2406490a3a32e0#256 ++
    0xdb0b5ede14b8ee4688902a22dc4f816073195d643d7ea7c41744975fec130ccd#256 ++
    0xd2f3ff1021dab6bcf5389d928f40a351a89f3c507f02f94585334d43fbaaefd0#256 ++
    0xcf584c4a39becb6a5bb1fc20ed00d153842fe329b3d63b52a05a6e1b1a2c8309#256 ++
    0x75b227ebe28012079a059618c323c7041531d871f1e5a534ccf73f362693fdb7#256 ++
    0xc072a49cafa2d4adf04759fa7dc982ca76abd7fe2b670130c56f6bf27b777c63#256

/-- The inverse S-box. -/
def aesInvSbox : BitVec 2048 :=
    0x7d0c2155631469e126d677ba7e042b17619953833cbbebc8b0f52aae4d3be0a0#256 ++
    0xef9cc9939f7ae52d0d4ab519a97f51605fec8027591012b131c7078833a8dd1f#256 ++
    0xf45acd78fec0db9a2079d2c64b3e56fc1bbe18aa0e62b76f89c5291d711af147#256 ++
    0x6edf751ce837f9e28535ade72274ac9673e6b4f0cecff297eadc674f4111913a#256 ++
    0x6b8a130103bdafc1020f3fca8f1e2cd00645b3b80558e4f70ad3bc8c00abd890#256 ++
    0x849d8da75746155edab9edfd5048706c92b6655dcc5ca4d41698688664f6f872#256 ++
    0x25d18b6d49a25b76b224d92866a12e084ec3fa420b954cee3d23c2a632947b54#256 ++
    0xcbe9dec444438e3487ff2f9b8239e37cfbd7f3819ea340bf38a53630d56a0952#256

def subByte (b : Byte) : Byte := aesSbox.extractLsb' (8 * b.toNat) 8
def invSubByte (b : Byte) : Byte := aesInvSbox.extractLsb' (8 * b.toNat) 8

/-- Multiplication by x in GF(2^8). -/
def xtime (b : Byte) : Byte := if b.getLsbD 7 then (b <<< 1) ^^^ 0x1B else b <<< 1

/-- The product in GF(2^8) with a constant below 16. -/
def gfMul (b : Byte) (k : Nat) : Byte :=
  let b2 := xtime b
  let b4 := xtime b2
  let b8 := xtime b4
  (if k % 2 == 1 then b else 0) ^^^ (if k / 2 % 2 == 1 then b2 else 0) ^^^
  (if k / 4 % 2 == 1 then b4 else 0) ^^^ (if k / 8 % 2 == 1 then b8 else 0)

/-- Byte i of a 16-byte block, byte 0 in bits [7:0]. -/
def blkByte (x : BitVec 128) (i : Nat) : Byte := x.extractLsb' (8 * i) 8
/-- The block of sixteen bytes. -/
def blkOf (f : Nat → Byte) : BitVec 128 :=
  (List.range 16).foldl (fun acc i => acc ||| ((f i).setWidth 128 <<< (8 * i))) 0

def subBytes (x : BitVec 128) : BitVec 128 := blkOf (fun i => subByte (blkByte x i))
def invSubBytes (x : BitVec 128) : BitVec 128 := blkOf (fun i => invSubByte (blkByte x i))
/-- Row r of the state turns left by r; byte 4c + r is row r of column c. -/
def shiftRows (x : BitVec 128) : BitVec 128 := blkOf (fun i => blkByte x ((i + 4 * (i % 4)) % 16))
def invShiftRows (x : BitVec 128) : BitVec 128 := blkOf (fun i => blkByte x ((i + 12 * (i % 4)) % 16))
/-- One column mixed with the given row of coefficients. -/
def mixWith (m0 m1 m2 m3 : Nat) (x : BitVec 128) : BitVec 128 :=
  blkOf (fun i =>
    let c := i / 4 * 4
    let b := fun k => blkByte x (c + (i + k) % 4)
    gfMul (b 0) m0 ^^^ gfMul (b 1) m1 ^^^ gfMul (b 2) m2 ^^^ gfMul (b 3) m3)
def mixColumns : BitVec 128 → BitVec 128 := mixWith 2 3 1 1
def invMixColumns : BitVec 128 → BitVec 128 := mixWith 14 11 13 9

/-- A key-schedule word with its four bytes substituted. -/
def subWord (w : Word) : Word :=
  (subByte (w.extractLsb' 24 8)) ++ (subByte (w.extractLsb' 16 8)) ++
  (subByte (w.extractLsb' 8 8)) ++ (subByte (w.extractLsb' 0 8))

/-- The next key-schedule word, from the words so far, newest first (n of them). Byte 0 of a word is bits [7:0]. -/
def keyWord (n : Nat) (ws : List Word) (rcon : Byte) : Word :=
  let t := ws.getD 0 0
  let t := if n % 8 == 0 then subWord (t.rotateRight 8) ^^^ rcon.setWidth 32
    else if n % 8 == 4 then subWord t else t
  ws.getD 7 0 ^^^ t

/-- The remaining words of the schedule, newest first. -/
def keyWords : Nat → Nat → Byte → List Word → List Word
  | 0, _, _, ws => ws
  | k + 1, n, rcon, ws => keyWords k (n + 1) (if n % 8 == 0 then xtime rcon else rcon) (keyWord n ws rcon :: ws)

/-- The fifteen round keys, first to last. -/
def roundKeys (key : BitVec 256) : List (BitVec 128) :=
  let ws := (keyWords 52 8 1 ((List.range 8).foldl (fun l i => key.extractLsb' (32 * i) 32 :: l) [])).reverse
  (List.range 15).map (fun r =>
    ws.getD (4 * r + 3) 0 ++ ws.getD (4 * r + 2) 0 ++ ws.getD (4 * r + 1) 0 ++ ws.getD (4 * r) 0)

def aesRounds (x : BitVec 128) : List (BitVec 128) → BitVec 128
  | [] => x
  | [k] => shiftRows (subBytes x) ^^^ k
  | k :: r => aesRounds (mixColumns (shiftRows (subBytes x)) ^^^ k) r

/-- AES-256 encryption of one block. -/
def aesEncrypt (key : BitVec 256) (x : BitVec 128) : BitVec 128 :=
  match roundKeys key with
  | [] => x
  | k :: r => aesRounds (x ^^^ k) r

def aesInvRounds (x : BitVec 128) : List (BitVec 128) → BitVec 128
  | [] => x
  | [k] => x ^^^ k
  | k :: r => aesInvRounds (invSubBytes (invShiftRows (match r with
      | [] => x ^^^ k
      | _ => invMixColumns (x ^^^ k)))) r

/-- AES-256 decryption of one block. -/
def aesDecrypt (key : BitVec 256) (x : BitVec 128) : BitVec 128 :=
  match (roundKeys key).reverse with
  | [] => x
  | k :: r => aesInvRounds (invSubBytes (invShiftRows (x ^^^ k))) r

/-- The XTS tweak of the next block: times x in GF(2^128). -/
def xtsNext (t : BitVec 128) : BitVec 128 := if t.getLsbD 127 then (t <<< 1) ^^^ 0x87 else t <<< 1

/-- The four blocks of a line under XTS, with K1 = material[255:0] and K2 = material[511:256] (R383). -/
def xtsLine (enc : Bool) (material : BitVec 512) (tweak : Nat) (d : Line) : Line :=
  let k1 := material.extractLsb' 0 256
  let t0 := aesEncrypt (material.extractLsb' 256 256) (BitVec.ofNat 128 tweak)
  let one := fun (i : Nat) (t : BitVec 128) =>
    let b := d.extractLsb' (128 * i) 128 ^^^ t
    (if enc then aesEncrypt k1 b else aesDecrypt k1 b) ^^^ t
  let t1 := xtsNext t0
  let t2 := xtsNext t1
  let t3 := xtsNext t2
  one 3 t3 ++ one 2 t2 ++ one 1 t1 ++ one 0 t0

/-! ### GCM (NIST SP 800-38D), which R372 names -/

/-- The bytes of a block in the other order: GCM reads a block with its first byte the most significant. -/
def blkTurn (x : BitVec 128) : BitVec 128 := blkOf (fun i => blkByte x (15 - i))

/-- The product of GHASH, block bits numbered from the most significant: k bits of y are still to be read. -/
def ghashMul : Nat → BitVec 128 → BitVec 128 → BitVec 128
  | 0, _, _ => 0
  | k + 1, x, y =>
    (if y.getLsbD k then x else 0) ^^^ ghashMul k (if x.getLsbD 0 then (x >>> 1) ^^^ (0xE1#128 <<< 120) else x >>> 1) y

/-- GHASH of blocks under a hash key. -/
def ghash (h : BitVec 128) (bs : List (BitVec 128)) : BitVec 128 := bs.foldl (fun y b => ghashMul 128 (y ^^^ b) h) 0

/-- Block i of the key stream of a 96-bit nonce, first byte most significant. -/
def gcmStream (key : BitVec 256) (nonce : BitVec 96) (i : Nat) : BitVec 128 :=
  blkTurn (aesEncrypt key (blkTurn (nonce ++ BitVec.ofNat 32 i)))

/-- The blocks of a text encrypted, or decrypted, from counter 2 on. -/
def gcmCrypt (key : BitVec 256) (nonce : BitVec 96) (bs : List (BitVec 128)) : List (BitVec 128) :=
  bs.mapIdx (fun i b => b ^^^ gcmStream key nonce (i + 2))

/-- The tag of whole blocks of authenticated data and of ciphertext. -/
def gcmTag (key : BitVec 256) (nonce : BitVec 96) (aad ct : List (BitVec 128)) : BitVec 128 :=
  let h := blkTurn (aesEncrypt key 0)
  let lens := BitVec.ofNat 64 (128 * aad.length) ++ BitVec.ofNat 64 (128 * ct.length)
  ghash h (aad ++ ct ++ [lens]) ^^^ gcmStream key nonce 1

/-! ### SHAKE128 and SHAKE256 -/

/-- The state of the permutation: lane x of plane y in bits [64(5y+x)+63:64(5y+x)]. -/
abbrev Sponge := BitVec 1600

def Sponge.lane (st : Sponge) (i : Nat) : Dword := st.extractLsb' (64 * i) 64
def Sponge.plane (st : Sponge) (y : Nat) : BitVec 320 := st.extractLsb' (320 * y) 320
def Sponge.setLane (st : Sponge) (i : Nat) (v : Dword) : Sponge :=
  (st &&& ~~~ (BitVec.ofNat 1600 0xFFFFFFFFFFFFFFFF <<< (64 * i))) ||| (v.setWidth 1600 <<< (64 * i))

/-- Every lane of a plane turned left by one. -/
def turnLanes (p : BitVec 320) : BitVec 320 :=
  let one := fun (x : Nat) => (p.extractLsb' (64 * x) 64).rotateLeft 1
  one 4 ++ one 3 ++ one 2 ++ one 1 ++ one 0

/-- θ (FIPS 202, 3.2.1): to every plane the parities of the columns on either side. -/
def Sponge.theta (st : Sponge) : Sponge :=
  let p := st.plane 0 ^^^ st.plane 1 ^^^ st.plane 2 ^^^ st.plane 3 ^^^ st.plane 4
  let d := p.rotateLeft 64 ^^^ turnLanes (p.rotateRight 64)
  st ^^^ (d ++ d ++ d ++ d ++ d)

/-- The lanes in the order in which ρ and π go through them (3.2.2): n lanes from (x, y) on. -/
def laneWalk : Nat → Nat → Nat → List Nat
  | 0, _, _ => []
  | n + 1, x, y => (x + 5 * y) :: laneWalk n y ((2 * x + 3 * y) % 5)

/-- ρ and π (3.2.2, 3.2.3): each lane of the walk goes to the next lane's place, turned by the next triangular number. -/
def Sponge.rhoPi (st : Sponge) : Sponge :=
  let w := laneWalk 25 1 0
  (List.range 24).foldl (fun acc t =>
    acc.setLane (w.getD (t + 1) 0) ((st.lane (w.getD t 0)).rotateLeft ((t + 1) * (t + 2) / 2 % 64))) st

/-- χ (3.2.4), plane by plane. -/
def Sponge.chi (st : Sponge) : Sponge :=
  let f := fun (y : Nat) => let p := st.plane y; p ^^^ (~~~ p.rotateRight 64 &&& p.rotateRight 128)
  f 4 ++ f 3 ++ f 2 ++ f 1 ++ f 0

/-- The shift register of ι (3.2.5), one step on. -/
def iotaNext (r : Byte) : Byte := if r.getLsbD 7 then (r <<< 1) ^^^ 0x71 else r <<< 1

/-- The bits of ι for the powers j to 6 of a round, and the register after. -/
def iotaBits : Nat → Nat → Byte → Dword × Byte
  | 0, _, r => (0, r)
  | k + 1, j, r =>
    let (x, r') := iotaBits k (j + 1) (iotaNext r)
    ((if r.getLsbD 0 then x ||| (1 <<< (2 ^ j - 1)) else x), r')

/-- n rounds, the register of ι standing at r. -/
def Sponge.rounds : Nat → Byte → Sponge → Sponge
  | 0, _, st => st
  | n + 1, r, st =>
    let (c, r') := iotaBits 7 0 r
    Sponge.rounds n r' (st.theta.rhoPi.chi ^^^ c.setWidth 1600)

def Sponge.permute (st : Sponge) : Sponge := st.rounds 24 1

/-- The bytes in groups of n, at most k groups. -/
def groups {α : Type} (n : Nat) : Nat → List α → List (List α)
  | 0, _ => []
  | k + 1, l => if l.isEmpty then [] else l.take n :: groups n k (l.drop n)

/-- The number of little-endian bytes. -/
def bytesNat : List Byte → Nat
  | [] => 0
  | b :: r => b.toNat + 256 * bytesNat r

/-- The sponge after a message: the message, the suffix with the first bit of the padding, and the padding's last bit at the
end of a whole block of so many bytes (FIPS 202, 4 and 5.1). -/
def absorb (rate suffix : Nat) (m : List Byte) : Sponge :=
  let blocks := m.length / rate + 1
  let padded := bytesNat m + suffix * 256 ^ m.length + 2 ^ (8 * rate * blocks - 1)
  (List.range blocks).foldl (fun (st : Sponge) i =>
    (st ^^^ BitVec.ofNat 1600 (padded / 2 ^ (8 * rate * i) % 2 ^ (8 * rate))).permute) 0

/-- n blocks of output, byte 0 first (FIPS 202, 4). -/
def squeeze (rate : Nat) : Nat → Sponge → List Byte
  | 0, _ => []
  | n + 1, st => (List.range rate).map (fun i => st.extractLsb' (8 * i) 8) ++ squeeze rate n st.permute

/-- The first 32 bytes of SHAKE256, byte 0 in bits [7:0]: a rate of 136 bytes, and the suffix 1111 (FIPS 202, 6.2). -/
def shake256 (m : List Byte) : BitVec 256 := (absorb 136 0x1F m).extractLsb' 0 256

end Sys2Proof.Machine
end

