-- ==== Sys2Proof/Machine/Access.lean ====
section
/-! DEFINITION. What an access to device memory meets, in order (R116 to R128), and the line path behind it:
compression and encryption (R113 to R115, R383 to R388). -/

namespace Sys2Proof.Machine

/-! ### Fault codes (R89) -/

def fNone : Nat := 0
def fPage : Nat := 1
def fPerm : Nat := 2
def fOwner : Nat := 3
def fWindow : Nat := 4
def fVersion : Nat := 5
def fIntegrity : Nat := 6
def fAlign : Nat := 7
def fIllegal : Nat := 8
def fFifoUnder : Nat := 9
def fFifoOver : Nat := 10
def fToken : Nat := 11
def fNullK : Nat := 12
def fDangle : Nat := 13
def fEnvFull : Nat := 14
def fSpill : Nat := 15
def fSigNeg : Nat := 16
def fRemote : Nat := 17
def fTrap : Nat := 32
def fBrk : Nat := 33

/-! ### Leaf entries (R117, R118) -/

abbrev Leaf := BitVec 128
def Leaf.key (l : Leaf) : Nat := field l 116 12
def Leaf.e (l : Leaf) : Bool := field l 115 1 == 1
def Leaf.cmp (l : Leaf) : Nat := field l 112 3
def Leaf.lat (l : Leaf) : Nat := field l 110 2
def Leaf.win (l : Leaf) : Nat := field l 104 6
def Leaf.rap (l : Leaf) : Bool := field l 103 1 == 1
def Leaf.wct (l : Leaf) : Bool := field l 102 1 == 1
def Leaf.frame (l : Leaf) : Nat := field l 16 44
def Leaf.c (l : Leaf) : Bool := field l 4 1 == 1
def Leaf.x (l : Leaf) : Bool := field l 3 1 == 1
def Leaf.w (l : Leaf) : Bool := field l 2 1 == 1
def Leaf.r (l : Leaf) : Bool := field l 1 1 == 1
def Leaf.p (l : Leaf) : Bool := field l 0 1 == 1

/-- The size of a die's local space, 2^46 bytes (R15). -/
def dieSpan : Nat := 70368744177664
/-- Pages of stacked DRAM, and the first of them that hold the ownership table (R109). -/
def stackedPages : Nat := 786432
def ownTablePage : Nat := 785216
def lpddrPages : Nat := 4194304

/-- A local offset in a populated range (R109). -/
def populated (off : Nat) : Bool :=
  off < 51539607552 || (1099511627776 ≤ off && off < 1374389534720)

/-- The index of a populated local offset's page in the ownership table (R122). -/
def pageIndex (off : Nat) : Nat :=
  if off < 51539607552 then off / 65536 else stackedPages + (off - 1099511627776) / 65536

/-- The local offset at which a page of the ownership table begins. -/
def pageOffset (n : Nat) : Nat :=
  if n < stackedPages then n * 65536 else 1099511627776 + (n - stackedPages) * 65536

/-- A page's ownership entry; the pages of the table itself are TBL from bring-up on (R123). -/
def Die.page (d : Die) (n : Nat) : Own :=
  Table.get d.own n ⟨0, 0, false, false, ownTablePage ≤ n && n < stackedPages, false⟩
def Die.setPage (d : Die) (n : Nat) (o : Own) : Die := { d with own := Table.put d.own n o }

/-- A leaf as R118 has it: no reserved field set, no reserved CMP, a scheme wherever WCT = 1, and a frame in a populated
range. Its latency class is no part of this: no fault depends on LAT (R119). -/
def Leaf.wellFormed (l : Leaf) : Bool :=
  field l 60 42 == 0 && field l 5 11 == 0 &&
  l.cmp != 3 && l.cmp != 4 && l.cmp != 7 && !(l.wct && l.cmp == 0) &&
  (if l.win == 0 then populated (l.frame * 65536 % dieSpan) else field l 46 14 == 0)

/-- A latency class whose promise the frame keeps (R119). A window's frame is an offset, which breaks no promise: every
class but the reserved one is taken there (DESIGN CHOICE, log entry 48). -/
def Leaf.latOk (l : Leaf) : Bool :=
  let off := l.frame * 65536 % dieSpan
  if l.win == 0 then l.lat == 0 || (l.lat == 1 && off < 51539607552) || (l.lat == 2 && 51539607552 ≤ off) else l.lat != 3

/-- A leaf that VIMAP may write (R118, R119). One with P = 0 names no frame in use, so that no latency class but the reserved
one makes a promise there (R342). -/
def Leaf.ok (l : Leaf) : Bool := l.wellFormed && (if l.p then l.latOk else l.lat != 3)

/-- A line that every read refuses: it is poisoned, or an uncorrectable error has arisen in it (R110). -/
def State.badLine (s : State) (line : Nat) : Bool := Table.has s.poison line || Table.get s.errors line false

/-- 128 bits of memory as they stand: walks are exempt from pennant checks (R120). -/
def State.raw128 (s : State) (a : Nat) : BitVec 128 := (s.mem.raw (a / 64)).extractLsb' (8 * (a % 64)) 128

/-- Memory with bytes put as a table write puts them, pennants untouched. -/
def Memory.pokeBytes (m : Memory) (a : Nat) : List Byte → Memory
  | [] => m
  | b :: r => Memory.pokeBytes (m.setByte a b) (a + 1) r

/-- The leaf of a contiguity run agrees with its place in the run (R118). -/
def runOk (s : State) (table i : Nat) (l : Leaf) : Bool :=
  let first := i / 32 * 32
  let f0 : Leaf := s.raw128 (table + 16 * first)
  f0.frame % 32 == 0 &&
  (List.range 32).all (fun j =>
    let e : Leaf := s.raw128 (table + 16 * (first + j))
    !s.badLine ((table + 16 * (first + j)) / 64) && e.c && e.frame == f0.frame + j && setField e 16 44 0 == setField l 16 44 0)

/-- A table of a walk lies in the walking die's own stacked DRAM (R116). -/
def tablePlace (die a : Nat) : Bool := a / dieSpan == die && a % dieSpan < 51539607552

/-- A non-leaf entry: its next table, or the fault that ends the walk (R110, R116, R117). -/
def walkDown (s : State) (die a : Nat) : Except Nat Nat :=
  let e := s.raw128 a
  if s.badLine (a / 64) then .error fIntegrity
  else if field e 0 1 == 0 then .error fPage
  else if field e 60 68 != 0 || field e 1 15 != 0 || !tablePlace die (field e 16 44 * 65536) then .error fIntegrity
  else .ok (field e 16 44 * 65536)

/-- The level-1 table of a VI on a die (R163). -/
def State.root (s : State) (die vi : Nat) : Nat := viRoot ((s.pkg (pkgOf die)).vi vi) (isDie1 die)

/-- The leaf table that serves a virtual address. A root of zero, its reset value, names no table; one outside the die's
stacked DRAM breaks R116 as a malformed entry does (DEDUCED, log entry 49). -/
def leafTable (s : State) (die vi va : Nat) : Except Nat Nat := do
  if s.root die vi == 0 then .error fPage
  else if !tablePlace die (s.root die vi) then .error fIntegrity
  let t2 ← walkDown s die (s.root die vi + 16 * (va / 1099511627776 % 4096))
  walkDown s die (t2 + 16 * (va / 268435456 % 4096))

/-- The leaf of a virtual address (steps 1 and 2 of R125). -/
def walk (s : State) (die vi va : Nat) : Except Nat Leaf :=
  if 4503599627370496 ≤ va then .error fPage
  else match leafTable s die vi va with
    | .error e => .error e
    | .ok t =>
      let i := va / 65536 % 4096
      let l : Leaf := s.raw128 (t + 16 * i)
      if s.badLine ((t + 16 * i) / 64) then .error fIntegrity
      else if !l.p then .error fPage
      else if !l.wellFormed || (l.c && !runOk s t i l) then .error fIntegrity
      else .ok l

/-! ### The checks of R125 -/

/-- Who makes an access: the die it is made on, the VI whose tables translate it, its pennant. -/
structure Accessor where
  die : Nat
  vi : Nat
  pen : Pen
  deriving DecidableEq, Repr

/-- What an access asks of its leaf (step 3), and whether it needs the remote-atomic permit: always, or where the leaf
names a window (step 4; R280, R282). -/
structure Need where
  r : Bool
  w : Bool
  x : Bool
  rap : Bool
  rapWin : Bool
  deriving DecidableEq, Repr

def Need.read : Need := ⟨true, false, false, false, false⟩
def Need.write : Need := ⟨false, true, false, false, false⟩
def Need.fetch : Need := ⟨false, false, true, false, false⟩
def Need.combine : Need := ⟨false, true, false, true, false⟩
def Need.scatter : Need := ⟨false, true, false, false, true⟩

/-- A failing check: its step and its code. -/
structure Fail where
  step : Nat
  code : Nat
  deriving DecidableEq, Repr

/-- The same failure met at a target on another die: its steps 8 to 11 are numbered 16 to 19 here. -/
def Fail.far (f : Fail) : Fail := ⟨f.step + 8, f.code⟩

/-- A failure that awaits an answer: PAGE, and the WINDOW of step 4; nothing that fails at a target on another die
does (R126). -/
def Fail.awaits (f : Fail) : Bool := (f.code == fPage && f.step < 16) || (f.code == fWindow && f.step == 4)

/-- An access translated: its leaf and the global physical address. -/
structure Where where
  leaf : Leaf
  gpa : Nat
  deriving DecidableEq, Repr

def dieOfGpa (gpa : Nat) : Nat := gpa / dieSpan
def offOfGpa (gpa : Nat) : Nat := gpa % dieSpan

def routeOf (d : Die) (target : Nat) : Word := Table.get d.routes target 0
def routeP (r : Word) : Bool := field r 31 1 == 1
def routeLink (w : Word) : Nat := field w 28 3
def routeAlt (w : Word) : Nat := field w 25 3
def routeDet (w : Word) : Bool := field w 24 1 == 1

/-- The link a routing entry sends a packet on. -/
def linkOf (r : Word) : Nat := if routeDet r then routeAlt r else routeLink r

/-- The coordinates of a die index (R14). -/
def dieX (d : Nat) : Nat := d % 16
def dieY (d : Nat) : Nat := d / 16 % 24
def dieZ (d : Nat) : Nat := d / 384

/-- The die at the far end of a link. -/
def neighbour (d link : Nat) : Nat :=
  let x := dieX d
  let y := dieY d
  let z := dieZ d
  let f := fun (x y z : Nat) => x + 16 * y + 384 * z
  match link with
  | 0 => f ((x + 1) % 16) y z
  | 1 => f ((x + 15) % 16) y z
  | 2 => f x ((y + 1) % 24) z
  | 3 => f x ((y + 23) % 24) z
  | 4 => f x y ((z + 1) % 24)
  | _ => f x y ((z + 23) % 24)

def State.router (s : State) (d : Nat) : Router := (s.die d).router
/-- The domain secret a die holds. -/
def State.secretOf (s : State) (d : Nat) : Option (BitVec 256) := (s.pkg (pkgOf d)).secret

/-- The die at which a packet for dst that can make n more hops is dropped on its way, if it does not arrive (R370,
R410). -/
def lostAt (s : State) (dst : Nat) : Nat → Nat → Option Nat
  | 0, here => if here == dst then none else some here
  | n + 1, here =>
    if here == dst then none
    else
      let r := routeOf (s.die here) dst
      if !routeP r || 6 ≤ linkOf r || (s.router here).dead.contains (linkOf r) || (s.secretOf here).isNone then some here
      else lostAt s dst n (neighbour here (linkOf r))

/-- The epoch whose key a receiver uses for EP, given the newest it has accepted; none where EP names none (R371). -/
def epochFor (newest ep : Nat) : Option Nat :=
  if ep == newest % 4 then some newest
  else if ep == (newest + 3) % 4 && newest != 0 then some (newest - 1)
  else if ep == (newest + 1) % 4 then some (newest + 1)
  else none

def Router.source (r : Router) (src : Nat) : Receive := Table.get r.sources src .reset

/-- The key of a source in an epoch under a domain secret (R371). -/
def linkKey (secret : BitVec 256) (src epoch : Nat) : BitVec 256 :=
  shake256 (leBytes 32 secret.toNat ++ [0x53, 0x56, 0x34, 0x2D, 0x4C, 0x49, 0x4E, 0x4B] ++ leBytes 2 src ++ leBytes 4 epoch)

/-- A packet that a die forms now is protected under the key its receiver forms for it (R371). -/
def keysAgree (s : State) (src dst : Nat) : Bool :=
  match s.secretOf src, s.secretOf dst, epochFor ((s.router dst).source src).epoch ((s.router src).epoch % 4) with
  | some x, some y, some e =>
    (x == y && (s.router src).epoch == e) || linkKey x src (s.router src).epoch == linkKey y src e
  | _, _, _ => false

/-- How a packet formed now ends before it is performed: dropped at a router, or refused at its target. -/
inductive Loss where
  | dropped (d : Nat)
  | refused (d : Nat)
  deriving DecidableEq, Repr

def passage (s : State) (src dst : Nat) : Option Loss :=
  match lostAt s dst 47 src with
  | some d => some (.dropped d)
  | none => if keysAgree s src dst then none else some (.refused dst)

/-- How a request from one die to another, or its response, is lost. -/
def roundTrip (s : State) (die dst : Nat) : Option Loss :=
  if die == dst then none
  else match passage s die dst with
    | some x => some x
    | none => passage s dst die

/-- Step 7: KEY is LOADED for the accessor's tenancy and of the kind the leaf needs (R171). -/
def keyOk (s : State) (a : Accessor) (l : Leaf) : Bool :=
  if l.e || l.wct then
    let h := (Table.get (s.pkg (pkgOf a.die)).keys l.key .reset).hdr
    field h 46 2 == 2 && field h 48 16 == a.pen.toNat && (field h 45 1 == 1) == l.wct
  else true

/-- The die index is valid (R15): below 9,216, and entered in the routing table of the die that translates, which holds an
entry for itself too (R173). -/
def dieValid (s : State) (die target : Nat) : Bool := target < dieCount && routeP (routeOf (s.die die) target)

/-- Steps 1 to 7, at the source. A window to a die without P in the routing table fails step 5, as R126 and R170 say, before
step 6 is made; so a window comes to step 6 only with a die index of 9,216 or more, which no routing entry can hold (DEDUCED,
log entry 50). An address past the end of the target's local space wraps within it, where R127 says nothing (DESIGN CHOICE,
log entry 51). -/
def checkSource (s : State) (a : Accessor) (n : Need) (va : Nat) : Except Fail Where :=
  if 4503599627370496 ≤ va then .error ⟨1, fPage⟩
  else match walk s a.die a.vi va with
    | .error e => .error ⟨2, e⟩
    | .ok l =>
      if (n.r && !l.r) || (n.w && !l.w) || (n.x && !l.x) then .error ⟨3, fPerm⟩
      else if !l.rap && (n.rap || (n.rapWin && l.win != 0)) then .error ⟨4, fWindow⟩
      else
        let off := va % 65536
        if l.win == 0 then
          let gpa := l.frame * 65536 + off
          if dieOfGpa gpa != a.die then .error ⟨5, fPage⟩
          else if !dieValid s a.die a.die then .error ⟨6, fPage⟩
          else if !keyOk s a l then .error ⟨7, fPerm⟩
          else .ok ⟨l, gpa⟩
        else
          let d := s.die a.die
          let wn := Table.get d.windows (64 * a.vi + l.win) 0
          let target := field wn 114 14
          let foff := l.frame % 1073741824 * 65536 + off
          if field wn 113 1 == 0 || (target < dieCount && !routeP (routeOf d target)) || field wn 64 32 * 65536 ≤ foff then
            .error ⟨5, fWindow⟩
          else if !dieValid s a.die target then .error ⟨6, fPage⟩
          else if !keyOk s a l then .error ⟨7, fPerm⟩
          else .ok ⟨l, target * dieSpan + (field wn 16 30 * 65536 + foff) % dieSpan⟩

/-- Steps 8 to 11, at the target, for the line that holds `gpa`; `whole` is a write of all its bytes, which meets no
poison (R110, R131). -/
def checkTarget (s : State) (pen : Pen) (l : Leaf) (gpa : Nat) (whole : Bool) : Option Fail :=
  let d := dieOfGpa gpa
  let off := offOfGpa gpa
  if !populated off then some ⟨8, fPage⟩
  else
    let o := (s.die d).page (pageIndex off)
    if o.tbl then some ⟨8, fPerm⟩
    else if !(o.valid && s.penOf (pkgOf d) o.vi.toNat == pen) || (o.prot && !l.e && !l.wct) then some ⟨9, fOwner⟩
    else if o.evicted then some ⟨10, fPage⟩
    else if !whole && s.badLine (gpa / 64) then some ⟨11, fIntegrity⟩
    else none

/-- The target's checks of a translated access, on its own die or another. -/
def checkWhere (s : State) (a : Accessor) (w : Where) (whole : Bool) : Except Fail Where :=
  match checkTarget s a.pen w.leaf w.gpa whole with
  | some e => .error (if dieOfGpa w.gpa == a.die then e else e.far)
  | none => .ok w

/-- All the checks of one line's access, whether or not its die can be reached. -/
def checkAll (s : State) (a : Accessor) (n : Need) (va : Nat) (whole : Bool) : Except Fail Where :=
  match checkSource s a n va with
  | .error e => .error e
  | .ok w => checkWhere s a w whole

/-- The checks of an access that is performed only where its response can come: one at another die fails with REMOTE,
numbered step 20 here, while no response can reach its die (R410, R423). -/
def checkS (s : State) (a : Accessor) (n : Need) (va : Nat) (whole : Bool) : Except Fail Where :=
  match checkSource s a n va with
  | .error e => .error e
  | .ok w => if (roundTrip s a.die (dieOfGpa w.gpa)).isNone then checkWhere s a w whole else .error ⟨20, fRemote⟩

/-! ### Compressed blocks (R386 to R388) -/

/-- The bytes of up to n lines from line l on, as they stand. -/
def rawLines (m : Memory) (l n : Nat) : List Line := (List.range n).map (fun i => m.raw (l + i))

/-- Lines of a ZR image whose mask bits are set, in order, from the bytes after the mask. -/
def zrLines (mask : BitVec 64) : Nat → Nat → List Byte → List Line
  | 0, _, _ => []
  | k + 1, i, bs =>
    if mask.getLsbD i then lineOf (bs.take 64) :: zrLines mask k (i + 1) (bs.drop 64)
    else 0 :: zrLines mask k (i + 1) bs

/-- The 64 lines of a ZR image of `len` lines, none if it is malformed (R387). -/
def zrDecode (image : List Byte) (len : Nat) : Option (List Line) :=
  let mask := BitVec.ofNat 64 (leNat (image.take 8))
  let n := ((List.range 64).filter (fun i => mask.getLsbD i)).length
  if 64 * len < 8 + 64 * n then none else some (zrLines mask 64 0 (image.drop 8))

/-- Dwords w on of an LB image, from its nibbles and literals. -/
def lbDwords (ndict : Nat) (dict : List Dword) : List Nat → List Byte → Option (List Dword)
  | [], _ => some []
  | v :: r, lits =>
    if v < ndict then (lbDwords ndict dict r lits).map (fun l => dict.getD v 0 :: l)
    else if v == 15 then
      if lits.length < 8 then none
      else (lbDwords ndict dict r (lits.drop 8)).map (fun l => BitVec.ofNat 64 (leNat (lits.take 8)) :: l)
    else none

/-- Eight dwords make a line. -/
def linesOfDwords : Nat → List Dword → List Line
  | 0, _ => []
  | k + 1, ds =>
    BitVec.ofNat 512 ((ds.take 8).foldr (fun d n => d.toNat + 18446744073709551616 * n) 0) ::
      linesOfDwords k (ds.drop 8)

/-- The 64 lines of an LB image, none if it is malformed (R388). -/
def lbDecode (image : List Byte) : Option (List Line) :=
  let ndict := (image.getD 0 0).toNat
  if 15 < ndict || (image.drop 1).take 3 != [0, 0, 0] then none
  else
    let dict := (groups 8 ndict (image.drop 4)).map (fun b => BitVec.ofNat 64 (leNat b))
    let nib := (image.drop (4 + 8 * ndict)).take 256
    if nib.length < 256 then none
    else
      let vs := nib.flatMap (fun b => [b.toNat % 16, b.toNat / 16])
      (lbDwords ndict dict vs (image.drop (260 + 8 * ndict))).map (linesOfDwords 64)

/-- A block of `len` stored lines decompressed under CMP, or taken as it stands when len = 64 (R113, R385). -/
def decompress (cmp len : Nat) (lines : List Line) : Option (List Line) :=
  if len == 64 then some lines
  else
    let image := lines.flatMap lineBytes
    if cmp == 1 || cmp == 5 then zrDecode image len else lbDecode image

/-! ### The line path of a memory controller -/

/-- The key material of a leaf's slot, in the key store of the controllers of die d (R161). -/
def material (s : State) (d key : Nat) : BitVec 512 := (Table.get (s.pkg (pkgOf d)).keys key .reset).material

/-- The address of a page's side-table entry (R113, R163). The local page number is taken as the index of the page's
ownership entry, which numbers LPDDR pages after the stacked ones (DESIGN CHOICE, log entry 52). -/
def sideEntry (s : State) (vi gpa : Nat) : Nat :=
  let d := dieOfGpa gpa
  d * dieSpan + (viSideb ((s.pkg (pkgOf d)).vi vi) + 16 * pageIndex (offOfGpa gpa)) % dieSpan

/-- The stored length of a block, in lines (R113). -/
def blockLen (s : State) (vi : Nat) (l : Leaf) (gpa : Nat) : Nat :=
  if l.cmp == 5 || l.cmp == 6 then
    field (s.raw128 (sideEntry s vi gpa)) (6 * (gpa / 4096 % 16)) 6 + 1
  else (Table.get s.len (gpa / 4096 * 64) 0).toNat + 1

/-- A line's bytes under the memory row of R383 when the page is encrypted, with the slot of the line's own controller. -/
def decryptLine (s : State) (l : Leaf) (line : Nat) (x : Line) : Line :=
  if l.e && !l.wct then xtsLine false (material s (dieOfGpa (64 * line)) l.key) line x else x
def encryptLine (s : State) (l : Leaf) (line : Nat) (x : Line) : Line :=
  if l.e && !l.wct then xtsLine true (material s (dieOfGpa (64 * line)) l.key) line x else x

/-- A block's length entry cannot be read: it stands in a side-table line that every read refuses. -/
def lenBad (s : State) (vi : Nat) (l : Leaf) (gpa : Nat) : Bool :=
  (l.cmp == 5 || l.cmp == 6) && s.badLine (sideEntry s vi gpa / 64)

/-- The 64 logical lines of a compressed block, zeros when it is stale, none when its image is malformed or a line of it
cannot be read (R110, R114). -/
def readBlock (s : State) (a : Accessor) (l : Leaf) (gpa : Nat) : Option (List Line) :=
  let first := gpa / 4096 * 64
  if s.mem.pen first != a.pen then some (List.replicate 64 0)
  else
    let n := blockLen s a.vi l gpa
    if lenBad s a.vi l gpa || (List.range n).any (fun i => s.badLine (first + i)) then none
    else decompress l.cmp n ((List.range n).map (fun i => decryptLine s l (first + i) (s.mem.raw (first + i))))

/-- A line whose checks have passed, as its accessor sees it (step 12; R111, R114, R115). -/
def readLine (s : State) (a : Accessor) (w : Where) : Except Fail Line :=
  let line := w.gpa / 64
  if w.leaf.wct || w.leaf.cmp == 0 then
    .ok (if s.mem.pen line == a.pen then decryptLine s w.leaf line (s.mem.raw line) else 0)
  else match readBlock s a w.leaf w.gpa with
    | none => .error ⟨11, fIntegrity⟩
    | some ls => .ok (ls.getD (line % 64) 0)

/-- Lines put one after another under one pennant. -/
def putLines (m : Memory) (pen : Pen) : Nat → List Line → Memory
  | _, [] => m
  | line, x :: r => putLines (m.putLine line pen x) pen (line + 1) r

/-- Lines written whole lose their poison and every error that has arisen in them (R110). -/
def State.sound (s : State) (line n : Nat) : State :=
  let other := fun (k : Nat) => k < line || line + n ≤ k
  { s with poison := s.poison.filter (fun e => other e.1), errors := s.errors.filter (fun e => other e.1) }

/-- The LEN metadata of a line. -/
def State.setLen (s : State) (line : Nat) (v : BitVec 6) : State :=
  { s with len := if v == 0 then Table.drop s.len line else Table.put s.len line v }

/-- A write of the masked bytes of a line whose checks have passed (R92, R112, R114, R115). A compressed block is
stored raw, with L = 64 (log entry 9). A line of a page with WCT = 1 is stored as it is, and where its lengths stand in a side
table their entry stays as it stands, whatever the lines stored: R391 fixes a length for a copy from such a page alone (DESIGN
CHOICE, log entry 69). -/
def writeLine (s : State) (a : Accessor) (w : Where) (mask : BitVec 64) (x : Line) : Except Fail State :=
  let line := w.gpa / 64
  let s := if mask == maskAll then s.sound line 1 else s
  if w.leaf.wct then .ok { s with mem := s.mem.write a.pen line mask x }
  else if w.leaf.cmp == 0 then
    let s := s.setLen line 0
    if w.leaf.e then
      let old := if s.mem.pen line == a.pen then decryptLine s w.leaf line (s.mem.raw line) else 0
      .ok { s with mem := s.mem.putLine line a.pen (encryptLine s w.leaf line (mergeBytes mask x old)) }
    else .ok { s with mem := s.mem.write a.pen line mask x }
  else match readBlock s a w.leaf w.gpa with
    | none => .error ⟨11, fIntegrity⟩
    | some ls =>
      let first := line / 64 * 64
      let ls := ls.set (line % 64) (mergeBytes mask x (ls.getD (line % 64) 0))
      let ls := (List.range 64).map (fun i => encryptLine s w.leaf (first + i) (ls.getD i 0))
      let s := { s.sound first 64 with mem := putLines s.mem a.pen first ls }
      if w.leaf.cmp == 5 || w.leaf.cmp == 6 then
        let e := sideEntry s a.vi w.gpa
        let v := setField (s.raw128 e) (6 * (w.gpa / 4096 % 16)) 6 63
        .ok { s with mem := s.mem.pokeBytes e (leBytes 16 v.toNat) }
      else .ok (s.setLen first 63)

/-! ### Whole accesses -/

/-- A checked read of the line that holds va. -/
def accRead (s : State) (a : Accessor) (n : Need) (va : Nat) : Except Fail Line :=
  match checkS s a n va false with
  | .error e => .error e
  | .ok w => readLine s a w

/-- A checked write of masked bytes of the line that holds va. -/
def accWrite (s : State) (a : Accessor) (n : Need) (va : Nat) (mask : BitVec 64) (x : Line) : Except Fail State :=
  match checkS s a n va (mask == maskAll) with
  | .error e => .error e
  | .ok w => writeLine s a w mask x

/-- The same made by the home controller of a ring or of a group descriptor, which holds the line itself: no path is asked for
(R148, R155). -/
def homeRead (s : State) (a : Accessor) (n : Need) (va : Nat) : Except Fail Line :=
  match checkAll s a n va false with
  | .error e => .error e
  | .ok w => readLine s a w

def homeWrite (s : State) (a : Accessor) (n : Need) (va : Nat) (mask : BitVec 64) (x : Line) : Except Fail State :=
  match checkAll s a n va (mask == maskAll) with
  | .error e => .error e
  | .ok w => writeLine s a w mask x

/-- The die an access comes to, its own die where it has none. -/
def targetOf (s : State) (a : Accessor) (n : Need) (va : Nat) : Nat :=
  match checkSource s a n va with
  | .ok w => dieOfGpa w.gpa
  | .error _ => a.die

/-- A counter's home: a read and a write of dword i of one line in one event (R133). The new value is computed from the
count as the accessor reads it. -/
def dwordAt (s : State) (a : Accessor) (w : Where) (i : Nat) (f : Dword → Dword) : Except Fail (Dword × State) :=
  match readLine s a w with
  | .error e => .error e
  | .ok l =>
    let old := lineDword l i
    match writeLine s a w (maskRange (8 * i) 8) (setField (0 : Line) (64 * i) 64 (f old).toNat) with
    | .error e => .error e
    | .ok s => .ok (old, s)

/-- The same through the checks of an address. -/
def accDword (s : State) (a : Accessor) (va : Nat) (f : Dword → Dword) : Except Fail (Dword × State) :=
  match checkS s a Need.write va false with
  | .error e => .error e
  | .ok w => dwordAt s a w (va % 64 / 8) f

end Sys2Proof.Machine
end

