-- ==== Sys2Proof/Machine/Counting.lean ====
section
/-! DEFINITION. What counter bank sets count (R193, R194): the copies that see a context, events, and conflicts at the
scratchpad's banks (R94); and the caches of translations (R120, R121): hits, walks, replacement and invalidation. -/

namespace Sys2Proof.Machine

/-! ### Copies (R193, R398) -/

def State.cluster (s : State) (dn cl : Nat) : Cluster := Table.get (s.die dn).clusters cl .reset
def State.setCluster (s : State) (dn cl : Nat) (x : Cluster) : State :=
  s.modDie dn (fun d => { d with clusters := Table.put d.clusters cl x })

def ccPen (x : Dword) : Pen := x.extractLsb' 48 16
def ccCore (x : Dword) : Nat := field x 32 16
def ccEn (x : Dword) : Bool := x.getLsbD 31
def ccGvi (x : Dword) : Nat := field x 0 8
def tcTen (x : Dword) : Bool := x.getLsbD 31
def tcSmask (x : Dword) (st : Nat) : Bool := x.getLsbD (12 + st)
def tcKmask (x : Dword) (kind : Nat) : Bool := x.getLsbD kind

def Cluster.gvi (c : Cluster) : Nat := ccGvi c.hyp.cfg
/-- The guest copy of the counters, and of the trace unit, is seized (R194, R399). -/
def Cluster.seized (c : Cluster) : Bool := ccEn c.hyp.cfg && ccEn c.guest.cfg
def Cluster.traceSeized (c : Cluster) : Bool := tcTen c.traceHyp.tctl && tcTen c.traceGuest.tctl

/-! ### Which contexts a copy sees -/

/-- The hypervisor copy's core holds the context. -/
def Cluster.hypSees (c : Cluster) (x : Ctx) : Bool := ccCore c.hyp.cfg == x.home % 144 % 9
/-- The guest copy's virtual core and pennant are the context's. -/
def Cluster.guestSees (s : State) (c : Cluster) (x : Ctx) : Bool :=
  ccCore c.guest.cfg == x.vcn.toNat && ccPen c.guest.cfg == s.ctxPen x && c.gvi == x.vi.toNat && c.gvi != 0

/-- The cluster of a context's core, where it has been set up. -/
def clusterOfCtx (s : State) (c : Ctx) : Option (Nat × Cluster) :=
  let cl := clusterOf c.home
  if Table.has (s.die c.die).clusters cl then some (cl, s.cluster c.die cl) else none

/-! ### Counting (R193, R194) -/

/-- 64-bit counters stay at all ones (R185). -/
def satAdd (x : Dword) (n : Nat) : Dword := if x.toNat + n < 18446744073709551616 then x + BitVec.ofNat 64 n else BitVec.allOnes 64

/-- Counters whose event is the one given add n. -/
def CountCopy.add (x : CountCopy) (event n : Nat) : CountCopy :=
  { x with count := Vector.ofFn (fun i => let v := x.count.getD i.val 0; if field x.sel (8 * i.val) 8 == event then satAdd v n else v) }

/-- n events of a context. -/
def countEvent (s : State) (c : Ctx) (event n : Nat) : State :=
  match clusterOfCtx s c with
  | none => s
  | some (cl, x) =>
    let y := if ccEn x.hyp.cfg && x.hypSees c then { x with hyp := x.hyp.add event n } else x
    let y := if ccEn x.guest.cfg && !x.seized && x.guestSees s c then { y with guest := x.guest.add event n } else y
    s.setCluster c.die cl y

/-- Event codes (R193). -/
def evCycles : Nat := 1
def evIssued (st : Stream) : Nat := 2 + st.code
def evKsteps : Nat := 6
def evQueueStall : Nat := 7
def evTokenStall : Nat := 8
def evTlbMiss : Nat := 9
def evStreamMiss : Nat := 10
def evWalk : Nat := 11
def evSwitches : Nat := 12
def evCommands : Nat := 13
def evSent : Nat := 14
def evReceived : Nat := 15

/-! ### Bank conflicts (R94, R193) -/

/-- The requesters of a bank, in the order in which it serves them. -/
def reqM : Nat := 0
def reqEngine : Nat := 1
def reqA : Nat := 2

/-- A cell of the matrix counts one cycle. Its 32 bits wrap, where R185 fixes a saturation for 64-bit counters alone (DESIGN
CHOICE, log entry 70). -/
def CountCopy.conflict (x : CountCopy) (q b : Nat) : CountCopy :=
  { x with matrix := Table.put x.matrix (16 * q + b) (Table.get x.matrix (16 * q + b) 0 + 1) }

/-- A cycle in which a requester, for a context of a pennant and virtual core, was not served by a bank of a core. -/
def bankLost (s : State) (ck b : Nat) (w : Nat × Pen × BitVec 16) : State :=
  let dn := dieOfCore ck
  let cl := clusterOf ck
  if Table.has (s.die dn).clusters cl then
    let x := s.cluster dn cl
    let y := if ccEn x.hyp.cfg && ccCore x.hyp.cfg == ck % 144 % 9 then { x with hyp := x.hyp.conflict w.1 b } else x
    let mine := ccPen x.guest.cfg == w.2.1 && ccCore x.guest.cfg == w.2.2.toNat && x.gvi == penVi w.2.1 && x.gvi != 0
    s.setCluster dn cl (if ccEn x.guest.cfg && !x.seized && mine then { y with guest := y.guest.conflict w.1 b } else y)
  else s

/-- An access of requester q to a bank of a core, for a context of a pennant and virtual core. Of the requesters that want the
bank in one cycle it serves the first in its order; each other one was not served, and counts once for the cycle. Its access is
made all the same, as the order changes timing only (R94). -/
def bankAccess (s : State) (ck b q : Nat) (pen : Pen) (vcn : BitVec 16) : State :=
  let old := Table.get (s.core ck).bankUse b .none
  let old := if old.cycle == s.cycle then old else ⟨s.cycle, [], []⟩
  let wants := if old.wants.any (fun w => w.1 == q) then old.wants else old.wants ++ [(q, pen, vcn)]
  let first := wants.foldl (fun m w => min m w.1) 3
  let lost := wants.filter (fun w => w.1 != first && !old.counted.contains w.1)
  let s := s.modCore ck (fun c => { c with bankUse := Table.put c.bankUse b ⟨s.cycle, wants, old.counted ++ lost.map Prod.fst⟩ })
  lost.foldl (fun s w => bankLost s ck b w) s

/-- The bank of a line of the scratchpad (R94). -/
def bankOfLine (line : Nat) : Nat := line / 256 % 16

/-! ### Caches of translations (R120, R121) -/

/-- The TLB that serves an access: a core's S TLB, the stream TLB of its weight port, or that of a copy engine. -/
inductive Tlb where
  | s (ck : Nat)
  | port (ck : Nat)
  | engine (die cl e : Nat)
  deriving DecidableEq, Repr

def Tlb.size : Tlb → Nat
  | .s _ => 64
  | _ => 16

/-- The die and cluster whose translation cache refills the TLB. -/
def Tlb.cluster : Tlb → Nat × Nat
  | .s ck => (dieOfCore ck, clusterOf ck)
  | .port ck => (dieOfCore ck, clusterOf ck)
  | .engine d cl _ => (d, cl)

def Tlb.missEvent : Tlb → Nat
  | .s _ => evTlbMiss
  | _ => evStreamMiss

def Die.unitsOf (d : Die) (cl : Nat) : Units := Table.get d.units cl .reset
def State.modUnits (s : State) (dn cl : Nat) (f : Units → Units) : State :=
  s.modDie dn (fun d => { d with units := Table.put d.units cl (f (d.unitsOf cl)) })
def Units.engine (u : Units) (e : Nat) : Engine := u.engines.getD e .reset
def Units.modEngine (u : Units) (e : Nat) (f : Engine → Engine) : Units :=
  { u with engines := u.engines.setIfInBounds e (f (u.engine e)) }

def State.tlb (s : State) : Tlb → List Xlat
  | .s ck => (s.core ck).tlb
  | .port ck => (s.core ck).wtlb
  | .engine d cl e => (((s.die d).unitsOf cl).engine e).tlb

def State.setTlb (s : State) (u : Tlb) (l : List Xlat) : State :=
  match u with
  | .s ck => s.modCore ck (fun c => { c with tlb := l })
  | .port ck => s.modCore ck (fun c => { c with wtlb := l })
  | .engine d cl e => s.modUnits d cl (fun x => x.modEngine e (fun g => { g with tlb := l }))

/-- A hit: the exact pennant, and the page or the run that holds it. -/
def Xlat.hits (x : Xlat) (pen : Pen) (page : Nat) : Bool :=
  x.pen == pen && x.page == (if x.run then page / 32 * 32 else page)

/-- The frames that an entry translates: one, or the 32 of a run. -/
def leafFrames (l : Leaf) : List Nat :=
  if l.c then (List.range 32).map (fun i => (l.frame / 32 * 32 + i) * 65536) else [l.frame * 65536]

/-- What a completed walk caches: the leaf, and the ownership entries of its local frames; a run as one entry. -/
def xlatOf (s : State) (a : Accessor) (va : Nat) : Option Xlat :=
  match walk s a.die a.vi va with
  | .error _ => none
  | .ok l =>
    let page := va / 65536
    some ⟨a.pen, if l.c then page / 32 * 32 else page, l.c, l,
      if l.win == 0 then (leafFrames l).map (fun f => (s.die a.die).page (pageIndex (offOfGpa f))) else []⟩

/-- An entry at the front of a set of n, in the place of one that hits alike: the least recently used leaves. -/
def lruPut (n : Nat) (l : List Xlat) (x : Xlat) : List Xlat :=
  x :: (l.filter (fun y => !(y.pen == x.pen && y.page == x.page && y.run == x.run))).take (n - 1)

/-- The set of the translation cache that holds an entry: its page, or its run, modulo 512 (DESIGN CHOICE, log entry
4: R120 fixes eight ways and no index). -/
def xlatSet (x : Xlat) : Nat := (if x.run then x.page / 32 else x.page) % 512

/-- The entry of the translation cache that serves a page. -/
def Units.cached (u : Units) (pen : Pen) (page : Nat) : Option Xlat :=
  match (Table.get u.tcache (page % 512) []).find? (fun x => !x.run && x.hits pen page) with
  | some x => some x
  | none => (Table.get u.tcache (page / 32 % 512) []).find? (fun x => x.run && x.hits pen page)

def Units.keep (u : Units) (x : Xlat) : Units :=
  { u with tcache := Table.put u.tcache (xlatSet x) (lruPut 8 (Table.get u.tcache (xlatSet x) []) x) }

/-! ### Errors found by a read (R110) -/

/-- What a read of a line does to an error that has arisen in it: a correctable one is written back, an uncorrectable one
leaves the line poisoned; each is counted at its die. -/
def readError (s : State) (line : Nat) : State :=
  match s.errors.find? (fun e => e.1 == line) with
  | none => s
  | some (_, bad) =>
    let s := { s with errors := Table.drop s.errors line }
    let d := dieOfGpa (64 * line)
    if bad then { s with poison := Table.put s.poison line () }.count d Counters.incEccUnc else s.count d Counters.incEccCor

/-- The lines of tables that a walk reads: an entry of each level it comes to, and the entries of a run beside its own. -/
def walkLines (s : State) (die vi va : Nat) : List Nat :=
  if 4503599627370496 ≤ va || s.root die vi == 0 || !tablePlace die (s.root die vi) then []
  else
    let a1 := s.root die vi + 16 * (va / 1099511627776 % 4096)
    match walkDown s die a1 with
    | .error _ => [a1 / 64]
    | .ok t2 =>
      let a2 := t2 + 16 * (va / 268435456 % 4096)
      match walkDown s die a2 with
      | .error _ => [a1 / 64, a2 / 64]
      | .ok t3 =>
        let i := va / 65536 % 4096
        let l : Leaf := s.raw128 (t3 + 16 * i)
        let run := if l.c then (List.range 8).map (fun j => (t3 + 16 * (i / 32 * 32)) / 64 + j) else []
        [a1 / 64, a2 / 64, (t3 + 16 * i) / 64] ++ run

/-- A walk finds the errors of the lines it reads. -/
def walkErrors (s : State) (die vi va : Nat) : State :=
  if s.errors.isEmpty then s else (walkLines s die vi va).foldl readError s

/-- A translation found or made for a TLB: it hits there, or in the translation cache of its cluster, or is walked; each
place then holds it as the most recent. The events are those of context c. Every cached entry agrees with the tables, since
each change of them invalidates it (R121, R123), so that what an access meets is read from the tables themselves
(`checkSource`). -/
def translate (s : State) (u : Tlb) (c : Ctx) (a : Accessor) (va : Nat) : State :=
  let page := va / 65536
  match (s.tlb u).find? (fun x => x.hits a.pen page) with
  | some x => s.setTlb u (lruPut u.size (s.tlb u) x)
  | none =>
    let s := countEvent s c u.missEvent 1
    let (d, cl) := u.cluster
    match ((s.die d).unitsOf cl).cached a.pen page with
    | some x => (s.modUnits d cl (fun y => y.keep x)).setTlb u (lruPut u.size (s.tlb u) x)
    | none =>
      let s := walkErrors (countEvent s c evWalk 1) a.die a.vi va
      match xlatOf s a va with
      | none => s
      | some x => (s.modUnits d cl (fun y => y.keep x)).setTlb u (lruPut u.size (s.tlb u) x)

/-- A stream TLB's prefetch of a page of its command's range: dropped where it would fault (R121). -/
def prefetch (s : State) (u : Tlb) (c : Ctx) (a : Accessor) (n : Need) (va : Nat) : State :=
  match checkAll s a n va true with
  | .error _ => s
  | .ok _ => translate s u c a va

/-- Cached translations of a package that a test selects become invalid on both dies (R121, R123). -/
def invalidate (s : State) (p : Nat) (sel : Xlat → Bool) : State :=
  let drop := fun (l : List Xlat) => l.filter (fun x => !sel x)
  let here := fun dn => pkgOf dn == p
  { s with
    cores := Table.mapIf s.cores (fun ck c => here (dieOfCore ck) && (c.tlb.any sel || c.wtlb.any sel))
      (fun c => { c with tlb := drop c.tlb, wtlb := drop c.wtlb }),
    dies := Table.mapIf s.dies (fun dn d => here dn && !d.units.isEmpty) (fun d =>
      { d with units := d.units.map (fun (cl, u) => (cl, { u with
          engines := u.engines.map (fun g => { g with tlb := drop g.tlb }),
          tcache := u.tcache.map (fun (i, l) => (i, drop l)) })) }) }

/-- Entries made for a VI whose page lies in a range of virtual addresses: a run of 32 pages by any of them. -/
def Xlat.inRange (x : Xlat) (vi lo n : Nat) : Bool :=
  penVi x.pen == vi && x.page < (lo + n) && lo < x.page + (if x.run then 32 else 1)

/-- Entries checked against the ownership entry of a frame of the package. -/
def Xlat.onFrame (x : Xlat) (frame : Nat) : Bool :=
  let l : Leaf := x.leaf
  l.win == 0 && (if x.run then l.frame / 32 == frame / 32 else l.frame == frame)

/-! ### What an access leaves at its target (R110, R191, R378) -/

/-- Step 9 of R125 fails because the accessor's pennant is not the page's owning pennant (R122, R191). -/
def penRefused (s : State) (pen : Pen) (gpa : Nat) : Bool :=
  let d := dieOfGpa gpa
  let o := (s.die d).page (pageIndex (offOfGpa gpa))
  populated (offOfGpa gpa) && !o.tbl && s.penOf (pkgOf d) o.vi.toNat != pen

/-- The lines that an access whose steps 1 to 11 pass reads: of a compressed block its stored lines and the line of its length
entry, or its first line alone where it is stale (R114); else its own line, unless it writes all of it. -/
def linesRead (s : State) (vi : Nat) (pen : Pen) (w : Where) (whole : Bool) : List Nat :=
  let first := w.gpa / 4096 * 64
  if w.leaf.wct || w.leaf.cmp == 0 then (if whole then [] else [w.gpa / 64])
  else if s.mem.pen first != pen then [first]
  else (if w.leaf.cmp == 5 || w.leaf.cmp == 6 then [sideEntry s vi w.gpa / 64] else []) ++
    (List.range (blockLen s vi w.leaf w.gpa)).map (fun i => first + i)

/-- An access to a translated place, whether its target performs it: a refusal of another die's because of the pennant is
counted in DROPPEN, and the errors of the lines it reads are found. -/
def meetTarget (s : State) (die : Nat) (pen : Pen) (w : Where) (whole : Bool) : State :=
  if dieOfGpa w.gpa != die && penRefused s pen w.gpa then s.count (dieOfGpa w.gpa) Counters.incDropPen
  else if s.errors.isEmpty then s
  else match checkTarget s pen w.leaf w.gpa whole with
    | some f => if f.step == 11 then readError s (w.gpa / 64) else s
    | none => (linesRead s (penVi pen) pen w whole).foldl readError s

/-- The same for an access by a virtual address, whose own steps may fail first. An access of another die that no response can
come from leaves nothing there. -/
def afterAccess (s : State) (a : Accessor) (n : Need) (va : Nat) (whole : Bool) : State :=
  match checkSource s a n va with
  | .error _ => s
  | .ok w => if (roundTrip s a.die (dieOfGpa w.gpa)).isSome then s else meetTarget s a.die a.pen w whole

end Sys2Proof.Machine
end

