-- ==== Sys2Proof/Machine/Home.lean ====
section
/-! DEFINITION. Operations at home controllers, shared by instructions and events: doors and fault records (R155 to
R158, R343, R344), closure references (R76, R105), pushes into task queues (R149, R150, R422), claim entries (R175 to
R182), signals and join counters (R37, R133, R153). -/

namespace Sys2Proof.Machine

/-! ### MSI-X and events (R407, R336) -/

/-- A vector's table entry at reset, masked, as PCI Express resets it (log entry 14). -/
def msixReset : BitVec 128 × Bool := (1 <<< 96, false)
def msixMasked (e : BitVec 128) : Bool := e.getLsbD 96

/-- Signals a vector of a function, or sets its pending bit where the host has not enabled it (R407). -/
def signalVector (p : Pkg) (vi vec : Nat) : Pkg :=
  let k := 2048 * vi + vec
  let e := Table.get p.msix k msixReset
  if msixMasked e.1 then { p with msix := Table.put p.msix k (e.1, true) } else { p with signals := (vi, vec) :: p.signals }

/-- Sets EV, and makes a context that waits in WFE READY (R32, R336). -/
def Ctx.setEv (c : Ctx) : Ctx :=
  { c with ev := true,
           status := if c.blocked == .event && c.status == .waiting then .ready else c.status,
           blocked := if c.blocked == .event then .nothing else c.blocked }

/-- Whether a context is live and belongs to a VI of a package. -/
def Ctx.isOf (c : Ctx) (p vi : Nat) : Bool := c.status != .empty && c.pkg == p && c.vi.toNat == vi

/-- Sets EV in every context of a VI in a package. -/
def wakeEv (s : State) (p vi : Nat) : State :=
  { s with ctxs := Table.mapIf s.ctxs (fun _ c => c.isOf p vi) Ctx.setEv }

/-! ### Doors (R155) -/

/-- The descriptor as the current generation sees it: a stale door reads as empty. -/
def freshDoor (d : Door) (pen : Pen) : Door :=
  if dPen d.desc == pen then d
  else { desc := setField (setField (setField d.desc 400 32 0) 368 32 0) 432 16 pen.toNat, overflow := 0 }

/-- One more discarded message (R192). -/
def doorOverflow (s : State) (p n : Nat) : State :=
  s.modPkg p (fun k => let d := k.door n; k.setDoor n { d with overflow := satInc d.overflow })

/-- The slot of a door's ring that its next message takes. -/
def doorSlot (s : State) (p vi n : Nat) : Nat :=
  let d := (freshDoor ((s.pkg p).door n) (s.penOf p vi)).desc
  dBase d + 64 * (dTail d % dCap d)

/-- The accessor of a door's own reads and writes, and the die of its home controller, which holds message 0 (R155). -/
def doorAccessor (s : State) (p vi n : Nat) : Accessor := ⟨doorDie p n, vi, s.penOf p vi⟩
def doorHome (s : State) (p vi n : Nat) : Nat := targetOf s (doorAccessor s p vi n) Need.read (dBase ((s.pkg p).door n).desc)

/-- What an append leaves at the ring, whatever becomes of it (R191). -/
def meetDoor (s : State) (p vi n : Nat) : State := afterAccess s (doorAccessor s p vi n) Need.write (doorSlot s p vi n) true

/-- An append of 64 bytes at TAIL by a party of the VI: the door's sequence number of the message, or the failing
check. The caller has seen that the door takes messages. -/
def doorAppend (s : State) (p vi n : Nat) (m : Line) : Except Fail (Nat × State) :=
  let pen := s.penOf p vi
  let d := freshDoor ((s.pkg p).door n) pen
  let t := dTail d.desc
  match homeWrite (meetDoor s p vi n) (doorAccessor s p vi n) Need.write (doorSlot s p vi n) maskAll m with
  | .error e => .error e
  | .ok s =>
    .ok (t, s.modPkg p (fun k =>
      let k := k.setDoor n { d with desc := setField d.desc 368 32 (t + 1) }
      if dOut d.desc then signalVector k vi (dVec d.desc) else k))

/-- Whether a door takes a message now: EN = 1 and room (R156, R157). -/
def doorOpen (s : State) (p vi n : Nat) : Bool :=
  let d := (freshDoor ((s.pkg p).door n) (s.penOf p vi)).desc
  dEn d && span32 (dTail d) (dHead d) < dCap d

/-! ### Fault records (R343, R344) -/

/-- The fields of a fault record. -/
structure FaultRec where
  addr : Nat
  pc : Nat
  detail : Nat
  cpos : Nat
  spos : Nat
  pen : Pen
  vcn : Nat
  code : Nat
  stream : Nat
  kind : Nat
  queue : Nat
  deriving DecidableEq, Repr

def FaultRec.line (r : FaultRec) (seq : Nat) : Line :=
  BitVec.ofNat 64 r.addr ++ BitVec.ofNat 64 r.pc ++ BitVec.ofNat 192 r.detail ++ BitVec.ofNat 32 r.cpos ++
  BitVec.ofNat 32 r.spos ++ BitVec.ofNat 64 seq ++ r.pen ++ BitVec.ofNat 16 r.vcn ++ BitVec.ofNat 8 r.code ++
  BitVec.ofNat 4 r.stream ++ BitVec.ofNat 4 r.kind ++ (0#3) ++ BitVec.ofNat 13 r.queue

/-- Appends a record to a virtual door without stalling, and gives its address in the ring. A record that finds its
door full, closed, missing or inbound, or whose write fails or cannot reach the ring's die, is dropped and counted (R158,
R422). -/
def postRecord (s : State) (p vi vdoor : Nat) (m : Line) : Option Nat × State :=
  let e := (s.pkg p).vi vi
  if viDcount e ≤ vdoor then (none, s.count (die0 p) Counters.incFaultLost)
  else
    let n := viDfirst e + vdoor
    let lost := fun (s : State) => (doorOverflow s p n).count (doorDie p n) Counters.incFaultLost
    if !doorOpen s p vi n || !dOut ((s.pkg p).door n).desc || (roundTrip s (doorDie p n) (doorHome s p vi n)).isSome then
      (none, lost s)
    else match doorAppend s p vi n m with
      | .error _ => (none, lost (meetDoor s p vi n))
      | .ok (t, s) =>
        let d := ((s.pkg p).door n).desc
        (some (dBase d + 64 * (t % dCap d)), s)

/-- Takes the VI's next fault sequence number, appends the record to its fault door, and where asked a copy to VI 0's
pager door (R126, R343). Gives the sequence number and the record's address. -/
def report (s : State) (p vi : Nat) (r : FaultRec) (pager : Bool) : (Nat × Option Nat) × State :=
  let seq := Table.get (s.pkg p).faultSeq vi 0
  let s := s.modPkg p (fun k => { k with faultSeq := Table.put k.faultSeq vi ((seq + 1) % 2 ^ 64) })
  let m := r.line seq
  let (at_, s) := postRecord s p vi (viFaultd ((s.pkg p).vi vi)) m
  let s := if pager then (postRecord s p 0 (viPagerd ((s.pkg p).vi 0)) m).2 else s
  ((seq, at_), s)

/-- A record of the scheduler or of a home controller that names a queue. -/
def queueRec (kind code pen queue detail : Nat) : FaultRec :=
  ⟨0, 0, detail, 0, 0, BitVec.ofNat 16 pen, 0, code, 6, kind, queue⟩

/-! ### Closure handles (R76, R104, R105) -/

abbrev Handle := Dword
def hPen (h : Handle) : Pen := h.extractLsb' 48 16
def hVcore (h : Handle) : Nat := field h 32 16
def hEnv (h : Handle) : Nat := field h 24 8
def hLive (h : Handle) : Bool := field h 23 1 == 1
def hEntry (h : Handle) : Nat := field h 0 23

/-- The die and core a virtual core stands on: the entry on `die` names the die, whose own copy names the core
(R166, R168). -/
def resolveVcn (s : State) (die vi vcn : Nat) : Option (Nat × Nat) :=
  let e := (s.die die).coreEntry vi vcn
  if !ceValid e then none
  else
    let t := ceDie e
    let f := (s.die t).coreEntry vi vcn
    if ceValid f then some (t, ceCore f) else none

def Core.envAt (c : Core) (i : Nat) : Env := Table.get c.env i .reset
def Core.setEnv (c : Core) (i : Nat) (e : Env) : Core := { c with env := Table.put c.env i e }

/-- The environment entry of a live handle whose pennant matches; none for a null or stale handle. -/
def envOf (s : State) (die vi : Nat) (h : Handle) : Option (Nat × Env) :=
  if !hLive h then none
  else match resolveVcn s die vi (hVcore h) with
    | none => none
    | some (d, c) =>
      let ck := coreKey d c
      let e := (s.core ck).envAt (hEnv h)
      if e.pen == hPen h && e.pen != voidPen then some (ck, e) else none

/-- Adds n references, none if they would pass 65,535 (R105). -/
def takeRefs (s : State) (die vi : Nat) (h : Handle) (n : Nat) : Option State :=
  match envOf s die vi h with
  | none => some s
  | some (ck, e) =>
    if 65535 < e.refs.toNat + n then none
    else some (s.modCore ck (fun c => c.setEnv (hEnv h) { e with refs := e.refs + BitVec.ofNat 16 n }))

/-- Releases one reference as KREL does (R250). -/
def releaseRef (s : State) (die vi : Nat) (h : Handle) : State :=
  match envOf s die vi h with
  | none => s
  | some (ck, e) =>
    let e := { e with refs := e.refs - 1, used := e.used && e.refs != 1 }
    s.modCore ck (fun c => c.setEnv (hEnv h) e)

/-! ### Task records (R34) -/

def recCode (r : Line) : Dword := r.extractLsb' 448 64
def recFrame (r : Line) : Dword := r.extractLsb' 384 64
def recJoin (r : Line) : Dword := r.extractLsb' 320 64
/-- ARG i. -/
def recArg (r : Line) (i : Nat) : Dword := r.extractLsb' (64 * i + 64) 64
def recKind (r : Line) : Nat := field r 62 2
def recClo (r : Line) : Bool := field r 61 1 == 1
def recBar (r : Line) : Bool := field r 60 1 == 1

/-- A task record of KIND 00. -/
def taskRecord (clo : Bool) (code frame join arg0 arg1 arg2 arg3 : Dword) : Line :=
  code ++ frame ++ join ++ arg3 ++ arg2 ++ arg1 ++ arg0 ++ (if clo then 0x2000000000000000#64 else 0#64)

/-! ### Pushes (R149, R150, R422) -/

/-- Barrier records of a queue in its side area. -/
def Pkg.sideCount (p : Pkg) (q : Nat) : Nat := (p.barriers.filter (fun b => b.queue == q && b.aside.isSome)).length

/-- The queue as the current generation sees it: a stale queue is reset before its first push (R150). -/
def freshQueue (p : Pkg) (q : Nat) (pen : Pen) : Pkg :=
  let d := p.queue q
  if qPen d == pen then p
  else
    let d := setField (setField (setField d 384 32 0) 352 32 0) 320 32 0
    let d := setField (setSide d 0) 56 2 (qPrio d)
    { p.setQueue q (setField d 432 16 pen.toNat) with
      barriers := p.barriers.filter (fun b => b.queue != q),
      pushed := p.pushed.filter (fun e => e.1 / 4294967296 != q) }

def queueOpen (p : Pkg) (q : Nat) (pen : Pen) : Bool :=
  let d := p.queue q
  qEn d && (qPen d != pen || span32 (qTail d) (qHead d) < qCap d)

/-- The slot of a queue's ring that its next record takes. -/
def queueSlot (p : Pkg) (q : Nat) (pen : Pen) : Nat :=
  let d := (freshQueue p q pen).queue q
  qBase d + 64 * (qTail d % qCap d)

/-- The accessor of a queue's own reads and writes, and the die of its home controller, which holds record 0 (R148). -/
def queueAccessor (s : State) (p vi q : Nat) : Accessor := ⟨queueDie p q, vi, s.penOf p vi⟩
def queueHome (s : State) (p vi q : Nat) : Nat := targetOf s (queueAccessor s p vi q) Need.read (qBase ((s.pkg p).queue q))

/-- What a push leaves at the ring, whatever becomes of it (R191). -/
def meetQueue (s : State) (p vi q : Nat) (pen : Pen) : State :=
  afterAccess s ⟨queueDie p q, vi, pen⟩ Need.write (queueSlot (s.pkg p) q pen) true

/-- Writes a record at TAIL and advances TAIL, in one event. The caller has seen that the queue is open. -/
def queueWrite (s : State) (p vi q : Nat) (pen : Pen) (r : Line) : Except Fail State :=
  match homeWrite (meetQueue s p vi q pen) ⟨queueDie p q, vi, pen⟩ Need.write (queueSlot (s.pkg p) q pen) maskAll r with
  | .error e => .error e
  | .ok s => .ok (s.modPkg p (fun k =>
      let k := freshQueue k q pen
      let d := k.queue q
      { k.setQueue q (setField d 352 32 (qTail d + 1)) with pushed := Table.put k.pushed (4294967296 * q + qTail d) r }))

/-- What became of a push through the home controller. -/
inductive PushResult where
  | entered
  | held
  | dropped
  deriving DecidableEq, Repr

/-- A record dropped at its home controller: its KIND 4 record, and its closure reference released (R422). -/
def dropRecord (s : State) (p vi vq : Nat) (pen : Pen) (r : Line) (code pos : Nat) : State :=
  let s := (report s p vi (queueRec 4 code pen.toNat vq pos) false).2
  if recClo r then releaseRef s (queueDie p (viQfirst ((s.pkg p).vi vi) + vq)) vi (recCode r) else s

/-- A push through the home controller of a virtual queue (R149): held while the queue is closed, full or has pushes
held before it; dropped out of range or where the ring refuses it or cannot be reached (R422), and, counted in DROPPEN, where its
pennant is not the tenancy's in that package (R191, R378). -/
def pushHome (s : State) (p vi vq : Nat) (pen : Pen) (r : Line) : PushResult × State :=
  let e := (s.pkg p).vi vi
  if s.penOf p vi != pen then (.dropped, s.count (queueDie p (viQfirst e + vq)) Counters.incDropPen)
  else if viQcount e ≤ vq then (.dropped, dropRecord s p vi vq pen r fPerm 0xFFFFFFFF)
  else
    let q := viQfirst e + vq
    if !queueOpen (s.pkg p) q pen || (s.pkg p).heldPushes.any (fun h => h.queue == q) then
      (.held, s.modPkg p (fun k => { k with heldPushes := k.heldPushes ++ [⟨q, r, pen⟩] }))
    else if (roundTrip s (queueDie p q) (queueHome s p vi q)).isSome then
      (.dropped, dropRecord s p vi vq pen r fRemote 0xFFFFFFFF)
    else match queueWrite s p vi q pen r with
      | .ok s => (.entered, s)
      | .error f => (.dropped, dropRecord (meetQueue s p vi q pen) p vi vq pen r f.code 0xFFFFFFFF)

/-! ### Claim entries (R175 to R181) -/

abbrev ClaimEntry := Line
def clName (e : ClaimEntry) (i : Nat) : Dword := e.extractLsb' (320 + 64 * i) 64
def clValue (e : ClaimEntry) : Dword := e.extractLsb' 256 64
def clHead (e : ClaimEntry) : Nat := field e 224 32
def clTail (e : ClaimEntry) : Nat := field e 192 32
def clMtok (e : ClaimEntry) : Nat := field e 160 32
def clPen (e : ClaimEntry) : Pen := e.extractLsb' 144 16
def clWait (e : ClaimEntry) : Nat := field e 128 16
/-- 0 EMPTY, 1 MAKING, 2 DONE. -/
def clState (e : ClaimEntry) : Nat := field e 110 2
def clPend (e : ClaimEntry) : Bool := field e 109 1 == 1
def clAge (e : ClaimEntry) : Nat := field e 106 3

/-- No next node in a parked-waiter list (R159). -/
def noNode : Nat := 0xFFFFFFFF

/-- The entry of a way at reset: void, EMPTY, no node, AGE the way (R175). -/
def claimReset (way : Nat) : ClaimEntry :=
  setField (setField (setField (setField (0 : Line) 224 32 noNode) 192 32 noNode) 144 16 0xFFFF) 106 3 way

/-- A claim bucket: die half, first entry index and address (R176). -/
structure Bucket where
  addr : Nat
  entry : Nat
  deriving DecidableEq, Repr

def bucketOf (v : BitVec 1024) (n0 n1 n2 : Dword) : Bucket :=
  let h := (n0 ^^^ n1.rotateLeft 21 ^^^ n2.rotateLeft 42) * 0x9E3779B97F4A7C15
  let clb := viClb v
  let die := field h 63 1
  let b := field h (63 - clb) clb
  ⟨viClaim v (die == 1) + 512 * b, (die * 2 ^ clb + b) * 8⟩

/-- The bucket and way of an entry index. -/
def bucketOfEntry (v : BitVec 1024) (entry : Nat) : Bucket :=
  let b := entry / 8
  let half := 2 ^ viClb v
  ⟨viClaim v (half ≤ b) + 512 * (b % half), b * 8⟩

/-- An entry of a bucket as a party with pennant p sees it: a stale one is at its reset value (R162). -/
def readClaim (s : State) (b : Bucket) (way : Nat) (pen : Pen) : ClaimEntry :=
  let e := s.mem.raw (b.addr / 64 + way)
  if clPen e == pen && e != 0 then e else claimReset way

/-- A raw line of a table put in place. -/
def putRaw (s : State) (line : Nat) (pen : Pen) (x : Line) : State := { s with mem := s.mem.putLine line pen x }

def writeClaim (s : State) (b : Bucket) (way : Nat) (e : ClaimEntry) : State :=
  putRaw s (b.addr / 64 + way) (clPen e) e

/-- A park node's record and its list fields (R159). -/
def nodeLine (v : BitVec 1024) (n : Nat) : Nat := viPark v / 64 + 2 * n

def nodeNext (x : Line) : Nat := field x 0 32
def nodeQueue (x : Line) : Nat := field x 32 16
def nodeInfo (next queue entry : Nat) : Line :=
  BitVec.ofNat 512 (next + 2 ^ 32 * (queue % 65536) + 2 ^ 64 * entry)

/-- ARG2 and ARG3 of a woken record (R160). -/
def wokenRecord (r : Line) (arg2 arg3 : Dword) : Line := setField (setField r 192 64 arg2.toNat) 256 64 arg3.toNat

/-- A claim status word (R177). -/
def claimStatus (outcome entry mtok : Nat) (hand : Bool) : Dword :=
  BitVec.ofNat 64 (outcome + (if hand then 128 else 0) + 256 * entry + 2 ^ 32 * mtok)

/-- Frees a node: its lines go void, so that it reads as no node. -/
def freeNode (s : State) (v : BitVec 1024) (n : Nat) : State :=
  putRaw (putRaw s (nodeLine v n) voidPen 0) (nodeLine v n + 1) voidPen 0

/-- The oldest node of an entry taken off its list: its record, its queue, and the entry after. -/
def popNode (s : State) (v : BitVec 1024) (e : ClaimEntry) : Line × Nat × ClaimEntry × State :=
  let n := clHead e
  let r := s.mem.raw (nodeLine v n)
  let x := s.mem.raw (nodeLine v n + 1)
  let e := setField (setField e 224 32 (nodeNext x)) 128 16 (clWait e - 1)
  let e := if nodeNext x == noNode then setField e 192 32 noNode else e
  (r, nodeQueue x, e, freeNode s v n)

/-- A hand-over of an entry (R181): EMPTY with no waiter; else the oldest node is pushed with the next maker token. A
push the home controller drops hands the entry on again (R422), at most once for each waiter. -/
def handOver (s : State) (p vi : Nat) (b : Bucket) (way : Nat) (pen : Pen) : Nat → State
  | 0 => s
  | fuel + 1 =>
    let v := (s.pkg p).vi vi
    let e := readClaim s b way pen
    if clState e != 1 then s
    else if clWait e == 0 then writeClaim s b way (setField (setField e 110 2 0) 109 1 0)
    else
      let e := setField (setField e 160 32 (clMtok e + 1)) 109 1 1
      let (r, q, e, s) := popNode s v e
      let s := writeClaim s b way e
      let r := wokenRecord r 0 (claimStatus 0 (b.entry + way) (clMtok e) true)
      match pushHome s p vi q pen r with
      | (.dropped, s) => handOver s p vi b way pen fuel
      | (_, s) => s

/-- The hand-over of an entry of a maker set, if it is still that maker's (R180, R181). -/
def handOverMaker (s : State) (p vi : Nat) (pen : Pen) (m : Maker) : State :=
  let v := (s.pkg p).vi vi
  let b := bucketOfEntry v m.entry.toNat
  let way := m.entry.toNat % 8
  let e := readClaim s b way pen
  if clState e == 1 && !clPend e && clMtok e == m.mtok.toNat then handOver s p vi b way pen (clWait e + 1) else s

/-- Wakes every node of an entry that has become DONE, oldest first (R160). -/
def wakeAll (s : State) (p vi : Nat) (b : Bucket) (way : Nat) (pen : Pen) : Nat → State
  | 0 => s
  | fuel + 1 =>
    let v := (s.pkg p).vi vi
    let e := readClaim s b way pen
    if clWait e == 0 then s
    else
      let (r, q, e, s) := popNode s v e
      let s := writeClaim s b way e
      let s := (pushHome s p vi q pen (wokenRecord r (clValue e) (claimStatus 2 (b.entry + way) 0 false))).2
      wakeAll s p vi b way pen fuel

/-- A dropped hand-over record hands its entry on again (R422). -/
def handOverRecord (s : State) (p vi : Nat) (pen : Pen) (r : Line) : State :=
  let st := recArg r 3
  if recKind r == 0 && field st 7 1 == 1 && field st 0 4 == 0 then
    let v := (s.pkg p).vi vi
    let entry := field st 8 24
    let b := bucketOfEntry v entry
    let e := readClaim s b (entry % 8) pen
    if clState e == 1 && clPend e && clMtok e == field st 32 32 then
      handOver s p vi b (entry % 8) pen (clWait e + 1)
    else s
  else s

/-! ### Signals and join counters (R37, R133, R153) -/

/-- Virtual addresses of a barrier record's six signals, 0 for none (R151). -/
def barrierSignals (r : Line) : List Nat := (List.range 6).map (fun j => 64 * field r (338 - 46 * j) 46)

/-- The VI of a physical queue or door: the one whose range holds it (R165). -/
def ownerOf (p : Pkg) (first count : BitVec 1024 → Nat) (n : Nat) : Option Nat :=
  (p.viMap.find? (fun e => first e.2 ≤ n && n < first e.2 + count e.2 && viState e.2 != 0)).map Prod.fst

def Pkg.queueVi (p : Pkg) (q : Nat) : Nat := (ownerOf p viQfirst viQcount q).getD 0
def Pkg.doorVi (p : Pkg) (d : Nat) : Nat := (ownerOf p viDfirst viDcount d).getD 0

/-- Where a reader's tables put a signal, none where it is unreachable. -/
def signalPlace (s : State) (a : Accessor) (va : Nat) : Option Nat :=
  match checkS s a Need.read va false with
  | .ok w => some w.gpa
  | .error _ => none

/-- A record's signal with virtual address va lies at a global physical address, or lay there at the latest evaluation. -/
def signalAt (s : State) (a : Accessor) (gpa : Nat) (x : Nat × Option Nat) : Bool :=
  x.1 != 0 && (x.2 == some gpa || signalPlace s a x.1 == some gpa)

/-- A record names the signal at a global physical address. -/
def Barrier.names (b : Barrier) (s : State) (a : Accessor) (gpa : Nat) : Bool :=
  ((barrierSignals b.record).zip b.places).any (signalAt s a gpa)

/-- Notifies the queues whose barrier records name the signal at a global physical address (R152). -/
def notifyBarriers (s : State) (gpa : Nat) (value : Dword) : State :=
  { s with pkgs := s.pkgs.map (fun (p, k) =>
      (p, { k with notices := k.notices ++ (k.barriers.filter (fun b => b.verdict.isNone &&
          b.names s (queueAccessor s p (k.queueVi b.queue) b.queue) gpa)).map (fun b =>
        ⟨b.queue, BitVec.ofNat 64 gpa, value⟩) })) }

/-- The function code, and the operands, of a command (R273). -/
def cmdFn (c : Line) : Nat := field c 64 8
def cmdOpd (c : Line) : Dword := c.extractLsb' 448 64
def cmdOpa (c : Line) : Dword := c.extractLsb' 384 64
def cmdOpb (c : Line) : Dword := c.extractLsb' 320 64
def cmdPen (c : Line) : Pen := c.extractLsb' 48 16
def cmdVcn (c : Line) : Nat := field c 16 16

/-- Ends the SIGWAITs of a context that wait on a signal whose count has become `value` (R284). -/
def Ctx.meetSignal (s : State) (gpa : Nat) (value : Dword) (c : Ctx) : Ctx :=
  if c.die != dieOfGpa gpa then c
  else { c with cmds := c.cmds.map (fun m =>
      match m.state with
      | .taken _ =>
        if cmdFn m.words == 8 && value.toInt ≤ (cmdOpb m.words).toInt &&
           (match checkAll s ⟨c.die, c.vi.toNat, cmdPen m.words⟩ Need.read (cmdOpa m.words).toNat false with
            | .ok w => w.gpa == gpa
            | .error _ => false)
        then { m with state := .ended (if value.toInt < 0 then 16 else 0) value } else m
      | _ => m) }

/-- The count that first meets a SIGWAIT of another die is what its source is told, now and until it has heard it (R284). -/
def HomeWait.meet (gpa : Nat) (value : Dword) (cycle : Nat) (w : HomeWait) : HomeWait :=
  if w.gpa == gpa && w.answer.isNone && value.toInt ≤ w.limit.toInt then { w with answer := some value, next := cycle } else w

/-- SIGWAITs of other dies meet a signal's new count at its die. -/
def meetWaits (s : State) (gpa : Nat) (value : Dword) : State :=
  { s with dies := Table.mapIf s.dies (fun dn (d : Die) => dn == dieOfGpa gpa && !d.router.sigwaits.isEmpty) (fun (d : Die) =>
      { d with router := { d.router with sigwaits := d.router.sigwaits.map (HomeWait.meet gpa value s.cycle) } }) }

/-- A signal changed: barrier records are notified and SIGWAITs it satisfies end (R152, R284). -/
def signalChanged (s : State) (gpa : Nat) (value : Dword) : State :=
  let s' := meetWaits (notifyBarriers s gpa value) gpa value
  { s' with ctxs := s'.ctxs.map (fun (k, c) => (k, c.meetSignal s gpa value)) }

/-- SIGDEC at the home controller, on dword i of a line: the count before, and the state after (R153, R283). -/
def signalDecAt (s : State) (a : Accessor) (w : Where) (i : Nat) : Except Fail (Dword × State) :=
  match dwordAt s a w i (fun x => x - 1) with
  | .error e => .error e
  | .ok (old, s) => .ok (old, signalChanged s (w.gpa / 64 * 64 + 8 * i) (old - 1))

def signalDec (s : State) (a : Accessor) (va : Nat) : Except Fail (Dword × State) :=
  match checkS s a Need.write va false with
  | .error e => .error e
  | .ok w => signalDecAt s a w (va % 64 / 8)

/-- The parked record of a join counter, its second line. -/
def parkedLine (s : State) (a : Accessor) (w : Where) : Except Fail Line :=
  match checkTarget s a.pen w.leaf (w.gpa + 64) false with
  | some f => .error f
  | none => readLine s a { w with gpa := w.gpa + 64 }

/-- JDEC at the home controller (R37): SIGNEG, and the count after. The parked record is pushed when the count comes
to zero, to the queue the object names, in the package that holds the object. -/
def joinDecAt (s : State) (a : Accessor) (w : Where) : Except Fail ((Bool × Dword) × State) :=
  match readLine s a w with
  | .error e => .error e
  | .ok l =>
    let old := lineDword l 0
    if old.toInt ≤ 0 then .ok ((true, old), s)
    else match dwordAt s a w 0 (fun x => x - 1) with
      | .error e => .error e
      | .ok (_, s) =>
        if old - 1 != 0 then .ok ((false, old - 1), s)
        else
          let p := pkgOf (dieOfGpa w.gpa)
          let q := (lineDword l 1).toNat
          match parkedLine s a w with
          | .error f => .ok ((false, 0), dropRecord s p a.vi q a.pen 0 f.code 0xFFFFFFFF)
          | .ok r => .ok ((false, 0), (pushHome s p a.vi q a.pen r).2)

def joinDec (s : State) (a : Accessor) (va : Nat) : Except Fail ((Bool × Dword) × State) :=
  match checkS s a Need.write va false with
  | .error e => .error e
  | .ok w => joinDecAt s a w

end Sys2Proof.Machine
end

