-- ==== Sys2Proof/Machine/Packets.lean ====
section
/-! DEFINITION. The packets of the fabric (R365 to R367): their header flit, their protection (R371, R372), the numbers a
source and a target keep for each other (R373, R374), and the requests of S (R423). -/

namespace Sys2Proof.Machine

/-! ### Times (R370, R375), in cycles of 940 MHz (R1) -/

def cycles10us : Nat := 9400
def cycles20us : Nat := 18800
def cycles50us : Nat := 47000
def cycles1ms : Nat := 940000
def cycles2ms : Nat := 1880000
def cycles5ms : Nat := 4700000

/-! ### The header flit (R366) -/

def Packet.tag (p : Packet) : BitVec 96 := p.header.extractLsb' 160 96
def Packet.dst (p : Packet) : Nat := field p.header 146 14
def Packet.src (p : Packet) : Nat := field p.header 132 14
def Packet.vc (p : Packet) : Nat := field p.header 130 2
def Packet.typeCode (p : Packet) : Nat := field p.header 126 4
def Packet.nf (p : Packet) : Nat := field p.header 122 4
def Packet.ep (p : Packet) : Nat := field p.header 120 2
def Packet.pn (p : Packet) : BitVec 34 := p.header.extractLsb' 86 34
def Packet.seq (p : Packet) : BitVec 16 := p.header.extractLsb' 70 16
def Packet.pen (p : Packet) : Pen := p.header.extractLsb' 54 16
def Packet.hops (p : Packet) : Nat := field p.header 8 6
def Packet.aux (p : Packet) : Nat := field p.header 0 8

/-- The packet types by their codes (R367). -/
def PacketType.all : List PacketType := [.wr, .dlv, .rd, .rdr, .red, .hop, .lrp, .rsp, .mgt]
def PacketType.code (t : PacketType) : Nat := PacketType.all.findIdx (fun u => u == t)
def Packet.type (p : Packet) : Option PacketType := PacketType.all[p.typeCode]?

/-- The class of a packet: whether it is a response (R367). -/
def PacketType.response : PacketType → Bool
  | .rdr => true
  | .rsp => true
  | _ => false

/-- Home-controller operations and responses carry values, a flit each; the other types carry lines, two flits each. -/
def PacketType.small : PacketType → Bool
  | .hop => true
  | .rsp => true
  | _ => false

/-- The data flits of a message: the lower half of a line first (R3). -/
def Msg.flits (m : Msg) : List (BitVec 256) :=
  if m.type.small then m.data.map (fun l => l.setWidth 256)
  else m.data.flatMap (fun l => [l.extractLsb' 0 256, l.extractLsb' 256 256])

/-- Lines from their flits. -/
def flitLines : List (BitVec 256) → List Line
  | lo :: hi :: r => (hi ++ lo) :: flitLines r
  | _ => []

/-- The header of a message, with TAG, VC and HOPS zero. -/
def Msg.header (m : Msg) (ep : Nat) (pn : BitVec 34) : BitVec 256 :=
  (0#96) ++ BitVec.ofNat 14 m.dst ++ BitVec.ofNat 14 m.src ++ (0#2) ++ BitVec.ofNat 4 m.type.code ++
    BitVec.ofNat 4 m.flits.length ++ BitVec.ofNat 2 ep ++ pn ++ m.seq ++ m.pen ++ m.tgt ++ (0#6) ++ m.aux

/-- A header as it is authenticated: TAG, VC and HOPS taken as zero (R372). -/
def headerAad (h : BitVec 256) : BitVec 256 := setField (setField (h &&& (BitVec.allOnes 160).setWidth 256) 130 2 0) 8 6 0

/-- NF and AUX are what R367 allows of the type: a value it does not allow is reserved. -/
def PacketType.fits (t : PacketType) (nf aux : Nat) : Bool :=
  match t with
  | .wr => nf % 2 == 0 && nf ≤ 8 && aux == 0
  | .dlv => nf % 2 == 0 && nf ≤ 8 && aux % 64 == 0
  | .rd => nf == 0 && aux < 4
  | .rdr => nf % 2 == 0 && nf ≤ 8 && aux == 0
  | .red => nf % 2 == 0 && nf ≤ 8 && aux < 16
  | .hop => (nf == 1 || nf == 2) && aux == 0
  | .lrp => nf % 2 == 0 && nf ≤ 8 && aux < 2
  | .rsp => nf ≤ 1 && aux < 5
  | .mgt => nf ≤ 8 && aux == 0

/-! ### Protection (R371, R372) -/

/-- The nonce of a packet number, its first byte most significant, as GCM reads it. -/
def pnNonce (pn : BitVec 34) : BitVec 96 := (blkTurn (pn.setWidth 128)).extractLsb' 32 96

/-- A flit as two blocks, first byte most significant, and back. -/
def flitBlocks (f : BitVec 256) : List (BitVec 128) := [blkTurn (f.extractLsb' 0 128), blkTurn (f.extractLsb' 128 128)]
def blockFlits : List (BitVec 128) → List (BitVec 256)
  | lo :: hi :: r => (blkTurn hi ++ blkTurn lo) :: blockFlits r
  | _ => []

/-- The data flits encrypted, or decrypted. -/
def cryptFlits (key : BitVec 256) (pn : BitVec 34) (l : List (BitVec 256)) : List (BitVec 256) :=
  blockFlits (gcmCrypt key (pnNonce pn) (l.flatMap flitBlocks))

/-- TAG: the first twelve bytes of the GCM tag of a header and its encrypted flits. -/
def packetTag (key : BitVec 256) (h : BitVec 256) (pn : BitVec 34) (flits : List (BitVec 256)) : BitVec 96 :=
  (blkTurn (gcmTag key (pnNonce pn) (flitBlocks (headerAad h)) (flits.flatMap flitBlocks))).setWidth 96

/-- What a packet says, once its tag has been verified under a key; none where it fails, or where its type, its flits or a
field is reserved (R367, R372). -/
def Packet.openWith (p : Packet) (key : BitVec 256) : Option Msg :=
  if p.tag != packetTag key p.header p.pn p.flits then none
  else match p.type with
    | none => none
    | some t =>
      if p.flits.length != p.nf || !t.fits p.nf p.aux then none
      else
        let clear := cryptFlits key p.pn p.flits
        some ⟨t, p.src, p.dst, p.pen, p.header.extractLsb' 14 40, p.header.extractLsb' 0 8,
          if t.small then clear.map (fun f => f.setWidth 512) else flitLines clear, p.tile, p.leaf, p.op, p.mask, p.seq, p.len⟩

/-! ### Sources (R371, R373) -/

def State.modRouter (s : State) (d : Nat) (f : Router → Router) : State :=
  s.modDie d (fun x => { x with router := f x.router })

def State.packet (s : State) (n : Nat) : Option Packet := s.packets.find? (fun p => p.n == n)
def State.dropPacket (s : State) (n : Nat) : State := { s with packets := s.packets.filter (fun p => p.n != n) }

/-- The next packet number of a source; the epoch rises when it wraps (R371). -/
def Router.takePn (r : Router) : Router :=
  if r.pn == BitVec.allOnes 34 then { r with pn := 0, epoch := (r.epoch + 1) % 4294967296 } else { r with pn := r.pn + 1 }

/-- The next SEQ of a source for a target (R373). -/
def Router.nextSeq (r : Router) (dst : Nat) : BitVec 16 := Table.get r.next dst 0
def Router.takeSeq (r : Router) (dst : Nat) : Router := { r with next := Table.put r.next dst (r.nextSeq dst + 1) }

/-- A packet formed and protected at its source with the next PN (R371, R372). -/
def formPacket (s : State) (m : Msg) : Packet × State :=
  let (n, s) := s.takeFresh
  let r := s.router m.src
  let key := linkKey ((s.secretOf m.src).getD 0) m.src r.epoch
  let h := m.header (r.epoch % 4) r.pn
  let flits := cryptFlits key r.pn m.flits
  let h := setField (setField h 160 96 (packetTag key h r.pn flits).toNat) 130 2 (2 * m.type.response.toNat)
  (⟨n, h, flits, m.src, s.cycle, 3, s.cycle, m.tile, m.leaf, m.op, m.mask, m.len⟩, s.modRouter m.src Router.takePn)

/-- A packet set on its way. -/
def launch (s : State) (p : Packet) : State := { s with packets := s.packets ++ [p] }

/-! ### Targets (R374) -/

/-- How a request stands against the record of its source. -/
inductive Repeat where
  | fresh
  | repeated
  deriving DecidableEq, Repr

def seqDist (h s : BitVec 16) : Nat := (h - s).toNat

def Receive.judge (x : Receive) (seq : BitVec 16) : Repeat :=
  let d := seqDist x.high seq
  if 32768 ≤ d then .fresh
  else if d < 64 && !x.done.getLsbD d then .fresh
  else .repeated

/-- The record after a request has been performed: bit d stands for H − d. -/
def Receive.perform (x : Receive) (seq : BitVec 16) : Receive :=
  let d := seqDist x.high seq
  if 32768 ≤ d then { x with high := seq, done := (x.done <<< (65536 - d)) ||| 1 }
  else { x with done := x.done ||| (1 <<< d) }

/-- The last n of a list. -/
def keepLast {α : Type} (n : Nat) (l : List α) : List α := l.drop (l.length - n)

/-- A response put into the cache of 64. -/
def Receive.remember (x : Receive) (seq : BitVec 16) (code fault : Nat) (value : Dword) : Receive :=
  { x with cache := keepLast 64 (x.cache.filter (fun e => e.1 != seq.toNat) ++ [(seq.toNat, code, fault, value)]) }

/-- The record a die keeps of a source changed. -/
def State.modReceive (s : State) (d src : Nat) (f : Receive → Receive) : State :=
  s.modRouter d (fun r => { r with sources := Table.put r.sources src (f (r.source src)) })

/-- The requests of a die to a target that have been sent and not answered: those of its router, and those of S (R373). -/
def State.unanswered (s : State) (die dst : Nat) : Nat :=
  ((s.router die).requests.filter (fun q => q.msg.dst == dst && q.state == .sent)).length +
    (s.ctxs.filter (fun e => e.2.die == die && e.2.lost.any (fun l => l.dst == dst))).length

/-- The window of R373 has room for one more request to a target. A HELD or BUSY response has answered its packet (R375). -/
def State.room (s : State) (die dst : Nat) : Bool := s.unanswered die dst < 64

/-! ### The requests of commands (R373, R375) -/

/-- What a request asks, besides its packet number and SEQ. -/
structure Ask where
  type : PacketType
  tgt : Nat
  aux : Nat
  data : List Line
  tile : Bool
  leaf : BitVec 128
  op : HomeOp
  mask : BitVec 64
  len : Option Carried
  deriving DecidableEq, Repr

/-- A request sent for a part of a command: it takes the next SEQ for its target, and the source keeps a copy (R373,
R375). `left`: a packet of an earlier attempt has left the die. -/
def sendRequest (s : State) (src dst : Nat) (pen : Pen) (x : Ask) (ctx : Nat) (cmd : BitVec 16) (part : Nat) (left : Bool) :
    State :=
  let m : Msg := ⟨x.type, src, dst, pen, BitVec.ofNat 40 x.tgt, BitVec.ofNat 8 x.aux, x.data, x.tile, x.leaf, x.op, x.mask,
    (s.router src).nextSeq dst, x.len⟩
  let (p, s) := formPacket s m
  launch (s.modRouter src (fun r =>
    { r.takeSeq dst with requests := r.requests ++ [⟨p, m, ctx, cmd, part, s.cycle, .sent, left⟩] })) p

/-- The same where the window has room; else nothing is sent yet (R373). -/
def askRoom (s : State) (src dst : Nat) (pen : Pen) (x : Ask) (ctx : Nat) (cmd : BitVec 16) (part : Nat) : State :=
  if s.room src dst then sendRequest s src dst pen x ctx cmd part false else s

/-- A record of VAPPLY that goes to a queue whose home controller is on another die (R316, R367): a request that waits for room
in the window as a delivery waits that found its target busy. The queue, as 8192·package + virtual queue, travels beside the
flits (log entry 8). A push that no response answers within 2 ms ends its context as one of S does (R375, R423). -/
def askPush (s : State) (src dst : Nat) (pen : Pen) (queue : Nat) (r : Line) (ctx : Nat) : State :=
  let x : Ask := ⟨.hop, 0, 0, [(r.extractLsb' 0 256).setWidth 512, (r.extractLsb' 256 256).setWidth 512], false,
    BitVec.ofNat 128 queue, .push, maskAll, none⟩
  if s.room src dst then sendRequest s src dst pen x ctx 0 0 false
  else
    let m : Msg := ⟨x.type, src, dst, pen, 0, 0, x.data, false, x.leaf, x.op, x.mask, 0, none⟩
    let (p, s) := formPacket s m
    s.modRouter src (fun y => { y with requests := y.requests ++ [⟨p, m, ctx, 0, 0, s.cycle - cycles20us, .busy, false⟩] })

/-! ### The requests of S (R423) -/

/-- The request of S that stands unanswered and is the one for an address at a target. -/
def Ctx.lostFor (c : Ctx) (dst addr : Nat) : Option Lost := c.lost.filter (fun l => l.dst == dst && l.addr == addr)

/-- A request of S for an address is answered now: its die is S's own, or a packet of it leaves now, the first or a
reissue (R375), and both ways are open. -/
def answersNow (s : State) (k dst addr : Nat) : Bool :=
  let c := s.ctx k
  c.die == dst || ((roundTrip s c.die dst).isNone && (match c.lostFor dst addr with
    | some l => l.next ≤ s.cycle
    | none => s.room c.die dst))

/-- A request that reaches its target with an epoch of its source: the target records it as performed and caches its
response (R371, R374). -/
def heard (s : State) (die dst : Nat) (seq : BitVec 16) (step code : Nat) : State :=
  let e := (s.router die).epoch
  s.modReceive dst die (fun x =>
    { (x.perform seq).remember seq (if step == 0 then 0 else 4) code 0 with epoch := max x.epoch e })

/-- The response that comes back takes a PN of the target's, and the source learns the target's epoch (R371, R373). -/
def replied (s : State) (die dst : Nat) : State :=
  let e := (s.router dst).epoch
  (s.modRouter dst Router.takePn).modReceive die dst (fun x => { x with epoch := max x.epoch e })

/-- Bytes of the packets by which S reads a line, writes one, or has an operation performed, and of their responses: header
and data flits (R364, R367). -/
def readBytes : Nat × Nat := (32, 96)
def writeBytes : Nat × Nat := (96, 32)
def homeBytes : Nat × Nat := (96, 64)

/-- The numbers of a request that its target hears and answers. -/
def heardAndReplied (s : State) (die dst : Nat) (seq : BitVec 16) : State := replied (heard s die dst seq 0 0) die dst

/-- The next request of a die to another, heard and answered at once. -/
def exchangeDies (s : State) (die dst : Nat) : State :=
  heardAndReplied (s.modRouter die (fun r => (r.takeSeq dst).takePn)) die dst ((s.router die).nextSeq dst)

/-- A request of S between two dies made and answered within its instruction: it has the SEQ and PN of the packet that is
still unanswered, or the next ones (R373, R374). Its packets have `b` bytes (R193). -/
def exchange (s : State) (k dst addr : Nat) (b : Nat × Nat) : State :=
  let c := s.ctx k
  if c.die == dst then s
  else
    let s := countEvent (countEvent s c evSent b.1) c evReceived b.2
    match c.lostFor dst addr with
    | some l => heardAndReplied (s.modCtx k (fun c => { c with lost := none, begun := false })) c.die dst l.seq
    | none => exchangeDies s c.die dst

/-- An act to be performed next, after those already listed. -/
def State.act (s : State) (a : Act) : State := { s with agenda := s.agenda ++ [.act a] }

/-- The loss of a packet counted where it happens (R191, R382). -/
def countLoss (s : State) (x : Option Loss) : State :=
  match x with
  | some (.dropped d) => s.count d Counters.incFabDrop
  | some (.refused d) => s.count d Counters.incAuthFail
  | none => s

/-- A packet of the unanswered request `l` leaves, and no response to it comes. Where it reaches its target, the target
performs it by `act`, the first time, and counts each further one a repeat, unless it is a read, which has no `act` (R374).
The packet, or its response, is lost where its path breaks. -/
def transmit (s : State) (k : Nat) (l : Lost) (act : Option (State → Answer × State)) : State :=
  let die := (s.ctx k).die
  let l := { l with next := l.next + cycles20us }
  let s := countEvent s (s.ctx k) evSent (if l.op then homeBytes.1 else readBytes.1)
  let s := s.modCtx k (fun c => { c with lost := some l, begun := true })
  match passage s die l.dst, act with
  | some x, _ => countLoss s (some x)
  | none, none => countLoss (s.modRouter l.dst Router.takePn) (passage s l.dst die)
  | none, some f =>
    if l.answer.isSome then countLoss ((s.count l.dst Counters.incDedup).modRouter l.dst Router.takePn) (passage s l.dst die)
    else
      let (a, s) := f s
      let s := (heard s die l.dst l.seq a.step a.code).modRouter l.dst Router.takePn
      countLoss (s.modCtx k (fun c => { c with lost := some { l with answer := some a } })) (passage s l.dst die)

/-- A request of S that is not answered now: S stands at its word; the request is kept and leaves again every 20 µs, and 2 ms
after its first transmission the context ends with REMOTE (R370, R375, R423). A request waits for room in the window of its
target (R373), and behind another of its context that stands unanswered. -/
def ask (s : State) (k target addr : Nat) (act : Option (State → Answer × State)) : State :=
  let c := s.ctx k
  match c.lost with
  | none =>
    if !s.room c.die target then s
    else
      let r := s.router c.die
      transmit (s.modRouter c.die (fun r => (r.takeSeq target).takePn)) k
        ⟨s.cycle, s.cycle, target, addr, r.nextSeq target, r.pn, none, act.isSome⟩ act
  | some l =>
    if l.dst != target || l.addr != addr then s
    else if l.first + cycles2ms ≤ s.cycle then
      s.act (.remoteTimeout k 0 false (BitVec.ofNat 14 target) (BitVec.ofNat 64 addr))
    else if s.cycle < l.next then s
    else transmit s k l act

/-- The same of a read, which its target performs on every arrival (R374). -/
def State.noAnswer (s : State) (k target addr : Nat) : State := ask s k target addr none

/-- An operation of S performed by `act` at a die, and what its answer does to S by `fin`: at once where the answer comes
now; else it is begun and waited for (R218, R423). A request that its target has performed is answered from what it answered
then, a repeat (R374). -/
def atHome (s : State) (k die addr : Nat) (act : State → Answer × State) (fin : Answer → State → State) : State :=
  if answersNow s k die addr then
    match ((s.ctx k).lostFor die addr).bind Lost.answer with
    | some a => fin a ((exchange s k die addr homeBytes).count die Counters.incDedup)
    | none => let (a, s) := act (exchange s k die addr homeBytes); fin a s
  else ask s k die addr (some act)

/-- An answer of words; the answer of a failing check, met at a target on another die or not (R126). -/
def Answer.of (l : List Dword) : Answer := ⟨0, 0, l⟩
def Answer.failed (f : Fail) : Answer := ⟨f.step, f.code, []⟩
def Answer.fail (a : Answer) : Fail := ⟨a.step, a.code⟩
def Answer.word (a : Answer) (i : Nat) : Dword := a.words.getD i 0

end Sys2Proof.Machine
end

