-- ==== Sys2Proof/Machine/Commit.lean ====
section
/-! DEFINITION. The store buffer and the spill quota (R108), commits and releases (R130, R131, R134), groups, their
arrivals and boundaries (R42 to R44, R139, R418). -/

namespace Sys2Proof.Machine

/-! ### The store buffer (R108) -/

/-- The bytes of an older entry under those of a younger one of the same line. -/
def SbEntry.onto (young old : SbEntry) : SbEntry :=
  { young with data := mergeBytes young.mask young.data old.data, mask := young.mask ||| old.mask }

/-- Two entries that merge: of one line, and of one phase (R108, R139). -/
def SbEntry.meets (x e : SbEntry) : Bool := x.line == e.line && x.taken == e.taken

/-- An entry put into the buffer or the spill area: merged with the entry for its line if one exists, else at the end. -/
def sbPut (l : List SbEntry) (e : SbEntry) : List SbEntry :=
  match l with
  | [] => [e]
  | x :: r => if x.meets e then { e.onto x with place := x.place } :: r else x :: sbPut r e

/-- An entry put into the stores of a commit, one for each line whatever its phase. -/
def sbJoin (l : List SbEntry) (e : SbEntry) : List SbEntry :=
  match l with
  | [] => [e]
  | x :: r => if x.line == e.line then e.onto x :: r else x :: sbJoin r e

/-- Spill quota of a VI's contexts, in lines. -/
def State.quota (s : State) (c : Ctx) : Nat := Table.get (s.pkg c.pkg).spillQuota c.vi.toNat 0

/-- The lowest place of a context's part of the spill area that no line of it takes. -/
def Ctx.freePlace (c : Ctx) : Nat :=
  ((List.range (c.spill.length + 1)).find? (fun i => !c.spill.any (fun e => e.place == i))).getD 0

/-- A store taken into the buffer; none where it would raise SPILL, because it finds the buffer and the quota full. The
oldest entry moves to the spill quota when only the buffer is full. -/
def Ctx.buffer (c : Ctx) (quota : Nat) (e : SbEntry) : Option Ctx :=
  if c.sbuf.any (fun x => x.meets e) || c.sbuf.length < 128 then some { c with sbuf := sbPut c.sbuf e }
  else match c.sbuf with
    | [] => none
    | old :: r =>
      if c.spill.length < quota then
        some { c with sbuf := r ++ [e], spill := sbPut c.spill { old with place := c.freePlace } }
      else none

/-! ### The save and spill areas in device memory (R108, R162, R351) -/

/-- A line that the device itself writes whole for a VI, under its save key where it is protected (R351); into a TBL page
alone (R162). Its metadata is the context's pennant, with no length and no error (R110). -/
def putDevice (s : State) (p vi : Nat) (pen : Pen) (line : Nat) (x : Line) : State :=
  let d := dieOfGpa (64 * line)
  if !populated (offOfGpa (64 * line)) || !((s.die d).page (pageIndex (offOfGpa (64 * line)))).tbl then s
  else
    let k := s.pkg p
    let x := if viProt (k.vi vi) then xtsLine true (Table.get k.saveKeys vi 0) line x else x
    let s := (s.sound line 1).setLen line 0
    { s with mem := s.mem.putLine line pen x }

/-- SAVE of a VI map entry (R163), and where slot n of a VI lies (R352). -/
def viSave (e : BitVec 1024) : Nat := field e 192 64
def slotBase (v : BitVec 1024) (n : Nat) : Nat := viSave v + 0x400000 * n

/-- A line that the device has written for a VI, in plain. -/
def getDevice (s : State) (p vi line : Nat) : Line :=
  let k := s.pkg p
  if viProt (k.vi vi) then xtsLine false (Table.get k.saveKeys vi 0) line (s.mem.raw line) else s.mem.raw line

/-- The slot state in the header of a context's save slot, byte 0 of the slot (log entry 59), becomes free (R352). -/
def freeHeader (s : State) (k : Nat) : State :=
  let c := s.ctx k
  let line := slotBase (s.ctxVi c) (k % 262144) / 64
  if isSlot k then putDevice s c.pkg c.vi.toNat (s.ctxPen c) line (setField (getDevice s c.pkg c.vi.toNat line) 0 8 0) else s

/-- SPILL of a VI map entry (R163). -/
def viSpill (e : BitVec 1024) : Nat := viField e 32 8

/-- The part of its VI's spill area that a context takes: its own, or the lowest that no other context of the VI has in its
package. R108 and R163 give the area and no order in it: each part has the quota's lines, and a spilled line stands at its place
(DESIGN CHOICE, log entry 59). -/
def spillPartOf (s : State) (c : Ctx) : Nat :=
  c.spillPart.getD (let taken := (s.ctxs.filter (fun e => e.2.isOf c.pkg c.vi.toNat)).filterMap (fun e => e.2.spillPart)
    ((List.range (taken.length + 1)).find? (fun i => !taken.contains i)).getD 0)

/-- A context with a store taken in: the lines of its spill quota that are new or changed are written to the spill area. -/
def withStores (s : State) (k : Nat) (c : Ctx) : State :=
  let new := c.spill.filter (fun e => !(s.ctx k).spill.contains e)
  if new.isEmpty then s.setCtx k c
  else
    let part := spillPartOf s c
    let base := viSpill (s.ctxVi c) / 64 + part * s.quota c
    new.foldl (fun s e => putDevice s c.pkg c.vi.toNat e.pen (base + e.place) e.data) (s.setCtx k { c with spillPart := some part })

/-- Every buffered and spilled store of a context that a test selects, youngest byte kept, one entry a line. -/
def Ctx.stores (c : Ctx) (sel : SbEntry → Bool) : List SbEntry := ((c.spill ++ c.sbuf).filter sel).foldl sbJoin []

/-- Its buffered and spilled stores without those a test selects. -/
def Ctx.without (c : Ctx) (gone : SbEntry → Bool) : Ctx :=
  { c with sbuf := c.sbuf.filter (fun e => !gone e), spill := c.spill.filter (fun e => !gone e) }

/-- A line as the context's own stores change it (R129). -/
def Ctx.overlay (c : Ctx) (pen : Pen) (line : Nat) (view : Line) : Line :=
  (c.spill ++ c.sbuf).foldl (fun x e =>
    if e.line.toNat == line && e.pen == pen then mergeBytes e.mask e.data x else x) view

/-! ### Writing committed lines (R131) -/

/-- For whom a line is committed: its context where it still stands, and the fields of the records it may cause. -/
structure Committer where
  key : Option Nat
  die : Nat
  vi : Nat
  vcn : Nat
  pen : Pen
  queue : Nat
  pc : Nat
  index : Nat
  /-- Committed and speculative positions of the context's interrupted array word (R343). -/
  pos : Nat × Nat
  deriving DecidableEq, Repr

def Committer.faultRec (w : Committer) (va code : Nat) : FaultRec :=
  ⟨va, w.pc, w.index + va / 65536 % 4294967296 * 4294967296, w.pos.1, w.pos.2, w.pen, w.vcn, code, 5, 2, w.queue⟩

/-- Committed and speculative positions of a stop, from the context before and after its drain (R322, R343). -/
def stopPositions (before after : Ctx) : Nat × Nat :=
  if after.mnx.isSome then
    (after.mrs, match before.run with | some r => if r.op == .mmaw then max r.staged after.mrs else after.mrs | none => after.mrs)
  else (0, 0)

/-- A record that goes to VI 0's pager door alone, with the next sequence number of its VI (R131). -/
def reportPager (s : State) (p vi : Nat) (r : FaultRec) : Nat × State :=
  let seq := Table.get (s.pkg p).faultSeq vi 0
  let s := s.modPkg p (fun k => { k with faultSeq := Table.put k.faultSeq vi ((seq + 1) % 2 ^ 64) })
  (seq, (postRecord s p 0 (viPagerd ((s.pkg p).vi 0)) (r.line seq)).2)

/-- A line dropped at commit: counted, and recorded at the VI's fault door. -/
def dropLine (s : State) (w : Committer) (va code : Nat) : State :=
  let s := s.count w.die Counters.incDropCommit
  (report s (pkgOf w.die) w.vi (w.faultRec va code) false).2

/-- How a context reaches memory. -/
def Ctx.accessor (s : State) (c : Ctx) : Accessor := ⟨c.die, c.vi.toNat, s.ctxPen c⟩

/-- What a read of S leaves at its target and on the way, whatever it is answered: nothing while no answer can come
(R110, R191, R423). -/
def meetS (s : State) (k : Nat) (a : Accessor) (w : Where) (va : Nat) : State :=
  if answersNow s k (dieOfGpa w.gpa) va then exchange (meetTarget s a.die a.pen w false) k (dieOfGpa w.gpa) va readBytes else s

/-- The same for an access by a virtual address. -/
def reachS (s : State) (k : Nat) (n : Need) (va : Nat) : State :=
  let a := (s.ctx k).accessor s
  match checkSource s a n va with
  | .error _ => s
  | .ok w => meetS s k a w va

/-- A translation of an address for S, through the TLB of its core (R120). -/
def xlatS (s : State) (k va : Nat) : State :=
  if isSlot k then s else translate s (.s (coreOf k)) (s.ctx k) ((s.ctx k).accessor s) va

/-- An access of S that uses its TLB (R120), and what it leaves. -/
def useS (s : State) (k : Nat) (n : Need) (va : Nat) : State := reachS (xlatS s k va) k n va

/-- A line is a group descriptor: it has been declared one, by the loader or by a JOIN, under this pennant (R42). -/
def isDescriptor (s : State) (gpa : Nat) (pen : Pen) : Bool :=
  pen != voidPen && Table.get s.descriptors (gpa / 64) voidPen == pen

/-- The write of a line of a commit at its memory controller: what it leaves there, and the check that fails. A store that
was buffered before its line was declared a group descriptor is refused with PERM, as one made after is at its issue (R42;
DEDUCED, log entry 54). -/
def commitWrite (s : State) (a : Accessor) (w : Where) (e : SbEntry) : Answer × State :=
  let whole := e.mask == maskAll
  let s' := meetTarget s a.die a.pen w whole
  match checkWhere s' a w whole with
  | .error f => (.failed f, s')
  | .ok _ =>
    if isDescriptor s w.gpa a.pen then (.failed ⟨12, fPerm⟩, s')
    else match writeLine s' a w e.mask e.data with
      | .error f => (.failed f, s')
      | .ok t => (.of [], t)

/-- What has become of a line of a commit: written, dropped, or still waiting. -/
inductive LineEnd where
  | written
  | dropped
  | waits
  deriving DecidableEq, Repr

/-- What becomes of a line of a commit whose write has failed: PAGE pauses it, reported once; any other failure drops it. -/
def lineFailed (s : State) (w : Committer) (va code : Nat) (pz : List CommitPause) : LineEnd × List CommitPause × State :=
  let mine := fun (q : CommitPause) => q.va.toNat == va
  if code != fPage then (.dropped, pz.filter (fun q => !mine q), dropLine s w va code)
  else if pz.any mine then (.waits, pz, s)
  else
    let (seq, s) := reportPager s (pkgOf w.die) w.vi (w.faultRec va fPage)
    (.waits, pz ++ [⟨BitVec.ofNat 64 va, seq, none⟩], s)

/-- What becomes of a line whose write has been answered. -/
def lineAnswered (w : Committer) (va : Nat) (pz : List CommitPause) (x : Answer) (s : State) : LineEnd × List CommitPause × State :=
  if x.code == fNone then (.written, pz.filter (fun q => q.va.toNat != va), s) else lineFailed s w va x.code pz

/-- A line whose page has been evicted would meet PAGE again at its controller. -/
def stillAway (s : State) (pen : Pen) (w : Where) (whole : Bool) : Bool :=
  match checkTarget s pen w.leaf w.gpa whole with
  | some f => f.code == fPage
  | none => false

/-- One line of a commit, and the pauses that stand. A pause that has been failed drops its line with that code, and one that
still stands sends nothing; a line whose die does not answer waits, and its context ends 2 ms after it asked (R131, R423). -/
def commitLine (s : State) (w : Committer) (e : SbEntry) (pz : List CommitPause) : LineEnd × List CommitPause × State :=
  let va := 64 * e.line.toNat
  let a : Accessor := ⟨w.die, w.vi, w.pen⟩
  let mine := fun (q : CommitPause) => q.va.toNat == va
  match (pz.find? mine).bind CommitPause.failed with
  | some code => (.dropped, pz.filter (fun q => !mine q), dropLine s w va code)
  | none => match checkSource s a Need.write va with
    | .error f => lineFailed s w va f.code pz
    | .ok x =>
      let die := dieOfGpa x.gpa
      if pz.any mine && stillAway s a.pen x (e.mask == maskAll) then (.waits, pz, s)
      else match w.key with
        | none =>
          if (roundTrip s w.die die).isSome then (.waits, pz, s)
          else let (y, s) := commitWrite s a x e; lineAnswered w va pz y s
        | some k =>
          if answersNow s k die va then
            match ((s.ctx k).lostFor die va).bind Lost.answer with
            | some y => lineAnswered w va pz y ((exchange s k die va writeBytes).count die Counters.incDedup)
            | none => let (y, s) := commitWrite (exchange s k die va writeBytes) a x e; lineAnswered w va pz y s
          else (.waits, pz, ask s k die va (some (fun s => commitWrite s a x e)))

/-- Lines committed in order until one waits: the lines written, the lines that remain, the pauses and the state. -/
def commitList (s : State) (w : Committer) (pz : List CommitPause) :
    List SbEntry → List SbEntry × List SbEntry × List CommitPause × State
  | [] => ([], [], pz, s)
  | e :: r =>
    match commitLine s w e pz with
    | (.waits, pz, s) => ([], e :: r, pz, s)
    | (.dropped, pz, s) => commitList s w pz r
    | (.written, pz, s) =>
      let (done, rest, pz, s) := commitList s w pz r
      (e :: done, rest, pz, s)

def Ctx.committer (s : State) (c : Ctx) (index : Nat) : Committer :=
  ⟨s.keyOfId c.id, c.die, c.vi.toNat, c.vcn.toNat, s.ctxPen c, s.taskOf c, c.pcS.toNat, index, stopPositions c c⟩

/-- The line of a physical memory that a context's store reaches, as its tables stand. -/
def storeLine (s : State) (die vi : Nat) (pen : Pen) (line : Nat) : Option Nat :=
  match checkSource s ⟨die, vi, pen⟩ Need.write (64 * line) with
  | .ok w => some (w.gpa / 64)
  | .error _ => none

/-- Bytes a context has itself written to memory enter the lines its view already holds, so that it reads them again
(R129; log entry 4). -/
def intoView (s : State) (c : Ctx) (e : SbEntry) : Ctx :=
  match storeLine s c.die c.vi.toNat e.pen e.line.toNat with
  | none => c
  | some g =>
    if Table.has c.view g then
      let old := Table.get c.view g ⟨e.pen, 0⟩
      { c with view := Table.put c.view g ⟨e.pen, mergeBytes e.mask e.data (old.read e.pen)⟩ }
    else c

/-- A line that a context has written leaves the L1 of its core, into which no store writes (R107). -/
def outOfL1 (s : State) (k : Nat) (e : SbEntry) : State :=
  let c := s.ctx k
  match storeLine s c.die c.vi.toNat e.pen e.line.toNat with
  | none => s
  | some g =>
    if isSlot k then s
    else s.modCore (coreOf k) (fun x => { x with l1 := x.l1.filter (fun l => !(l.line == g && l.bank == bankOf k)) })

/-- A group takes a context's stores now: its boundary is being committed (R139). -/
def takenNow (s : State) (e : SbEntry) : Bool :=
  match e.taken with
  | none => false
  | some n => s.groups.any (fun g => g.n == n && g.commit.isSome)

/-- A context's own commit of the lines a test selects: whether it has completed. Settled lines leave the store buffer
and the spill quota (R134). Stores that a boundary is committing are left to it, and waited for. The record of a line that is
dropped or paused has member index 0: no group is committing (DESIGN CHOICE, log entry 21). -/
def commitOwn (s : State) (k : Nat) (sel : Nat → Bool) : Bool × State :=
  let c := s.ctx k
  let mine := fun (e : SbEntry) => sel e.line.toNat && e.pen == s.ctxPen c
  if (c.spill ++ c.sbuf).any (fun e => mine e && takenNow s e) then (false, s)
  else
    let (done, rest, pz, s) := commitList s (c.committer s 0) c.paused (c.stores mine)
    let s := done.foldl (fun s e => outOfL1 s k e) s
    let c := done.foldl (intoView s) (s.ctx k)
    let c := c.without (fun e => mine e && !rest.any (fun x => x.line == e.line))
    (rest.isEmpty, s.setCtx k { c with paused := pz })

/-- A command has completed: its element can be posted, which for a CPYF with a follow-on word waits for that word to
enter fq (R145, R277). -/
def Cmd.complete (m : Cmd) : Bool :=
  match m.state with
  | .ended status _ => !(cmdFn m.words == 1 && status == 0)
  | .posted => true
  | _ => false

/-- Every engine command pushed has completed (R134, R135, R141). -/
def Ctx.cmdsDone (c : Ctx) : Bool := c.cmds.all Cmd.complete

/-- A release of S (R134, R135, R141, R236): whether earlier engine commands have completed and every store is committed. Its
commit has begun until it has (R218, R351). -/
def release (s : State) (k : Nat) : Bool × State :=
  if (s.ctx k).cmdsDone then
    let (ok, s) := commitOwn s k (fun _ => true)
    (ok, s.modCtx k (fun c => { c with begun := !ok }))
  else (false, s)

/-- The lines a bank filled leave the L1 of its core (R107). -/
def dropL1 (s : State) (k : Nat) : State :=
  if isSlot k then s
  else s.modCore (coreOf k) (fun x => { x with l1 := x.l1.filter (fun l => l.bank != bankOf k) })

/-- An acquire: the context's view is memory as it stands, and its L1 lines are invalidated (R107, R134). -/
def acquire (s : State) (k : Nat) : State := dropL1 (s.modCtx k (fun c => { c with view := [] })) k

/-! ### The end of a context (R37, R237, R347) -/

/-- The JDEC of a context that ends: SIGNEG and every fault of its own access go to the fault door as a KIND 6 record, whose PC
is the word of S at which the context stands, TEND's own where it ends by one. It is none of R423's operations and is made at
once: where no answer can come from its counter's die, its fault is REMOTE (DESIGN CHOICE, log entry 57). -/
def endJoin (s : State) (c : Ctx) (pen : Pen) : State :=
  if c.join == 0 then s
  else
    let vi := c.vi.toNat
    let va := c.join.toNat
    let a : Accessor := ⟨c.die, vi, pen⟩
    let record := fun (s : State) (code : Nat) =>
      (report s c.pkg vi ⟨va, c.pcS.toNat, va, 0, 0, pen, c.vcn.toNat, code, 0, 6, s.taskOf c⟩ false).2
    if va % 128 != 0 then record s fAlign
    else
      let s := afterAccess s a Need.write va false
      match joinDec s a va with
      | .error f => record s f.code
      | .ok ((neg, _), s) =>
        let dst := targetOf s a Need.write va
        let s := if dst == c.die then s else exchangeDies s c.die dst
        if neg then record s fSigNeg else s

/-! ### Group descriptors (R42) -/

def gdPhase (d : Line) : Nat := field d 448 64
/-- The parity of the open phase. -/
def gdP (d : Line) : Bool := field d 48 1 == 1
def gdMem (d : Line) : Nat := field d 0 16
def gdArr (d : Line) (parity : Bool) : Nat := field d (if parity then 32 else 16) 16
def setArr (d : Line) (parity : Bool) (n : Nat) : Line := setField d (if parity then 32 else 16) 16 n

/-- What JOIN, GBAR and LEAVE need of a descriptor's page: they read and write it (log entry 29). -/
def Need.both : Need := ⟨true, true, false, false, false⟩

/-- A descriptor's contents at its home controller, as the current generation reads them. -/
def descAt (s : State) (a : Accessor) (w : Where) : Except Fail Line :=
  match checkWhere s a w false with
  | .error e => .error e
  | .ok w => readLine s a w

/-- A descriptor found: its place, and its contents. -/
def descRead (s : State) (die vi va : Nat) : Except Fail (Nat × Line) :=
  let a : Accessor := ⟨die, vi, s.penOf (pkgOf die) vi⟩
  match checkSource s a Need.both va with
  | .error e => .error e
  | .ok w => match descAt s a w with
    | .error e => .error e
    | .ok l => .ok (w.gpa, l)

/-- A descriptor written with the current pennant. A page that has left the VI meanwhile takes no write. -/
def descWrite (s : State) (die vi va : Nat) (d : Line) : State :=
  match homeWrite s ⟨die, vi, s.penOf (pkgOf die) vi⟩ Need.write va maskAll d with
  | .ok s => s
  | .error _ => s

/-- The group at a descriptor's place under a pennant. -/
def State.groupAt (s : State) (gpa : Nat) (pen : Pen) : Option Group :=
  s.groups.find? (fun g => g.gpa == gpa && g.pen == pen)

def State.setGroup (s : State) (g : Group) : State :=
  { s with groups := s.groups.map (fun x => if x.n == g.n then g else x) }

/-- The members that count in the phase of a parity (R43). -/
def Group.counting (g : Group) (parity : Bool) : Nat := (g.members.filter (fun m => m.np == parity)).length

def Group.arrived (g : Group) (parity : Bool) : List Arrival := g.arrivals.filter (fun a => a.parity == parity)

/-- The arrivals of a boundary in ascending member index. -/
def insertArrival (a : Arrival) : List Arrival → List Arrival
  | [] => [a]
  | b :: r => if a.index < b.index then a :: b :: r else b :: insertArrival a r

def sortArrivals (l : List Arrival) : List Arrival := l.foldl (fun r a => insertArrival a r) []

/-- A key that is equal for stores that reach one line: its place in memory, or its address where it reaches none. -/
def commitKey (s : State) (vi : Nat) (a : Arrival) (e : SbEntry) : Nat :=
  match storeLine s a.die vi a.pen e.line.toNat with
  | some g => g
  | none => 2 ^ 60 + a.die * 2 ^ 46 + e.line.toNat

/-- The stores a member carries into the boundary of a group (R139): those of a context that has ended are discarded
(R131). -/
def carried (s : State) (n : Nat) (a : Arrival) : List SbEntry :=
  match s.keyOfId a.ctx with
  | none => []
  | some k => (s.ctx k).stores (fun e => e.taken == some n && e.pen == a.pen)

/-- A member's line put with those that lower indices store to it. -/
def groupLine (key : Nat) (x : Arrival × SbEntry) : List (Nat × List (Arrival × SbEntry)) → List (Nat × List (Arrival × SbEntry))
  | [] => [(key, [x])]
  | (k, l) :: r => if k == key then (k, l ++ [x]) :: r else (k, l) :: groupLine key x r

/-- The lines of a boundary, each once, with the stores that reach it in ascending member index (R130). -/
def boundaryLines (s : State) (n vi : Nat) (arrivals : List Arrival) : List (List (Arrival × SbEntry)) :=
  let all := (sortArrivals arrivals).flatMap (fun a => (carried s n a).map (fun e => (commitKey s vi a e, a, e)))
  (all.foldl (fun l (k, x) => groupLine k x l) []).map Prod.snd

/-- The resolved contents of a line: byte by byte, the highest index wins (R130). Stores of members that have ended
meanwhile are discarded (R131). The line is committed for the member of the highest index that stored to it, whose index its
record carries: R131 does not say whose (DESIGN CHOICE, log entry 21). -/
def resolveLine (s : State) (l : List (Arrival × SbEntry)) : Option (Arrival × SbEntry) :=
  (l.filter (fun x => (s.keyOfId x.1.ctx).isSome)).foldl (fun r x => some (match r with
    | none => x
    | some (_, old) => (x.1, x.2.onto old))) none

/-! ### Boundaries (R44, R130, R418) -/

/-- The context of a number changed. -/
def State.modId (s : State) (id : Nat) (f : Ctx → Ctx) : State :=
  { s with ctxs := Table.mapIf s.ctxs (fun _ c => c.id == id && c.status != .empty) f }

/-- A member that waits at the boundary of group n continues: the stores it carried have been committed, its view is
refreshed, NP flips, or its record goes (R130, R231). A wait of the same context at another descriptor stands. -/
def Ctx.passBoundary (n va : Nat) (leave : Bool) (c : Ctx) : Ctx :=
  let c := c.without (fun e => e.taken == some n)
  let c := { c with view := [], atGroup := c.atGroup.map (fun (w : GroupWait) => if w.addr.toNat == va then { w with passed := true } else w) }
  if leave then { c with member := c.member.filter (fun m => m.addr.toNat != va) }
  else { c with member := c.member.map (fun m => if m.addr.toNat == va then { m with np := !m.np } else m) }

/-- The membership record of a context in a group, by its index. -/
def Ctx.recordOf (c : Ctx) (index : Nat) (va : Nat) : Option Membership :=
  c.member.find? (fun m => m.index == index && m.addr.toNat == va)

/-- A member passes the boundary of its group, and its bank's L1 lines are invalidated (R107). -/
def passMember (g : Group) (s : State) (a : Arrival) : State :=
  match s.keyOfId a.ctx with
  | none => s
  | some k => dropL1 (s.modCtx k (Ctx.passBoundary g.n a.va a.leave)) k

/-- The members that remain after a phase: without its leavers, and without those whose final arrival was lost (R43, R423);
those that counted in it count in the next. -/
def Group.after (g : Group) : List Member :=
  let gone := ((g.arrived g.parity).filter (fun a => a.leave)).map (fun a => a.index)
  (g.members.filter (fun m => !(m.np == g.parity && (gone.contains m.index || m.lost)))).map
    (fun m => if m.np == g.parity then { m with np := !g.parity } else m)

/-- A descriptor after its group's phase: PHASE one more, P flipped, its members counted, the arrivals of the phase gone; at its
reset values where no member is left (R42, R44). -/
def Group.descAfter (g : Group) (d : Line) : Line :=
  if g.after.isEmpty then 0
  else setArr (setField (setField (setField d 448 64 (gdPhase d + 1)) 48 1 (!g.parity).toNat) 0 16 g.after.length) g.parity 0

/-- The descriptor's write at a boundary. That of a page that has left the VI meanwhile takes none (R131; DEDUCED, log entry
71). -/
def turnPhase (s : State) (g : Group) : State :=
  match descRead s g.die g.vi.toNat g.va with
  | .error _ => s
  | .ok (_, d) => descWrite s g.die g.vi.toNat g.va (g.descAfter d)

/-- Phase n has completed: P flips, PHASE increments, its arrivals go to zero, leavers go, and the members that wait
continue, whatever becomes of the descriptor (R44, R43, R131). -/
def boundary (s : State) (g : Group) : State :=
  let s := turnPhase ((g.arrived g.parity).foldl (passMember g) s) g
  if g.after.isEmpty then { s with groups := s.groups.filter (fun x => x.n != g.n) }
  else s.setGroup { g with members := g.after, parity := !g.parity, arrivals := g.arrivals.filter (fun a => a.parity != g.parity),
                           commit := none, paused := [] }

/-- Every member that counts in the open phase has arrived. Where the final arrival of one was lost, the phase completes only
once every other one has left (R423). -/
def Group.full (g : Group) : Bool :=
  let lost := (g.members.filter (fun m => m.np == g.parity && m.lost)).length
  let here := g.arrived g.parity
  g.counting g.parity ≤ here.length + lost && (lost == 0 || here.all (fun a => a.leave))

/-- Starts the commit of the open phase of a group if every member that counts in it has arrived. A phase in which no
member counts completes with the first arrival for the phase after it (R418). -/
def progress (s : State) (n : Nat) : Nat → State
  | 0 => s
  | fuel + 1 =>
    match s.groups.find? (fun g => g.n == n) with
    | none => s
    | some g =>
      if g.commit.isSome then s
      else if g.counting g.parity == 0 then
        if (g.arrived (!g.parity)).isEmpty then s else progress (boundary s g) n fuel
      else if !g.full then s
      else (s.setGroup { g with commit := some (boundaryLines s g.n g.vi.toNat (g.arrived g.parity)) }).act (.commitComplete n)

/-- The fields of a record about an arrival's line. -/
def Arrival.committer (s : State) (vi : Nat) (a : Arrival) : Committer :=
  match s.keyOfId a.ctx with
  | some k => { (s.ctx k).committer s a.index with die := a.die, pen := a.pen }
  | none => ⟨none, a.die, vi, 0, a.pen, 0, 0, a.index, (0, 0)⟩

/-- The lines of a boundary written until one waits. -/
def commitGroup (s : State) (vi : Nat) (pz : List CommitPause) :
    List (List (Arrival × SbEntry)) → List (List (Arrival × SbEntry)) × List CommitPause × State
  | [] => ([], pz, s)
  | l :: r =>
    match resolveLine s l with
    | none => commitGroup s vi pz r
    | some (a, e) => match commitLine s (a.committer s vi) e pz with
      | (.waits, pz, s) => (l :: r, pz, s)
      | (_, pz, s) => commitGroup s vi pz r

/-- The stores a context has made since its last arrival are its group's (R139). -/
def Ctx.carry (c : Ctx) (n : Nat) (pen : Pen) : Ctx :=
  let mark := fun (l : List SbEntry) => l.map (fun e => if e.taken.isNone && e.pen == pen then { e with taken := some n } else e)
  { c with sbuf := mark c.sbuf, spill := mark c.spill }

/-- A member's arrival at its group's descriptor, found at a place with its contents (R233, R235, R237, R347): counted against
NP, carrying its stores or none. -/
def arriveAt (s : State) (k : Nat) (m : Membership) (leave carry : Bool) (gpa : Nat) (d : Line) : State :=
  let c := s.ctx k
  match s.groupAt gpa (s.ctxPen c) with
  | none => s
  | some g =>
    if g.arrivals.any (fun a => a.ctx == c.id && a.index == m.index) then
      s.setGroup { g with arrivals := g.arrivals.map (fun a =>
        if a.ctx == c.id && a.index == m.index then { a with leave := a.leave || leave } else a) }
    else
      let a : Arrival := ⟨c.id, m.index, m.np, leave, s.ctxPen c, c.die, m.addr.toNat⟩
      let s := if carry then s.modCtx k (fun c => c.carry g.n a.pen) else s
      let s := s.setGroup { g with arrivals := g.arrivals ++ [a], die := c.die, va := m.addr.toNat }
      let s := descWrite s c.die c.vi.toNat m.addr.toNat (setArr d m.np (gdArr d m.np + 1))
      progress s g.n 4

/-- The final arrival of a context in a group was not counted, and none will be (R423). -/
def loseMember (s : State) (k : Nat) (m : Membership) : State :=
  let c := s.ctx k
  let ours := fun (x : Member) => x.ctx == c.id && x.index == m.index
  let s := { s with groups := s.groups.map (fun (g : Group) => if g.pen == s.ctxPen c && g.members.any ours then
    { g with members := g.members.map (fun x => if ours x then { x with lost := true } else x) } else g) }
  (s.groups.filter (fun g => g.members.any ours)).foldl (fun s g => progress s g.n 4) s

/-- The arrivals of a context that ends, in each of its groups, with no stores (R237 step 4, R347 step 4). Where the
descriptor fails a check or its die gives no answer, no arrival is made and the membership record goes all the same; the group
then stands as after a lost final arrival (DESIGN CHOICE, log entry 71). -/
def leaveAll (s : State) (k : Nat) : State :=
  let s := (s.ctx k).member.foldl (fun s m =>
    let c := s.ctx k
    let a : Accessor := c.accessor s
    match checkS s a Need.both m.addr.toNat false with
    | .error _ => loseMember s k m
    | .ok w => match readLine s a w with
      | .error _ => loseMember s k m
      | .ok d => arriveAt (useS s k Need.both m.addr.toNat) k m true false w.gpa d) s
  s.modCtx k (fun c => { c with member := [] })

end Sys2Proof.Machine
end

