-- ==== Sys2Proof/Machine/Formats.lean ====
section
/-! DEFINITION. The number formats and the one rounding function of the device (R48 to R60, R69), on exact values. -/

namespace Sys2Proof.Machine

/-! ### Exact fractions -/

/-- An exact fraction; the denominator is never 0 where one is made. -/
structure Q where
  num : Int
  den : Nat
  deriving DecidableEq, Repr

def Q.zero : Q := ⟨0, 1⟩
def Q.ofInt (i : Int) : Q := ⟨i, 1⟩
def Q.neg (a : Q) : Q := ⟨-a.num, a.den⟩
def Q.add (a b : Q) : Q :=
  let g := Nat.gcd a.den b.den
  ⟨a.num * (b.den / g : Nat) + b.num * (a.den / g : Nat), a.den / g * b.den⟩
def Q.sub (a b : Q) : Q := a.add b.neg
def Q.mul (a b : Q) : Q := ⟨a.num * b.num, a.den * b.den⟩
/-- a / b for b ≠ 0. -/
def Q.div (a b : Q) : Q := ⟨a.num * b.den * b.num.sign, a.den * b.num.natAbs⟩
def Q.lt (a b : Q) : Bool := a.num * b.den < b.num * a.den
def Q.le (a b : Q) : Bool := a.num * b.den ≤ b.num * a.den
def Q.eq (a b : Q) : Bool := a.num * b.den == b.num * a.den
def Q.abs (a : Q) : Q := ⟨a.num.natAbs, a.den⟩
def Q.isNeg (a : Q) : Bool := a.num < 0
/-- The integer part of a fraction that is not negative. -/
def Q.floorNat (a : Q) : Nat := a.num.toNat / a.den
/-- 2^e. -/
def Q.pow2 (e : Int) : Q := if 0 ≤ e then ⟨2 ^ e.toNat, 1⟩ else ⟨1, 2 ^ (-e).toNat⟩
/-- 10^e. -/
def Q.pow10 (e : Int) : Q := if 0 ≤ e then ⟨10 ^ e.toNat, 1⟩ else ⟨1, 10 ^ (-e).toNat⟩

/-- The k with 2^k ≤ a < 2^(k+1), for a > 0. -/
def Q.log2 (a : Q) : Int :=
  let k : Int := (Nat.log2 a.num.toNat : Int) - Nat.log2 a.den
  if a.lt (Q.pow2 k) then k - 1 else if (Q.pow2 (k + 1)).le a then k + 1 else k

/-! ### Values of the floating formats (R48, R49) -/

/-- A value of a floating format: every NaN is one value, since payloads are dropped. -/
inductive Val where
  | nan
  | inf (neg : Bool)
  | zero (neg : Bool)
  /-- A value other than 0. -/
  | fin (q : Q)
  deriving DecidableEq, Repr

/-- An IEEE format: exponent and fraction bits. -/
structure Fmt where
  ebits : Nat
  fbits : Nat
  deriving DecidableEq, Repr

def Fmt.f32 : Fmt := ⟨8, 23⟩
def Fmt.f16 : Fmt := ⟨5, 10⟩
def Fmt.bf16 : Fmt := ⟨8, 7⟩

def Fmt.bias (f : Fmt) : Nat := 2 ^ (f.ebits - 1) - 1
/-- The magnitude code of infinity. -/
def Fmt.infCode (f : Fmt) : Nat := (2 ^ f.ebits - 1) * 2 ^ f.fbits
def Fmt.signBit (f : Fmt) : Nat := 2 ^ (f.ebits + f.fbits)
/-- The canonical NaN (R49). -/
def Fmt.nan (f : Fmt) : Nat := f.infCode + 2 ^ (f.fbits - 1)

/-- The magnitude a finite magnitude code stands for. -/
def Fmt.mag (f : Fmt) (c : Nat) : Q :=
  let e := c / 2 ^ f.fbits
  let m := c % 2 ^ f.fbits
  if e == 0 then (Q.ofInt m).mul (Q.pow2 (1 - (f.bias : Int) - f.fbits))
  else (Q.ofInt (2 ^ f.fbits + m : Nat)).mul (Q.pow2 ((e : Int) - f.bias - f.fbits))

/-- The value of an encoding. -/
def Fmt.decode (f : Fmt) (bits : Nat) : Val :=
  let neg := bits / f.signBit % 2 == 1
  let c := bits % f.signBit
  if f.infCode < c then .nan
  else if c == f.infCode then .inf neg
  else if c == 0 then .zero neg
  else .fin (if neg then (f.mag c).neg else f.mag c)

/-- The greatest magnitude code whose magnitude is at most `m`, for m > 0. -/
def Fmt.floorCode (f : Fmt) (m : Q) : Nat :=
  let e := max m.log2 (1 - (f.bias : Int))
  let q := (m.mul (Q.pow2 ((f.fbits : Int) - e))).floorNat
  q + (e + f.bias - 1).toNat * 2 ^ f.fbits

/-- The greatest finite magnitude F, and the distance of its neighbours. -/
def Fmt.maxMag (f : Fmt) : Q := f.mag (f.infCode - 1)
def Fmt.maxUlp (f : Fmt) : Q := (f.maxMag).sub (f.mag (f.infCode - 2))

/-! ### Rounding (R54 to R58) -/

/-- The rounding codes but `.dyn`, which R55 resolves before. -/
inductive Rc where
  | rne | rtz | rup | rdn | rna | rsr | rto
  deriving DecidableEq, Repr

/-- The code a three-bit field names, 111 as 000 (R55). -/
def Rc.ofCode (n : Nat) : Rc :=
  match n with
  | 0 => .rne | 1 => .rtz | 2 => .rup | 3 => .rdn | 4 => .rna | 5 => .rsr | 6 => .rto | _ => .rne

/-- Whether a magnitude `m` strictly between the neighbours `lo` and `hi` rounds to `hi` (R54, R56). `odd` says that
the encoding of lo has bit 0 set; `r` is the 16-bit random number of `.rsr`. -/
def takesHi (rc : Rc) (neg odd : Bool) (r : Nat) (lo hi m : Q) : Bool :=
  let twice := (m.add m)
  let mid := lo.add hi
  match rc with
  | .rne => mid.lt twice || (mid.eq twice && odd)
  | .rtz => false
  | .rup => !neg
  | .rdn => neg
  | .rna => mid.le twice
  | .rsr => r < (((m.sub lo).mul (Q.ofInt 65536)).div (hi.sub lo)).floorNat
  | .rto => !odd

/-- Whether a magnitude beyond the largest finite one becomes an infinity (R58). -/
def overflows (f : Fmt) (rc : Rc) (neg : Bool) (m : Q) : Bool :=
  match rc with
  | .rne | .rna => ((f.maxMag.add f.maxUlp).add f.maxMag).le (m.add m)
  | .rtz | .rto => false
  | .rup => !neg
  | .rdn => neg
  | .rsr => true

/-- The magnitude code a finite magnitude m > 0 rounds to. -/
def Fmt.roundMag (f : Fmt) (rc : Rc) (neg : Bool) (r : Nat) (m : Q) : Nat :=
  if f.maxMag.lt m then (if overflows f rc neg m then f.infCode else f.infCode - 1)
  else
    let c := f.floorCode m
    if (f.mag c).eq m then c
    else if takesHi rc neg (c % 2 == 1) r (f.mag c) (f.mag (c + 1)) m then c + 1 else c

def signed (f : Fmt) (neg : Bool) (c : Nat) : Nat := if neg then f.signBit + c else c

/-- round(x, fmt, rc), and with `sat` an infinite result clamped to ±F (R54, R58). -/
def Fmt.round (f : Fmt) (rc : Rc) (r : Nat) (sat : Bool) (x : Val) : Nat :=
  match x with
  | .nan => f.nan
  | .zero neg => signed f neg 0
  | .inf neg => signed f neg (if sat then f.infCode - 1 else f.infCode)
  | .fin q =>
    let c := f.roundMag rc q.isNeg r q.abs
    signed f q.isNeg (if sat && c == f.infCode then f.infCode - 1 else c)

/-- The integer that x rounds to, clamped to a range; NaN gives 0 (R54, R59). -/
def roundInt (rc : Rc) (r : Nat) (lo hi : Int) (x : Val) : Int :=
  match x with
  | .nan => 0
  | .zero _ => 0
  | .inf neg => if neg then lo else hi
  | .fin q =>
    let m := q.abs
    let n := m.floorNat
    let n := if (Q.ofInt n).eq m then n
      else if takesHi rc q.isNeg (n % 2 == 1) r (Q.ofInt n) (Q.ofInt (n + 1 : Nat)) m then n + 1 else n
    let i : Int := if q.isNeg then -(n : Int) else n
    max lo (min hi i)

/-! ### D8 (R51, R52) -/

/-- The magnitude of a magnitude code other than 0. -/
def d8Mag (m : Nat) : Q :=
  let p := Nat.log2 m
  if p == 0 then Q.pow10 (-11)
  else
    let e := m / 2 ^ (p - 1) % 2
    let f := m % 2 ^ (p - 1)
    (Q.pow10 (2 * ((p : Int) - 6) + e)).mul ⟨(2 ^ (p - 1) + 9 * f : Nat), 2 ^ (p - 1)⟩

/-- The exact value of a D8 code; NaR is the one NaN. -/
def d8Decode (c : Nat) : Val :=
  let m := c % 128
  let neg := c / 128 % 2 == 1
  if m == 0 then (if neg then .nan else .zero false)
  else .fin (if neg then (d8Mag m).neg else d8Mag m)

/-- The greatest magnitude code up to `k` whose magnitude is at most x, 0 for none. -/
def d8Floor (x : Q) : Nat → Nat
  | 0 => 0
  | k + 1 => if (d8Mag (k + 1)).le x then k + 1 else d8Floor x k

/-- round(x, D8, rc) as a code; magnitudes above 97.1875 give ±97.1875, an exact or rounded zero 0x00 (R58, R60). -/
def d8Round (rc : Rc) (r : Nat) (x : Val) : Nat :=
  match x with
  | .nan => 0x80
  | .zero _ => 0
  | .inf neg => if neg then 0xFF else 0x7F
  | .fin q =>
    let m := q.abs
    let c := d8Floor m 127
    let lo := if c == 0 then Q.zero else d8Mag c
    let c := if c == 127 || lo.eq m then c
      else if takesHi rc q.isNeg (c % 2 == 1) r lo (d8Mag (c + 1)) m then c + 1 else c
    if c == 0 then 0 else if q.isNeg then 128 + c else c

/-- The FP32 decode of a D8 code, always RNE (R53). -/
def d8ToF32 (c : Nat) : Nat := Fmt.f32.round .rne 0 false (d8Decode c)

/-! ### Arithmetic on exact values (R49) -/

def Val.neg : Val → Val
  | .nan => .nan
  | .inf n => .inf (!n)
  | .zero n => .zero (!n)
  | .fin q => .fin q.neg

def Val.isNegative : Val → Bool
  | .nan => false
  | .inf n => n
  | .zero n => n
  | .fin q => q.isNeg

/-- The exact value of a fraction; `nz` is the sign of an exact zero. -/
def Val.ofQ (q : Q) (nz : Bool) : Val := if q.num == 0 then .zero nz else .fin q

/-- x + y. An exact zero sum is −0 under `.rdn` or of −0 terms only, else +0 (R49, log entry 5). -/
def Val.add (x y : Val) (rdn : Bool) : Val :=
  match x, y with
  | .nan, _ => .nan
  | _, .nan => .nan
  | .inf a, .inf b => if a == b then .inf a else .nan
  | .inf a, _ => .inf a
  | _, .inf b => .inf b
  | .zero a, .zero b => .zero ((a && b) || rdn)
  | .zero _, .fin q => .fin q
  | .fin q, .zero _ => .fin q
  | .fin p, .fin q => .ofQ (p.add q) rdn

def Val.mul (x y : Val) : Val :=
  let n := x.isNegative != y.isNegative
  match x, y with
  | .nan, _ => .nan
  | _, .nan => .nan
  | .inf _, .zero _ => .nan
  | .zero _, .inf _ => .nan
  | .inf _, _ => .inf n
  | _, .inf _ => .inf n
  | .zero _, _ => .zero n
  | _, .zero _ => .zero n
  | .fin p, .fin q => .fin (p.mul q)

def Val.div (x y : Val) : Val :=
  let n := x.isNegative != y.isNegative
  match x, y with
  | .nan, _ => .nan
  | _, .nan => .nan
  | .inf _, .inf _ => .nan
  | .zero _, .zero _ => .nan
  | .inf _, _ => .inf n
  | _, .inf _ => .zero n
  | .zero _, _ => .zero n
  | _, .zero _ => .inf n
  | .fin p, .fin q => .fin (p.div q)

/-- x < y and x = y by value, −0 equal to +0; false with a NaN. -/
def Val.toQ : Val → Q
  | .fin q => q
  | _ => Q.zero
def Val.isNan : Val → Bool
  | .nan => true
  | _ => false
def Val.lt (x y : Val) : Bool :=
  match x, y with
  | .nan, _ => false
  | _, .nan => false
  | .inf a, .inf b => a && !b
  | .inf a, _ => a
  | _, .inf b => !b
  | _, _ => x.toQ.lt y.toQ
def Val.eq (x y : Val) : Bool := !x.isNan && !y.isNan && !x.lt y && !y.lt x

/-- x below y where −0 counts as below +0 (R294). -/
def Val.below (x y : Val) : Bool :=
  match x, y with
  | .zero a, .zero b => a && !b
  | _, _ => x.lt y

def Val.ofInt (i : Int) : Val := if i == 0 then .zero false else .fin (Q.ofInt i)

/-- FP32 addition and subtraction with RNE, as the array, reductions and MHAD use them. -/
def f32Add (x y : Nat) : Nat := Fmt.f32.round .rne 0 false ((Fmt.f32.decode x).add (Fmt.f32.decode y) false)
def f32Neg (x : Nat) : Nat := Fmt.f32.round .rne 0 false (Fmt.f32.decode x).neg
def f32Sub (x y : Nat) : Nat := f32Add x (f32Neg y)

/-! ### Random sources (R57) -/

/-- One step of a lane's state. -/
def rbStep (s : Word) : Word :=
  let t := s >>> 1
  if s.getLsbD 0 then t ^^^ 0x80200003 else t

/-- n steps. -/
def rbSteps : Nat → Word → Word
  | 0, s => s
  | n + 1, s => rbSteps n (rbStep s)

/-- The state after n draws of sixteen steps. -/
def rbAfter (n : Nat) (s : Word) : Word := rbSteps (16 * n) s

/-- The number the lane's draw number n takes. -/
def rbDraw (n : Nat) (s : Word) : Nat := (rbAfter n s).toNat % 65536

/-- The state VRSEED q gives lane L (R57). -/
def rbSeed (q : Word) (lane : Nat) : Word :=
  let x := q ^^^ BitVec.ofNat 32 (0x9E3779B9 * (lane + 1))
  if x == 0 then 1 else x

end Sys2Proof.Machine
end

