-- ==== Sys2Proof/Machine/Ops.lean ====
section
/-! DEFINITION. Operations over registers, queues, tiles and streams (R22 to R28, R71 to R82, R96 to R99, R143), the
drain (R30, R323), waiting (R32, R126), taking a trap and returning from one (R333, R335, R345) and the end of a context
without TEND (R347). -/

namespace Sys2Proof.Machine

/-- A meaning's answer. -/
abbrev Result := Host.Outcome State Fault Refusal

/-! ### Registers (R71, R72) -/

def Ctx.readS (c : Ctx) (p : Pen) (r : Reg) : Dword := if r == 0 then 0 else (c.s[r.toNat]'r.isLt).read p
def Ctx.writeS (c : Ctx) (p : Pen) (r : Reg) (v : Dword) : Ctx :=
  if r == 0 then c else { c with s := c.s.set r.toNat ⟨p, v⟩ r.isLt }
def Ctx.readA (c : Ctx) (p : Pen) (r : Reg) : Dword := if r == 0 then 0 else (c.a[r.toNat]'r.isLt).read p
def Ctx.writeA (c : Ctx) (p : Pen) (r : Reg) (v : Dword) : Ctx :=
  if r == 0 then c else { c with a := c.a.set r.toNat ⟨p, v⟩ r.isLt }

/-- The handle in k register n; null for a stale one. -/
def Ctx.readK (c : Ctx) (p : Pen) (n : Nat) : Handle := (c.k.getD n .void).read p
def Ctx.writeK (c : Ctx) (p : Pen) (n : Nat) (h : Handle) : Ctx := { c with k := c.k.setIfInBounds n ⟨p, h⟩ }

/-- A run of registers written in one step, from number r on (R217). -/
def Ctx.writeRunS (c : Ctx) (p : Pen) (r : Nat) : List Dword → Ctx
  | [] => c
  | v :: vs => Ctx.writeRunS (c.writeS p (BitVec.ofNat 5 r) v) p (r + 1) vs

/-- A run of registers read. -/
def Ctx.readRunS (c : Ctx) (p : Pen) (r n : Nat) : List Dword :=
  (List.range n).map (fun j => c.readS p (BitVec.ofNat 5 (r + j)))

/-- The core of the issuing context. -/
def State.curCore (s : State) : Nat := coreOf s.focus.key

/-- Registers of the context that issues. -/
def State.rS (s : State) (r : Reg) : Dword := s.cur.readS s.pen r
def State.wS (s : State) (r : Reg) (v : Dword) : State := s.setCur (s.cur.writeS s.pen r v)
def State.rA (s : State) (r : Reg) : Dword := s.cur.readA s.pen r
def State.wA (s : State) (r : Reg) (v : Dword) : State := s.setCur (s.cur.writeA s.pen r v)

/-! ### Program counters and hardware loops (R22, R82, R227) -/

def Ctx.pc (c : Ctx) : Stream → Dword
  | .s => c.pcS | .a => c.pcA | .v => c.pcV | .m => c.pcM
def Ctx.setPc (c : Ctx) (st : Stream) (x : Dword) : Ctx :=
  match st with
  | .s => { c with pcS := x } | .a => { c with pcA := x } | .v => { c with pcV := x } | .m => { c with pcM := x }
def Ctx.loop (c : Ctx) : Stream → Loop
  | .s => c.loopS | .a => c.loopA | .v => c.loopV | .m => c.loopM
def Ctx.setLoop (c : Ctx) (st : Stream) (l : Loop) : Ctx :=
  match st with
  | .s => { c with loopS := l } | .a => { c with loopA := l } | .v => { c with loopV := l } | .m => { c with loopM := l }
/-- The stream has issued its end instruction and has not been started since (R228). -/
def Ctx.ended (c : Ctx) : Stream → Bool
  | .s => false | .a => c.idleA | .v => c.idleV | .m => c.idleM
def Ctx.setEnded (c : Ctx) (st : Stream) (b : Bool) : Ctx :=
  match st with
  | .s => c | .a => { c with idleA := b } | .v => { c with idleV := b } | .m => { c with idleM := b }
/-- A stream counts as idle only once every word it issued has landed or completed (R228). -/
def Ctx.idle (c : Ctx) (st : Stream) : Bool :=
  c.ended st &&
  (match st with
   | .v => c.flights.isEmpty
   | .m => c.run.isNone && c.fills.isEmpty
   | _ => true)
def Ctx.allIdle (c : Ctx) : Bool := c.handler || (c.idle .a && c.idle .v && c.idle .m)

/-- A loop state as a reader with pennant p sees it: a stale one reads as zero (R71, R73). -/
def Loop.read (l : Loop) (p : Pen) : Loop := if l.pen == p then l else .off

/-- The loop states of a context as its streams read them. -/
def Ctx.readLoops (c : Ctx) (p : Pen) : Ctx :=
  { c with loopS := c.loopS.read p, loopA := c.loopA.read p, loopV := c.loopV.read p, loopM := c.loopM.read p }

/-- An address lies in the loop's body. -/
def Loop.inBody (l : Loop) (x : Dword) : Bool := l.start.toNat ≤ x.toNat && x.toNat < l.fin.toNat

/-- The loop and the next word after a word of `len` bytes at pc that does not branch away: the back-edge of R227. -/
def Loop.next (l : Loop) (pc : Dword) (len : Nat) : Loop × Dword :=
  let nx := pc + BitVec.ofNat 64 len
  if l.act && l.inBody pc then
    if nx == l.fin then
      if l.p.toNat + 1 < l.n.toNat + l.s.toNat - 1 then ({ l with p := l.p + 1 }, l.start)
      else ({ l with act := false }, nx)
    else if l.fin.toNat < nx.toNat then ({ l with act := false }, nx)
    else (l, nx)
  else (l, nx)

/-- The loop after a taken branch to t: it ends when t lies outside its body. -/
def Loop.jump (l : Loop) (t : Dword) : Loop := if l.act && !l.inBody t then { l with act := false } else l

/-- Stage predicate g j (R82). -/
def Loop.g (l : Loop) (j : Nat) : Bool :=
  l.act && j < l.s.toNat && j ≤ l.p.toNat && l.p.toNat - j < l.n.toNat

/-- g3 to g0 as four bits. -/
def Loop.gbits (l : Loop) : Nat := ((List.range 4).map (fun j => if l.g j then 2 ^ j else 0)).foldl (fun a b => a + b) 0

def Ctx.advance (c : Ctx) (st : Stream) (len : Nat) : Ctx :=
  let (l, nx) := (c.loop st).next (c.pc st) len
  (c.setLoop st l).setPc st nx

def Ctx.jump (c : Ctx) (st : Stream) (t : Dword) : Ctx := (c.setLoop st ((c.loop st).jump t)).setPc st t

/-- A loop instruction whose checks have passed (R227): the body begins after the word and holds `len` words. -/
def Ctx.startLoop (c : Ctx) (p : Pen) (st : Stream) (n : BitVec 32) (stages len : Nat) : Ctx :=
  let start := c.pc st + BitVec.ofNat 64 st.wordBytes
  let fin := start + BitVec.ofNat 64 (st.wordBytes * len)
  if n == 0 then c.setPc st fin
  else (c.setLoop st ⟨n, BitVec.ofNat 3 stages, 0, start, fin, true, p⟩).setPc st start

/-- The issuing context moves past a word of `len` bytes. -/
def State.advance (s : State) (st : Stream) (len : Nat) : State := s.modCur (fun c => c.advance st len)
def State.jump (s : State) (st : Stream) (t : Dword) : State := s.modCur (fun c => c.jump st t)

/-- A word displacement of R198. -/
def dispTo {n : Nat} (pc : Dword) (disp : BitVec n) (bytes : Nat) : Dword :=
  pc + disp.signExtend 64 * BitVec.ofNat 64 bytes

/-- Moves past an S word, or an A word. -/
def State.nextS (s : State) : State := s.advance .s 4
def State.nextA (s : State) : State := s.advance .a 4

/-- A stalled word: nothing changes. -/
def stall (s : State) : State := s

/-- The cycle CSR of a package's cores (R87). -/
def State.cycleCsr (s : State) (p : Nat) : Dword := BitVec.ofNat 64 (s.cycle - (s.pkg p).born)

/-! ### Token queues and branch outcomes (R23, R25, R143) -/

/-- The queue from a producer stream to a consumer, in the order of R23. -/
def tokIdx (p c : Nat) : Nat := 3 * p + (if c < p then c else c - 1)
def Ctx.tokens (c : Ctx) (p : Pen) (i : Nat) : Nat := ((c.tok.getD i .void).read p).toNat
def Ctx.setTokens (c : Ctx) (p : Pen) (i n : Nat) : Ctx :=
  { c with tok := c.tok.setIfInBounds i ⟨p, BitVec.ofNat 6 n⟩ }
def Ctx.postTok (c : Ctx) (p : Pen) (i : Nat) : Ctx := c.setTokens p i (c.tokens p i + 1)
def Ctx.takeTok (c : Ctx) (p : Pen) (i : Nat) : Ctx := c.setTokens p i (c.tokens p i - 1)

/-- The queue a token-post field of a V or M word names: none for 0. -/
def postIdx (own : Nat) (t : BitVec 3) : Option Nat := if t == 0 then none else some (tokIdx own (t.toNat % 4))
/-- The queue a token-wait field names. -/
def waitIdx (own : Nat) (t : BitVec 3) : Option Nat := if t == 0 then none else some (tokIdx (t.toNat % 4) own)

/-- Posts to a queue by words that have issued and not retired (R23). -/
def Ctx.pendingPosts (c : Ctx) (i : Nat) : Nat :=
  (c.flights.filter (fun f => postIdx 2 f.post == some i)).length +
  (match c.run with | some r => if postIdx 3 r.post == some i then 1 else 0 | none => 0) +
  (c.fills.filter (fun f => postIdx 3 f.post == some i)).length

/-- A post at issue would raise TOKEN. -/
def Ctx.postFull (c : Ctx) (p : Pen) (i : Nat) : Bool := 63 < c.tokens p i + c.pendingPosts i + 1

/-- A branch-outcome queue, by sender and receiver code: sa, sv, sm, as, vs. -/
def Ctx.bq (c : Ctx) : Nat → List (Tag 1)
  | 0 => c.bqSA | 1 => c.bqSV | 2 => c.bqSM | 3 => c.bqAS | _ => c.bqVS
def Ctx.setBq (c : Ctx) (i : Nat) (q : List (Tag 1)) : Ctx :=
  match i with
  | 0 => { c with bqSA := q } | 1 => { c with bqSV := q } | 2 => { c with bqSM := q } | 3 => { c with bqAS := q }
  | _ => { c with bqVS := q }

/-! ### Tiles (R96 to R99) -/

def Core.tile (c : Core) (t : Nat) : Tile := Table.get c.tiles t .reset
def Core.setTile (c : Core) (t : Nat) (x : Tile) : Core := { c with tiles := Table.put c.tiles t x }
def State.tile (s : State) (ck t : Nat) : Tile := (s.core ck).tile t
/-- What a tile's new tag does to the context that waits on it: the 256 cycles start again, and a context that is
WAITING becomes READY once its condition holds (R32). -/
def Ctx.tagChanged (c : Ctx) (t : Nat) (x : Tile) (cycle : Nat) : Ctx :=
  let c := match c.tileWait with
    | some (u, full, _) => if u == t then { c with tileWait := some (u, full, cycle) } else c
    | none => c
  match c.blocked with
  | .tile u full =>
    if u == t && c.status == .waiting && (if full then x.full else !x.full && !x.land) then
      { c with status := .ready, blocked := .nothing }
    else c
  | _ => c

/-- A tile's metadata changed. -/
def State.setTile (s : State) (ck t : Nat) (x : Tile) : State :=
  let old := s.tile ck t
  let s := s.modCore ck (fun c => c.setTile t x)
  if old.full == x.full && old.land == x.land then s
  else { s with ctxs := Table.mapIf s.ctxs (fun k _ => k == bankKey ck x.bank) (fun c => c.tagChanged t x s.cycle) }

/-- A tile is allocated under a pennant that is current in its package: one of a tenancy that has been shut is free
(R97). -/
def State.tileLive (s : State) (ck : Nat) (t : Tile) (pen : Pen) : Bool :=
  t.alloc && t.pen == pen && (s.pkg (pkgOf (dieOfCore ck))).current pen

/-- A tile is allocated to the context in a bank of its core (R97). -/
def Tile.heldBy (t : Tile) (bank : Bool) (pen : Pen) : Bool := t.alloc && t.bank == bank && t.pen == pen

def State.delivery (s : State) (n : Nat) : Option Delivery := s.deliveries.find? (fun d => d.n == n)
def State.setDelivery (s : State) (d : Delivery) : State :=
  { s with deliveries := s.deliveries.map (fun x => if x.n == d.n then d else x) }

/-- Sets EV in the context that holds a tile. -/
def wakeTile (s : State) (ck t : Nat) : State :=
  let x := s.tile ck t
  { s with ctxs := Table.mapIf s.ctxs (fun k c => k == bankKey ck x.bank && c.status != .empty && x.alloc &&
      x.pen == s.ctxPen c) Ctx.setEv }

/-- Admits a delivery: LAND is set, and its sender goes on: the engine of a local command, or the answer to a remote
source that has been held (R98, R377). -/
def admitDelivery (s : State) (d : Delivery) : State :=
  let ck := coreKey d.die d.core
  let s := s.setTile ck d.tile { s.tile ck d.tile with land := true }
  let s := s.setDelivery { d with state := .admitted, since := s.cycle }
  match d.remote with
  | some _ => s.act (.admitRepeat d.n)
  | none => match s.keyOfId d.ctx with
    | some k => s.act (.engineTakeCommand k d.cmd)
    | none => s

/-- The oldest held delivery of a tile whose FULL and LAND are 0 is admitted (R98). -/
def admitHeld (s : State) (ck t : Nat) : State :=
  let x := s.tile ck t
  if x.full || x.land then s
  else match (s.core ck).holdq.find? (fun n => match s.delivery n with | some d => d.tile == t && d.state == .held | none => false) with
    | none => s
    | some n => match s.delivery n with
      | none => s
      | some d =>
        let s := s.modCore ck (fun c => { c with holdq := c.holdq.filter (fun m => m != n) })
        admitDelivery (s.setTile ck t { x with held := x.held - 1 }) d

/-- Clears FULL (R99); a clear of a full tile admits a held delivery. -/
def clearFull (s : State) (ck t : Nat) : State :=
  let x := s.tile ck t
  if x.full then admitHeld (s.setTile ck t { x with full := false }) ck t else s

/-- A failed part of a delivery's command: its status is kept with the lowest slot (R278), and the command goes on. -/
def Cmd.fail (m : Cmd) (part code : Nat) (unknown : Bool) : Cmd :=
  let first := (List.range part).all (fun i => !m.failed.getLsbD i)
  { m with failed := m.failed ||| (1 <<< part), unknown := if unknown then m.unknown ||| (1 <<< part) else m.unknown,
           code := if first then BitVec.ofNat 8 code else m.code, parts := m.parts.filter (fun p => p != part) }

/-- The commands of a context changed where their SEQ is the one given. -/
def Ctx.modCmd (c : Ctx) (seq : BitVec 16) (f : Cmd → Cmd) : Ctx :=
  { c with cmds := c.cmds.map (fun m => if m.seq == seq then f m else m) }
def Ctx.cmd (c : Ctx) (seq : BitVec 16) : Option Cmd := c.cmds.find? (fun m => m.seq == seq)

/-- A delivery dropped at its tile: counted, and its sender told (R98, R191). -/
def dropDelivery (s : State) (d : Delivery) : State :=
  let s := s.count d.die Counters.incDropTile
  match d.remote with
  | some _ => (s.setDelivery { d with state := .ended }).act (.admitRepeat d.n)
  | none =>
    let s := { s with deliveries := s.deliveries.filter (fun x => x.n != d.n) }
    match s.keyOfId d.ctx with
    | some k => (s.modCtx k (fun c => c.modCmd d.cmd (fun m => m.fail d.part fOwner false))).act
        (.engineTakeCommand k d.cmd)
    | none => s

/-- The saved context that holds a tile of a virtual core under a pennant (R100). -/
def savedHolder (s : State) (ck : Nat) (vi : BitVec 8) (vcn : BitVec 16) (pen : Pen) (t : Nat) : Option Nat :=
  (s.ctxs.find? (fun e => isSlot e.1 && e.2.home == ck && e.2.vi == vi && e.2.vcn == vcn && Table.has e.2.savedTiles t &&
    (Table.get e.2.savedTiles t .reset).pen == pen)).map Prod.fst

/-- A tile's place: on its core, or with a saved context (R100). -/
inductive Place where
  | core (ck : Nat)
  | slot (k : Nat)
  deriving DecidableEq, Repr

/-- Where an allocated tile of a virtual core stands, for a command with a pennant (R100, R274): with the context of the
virtual core that holds it, resident or saved, else with any of the tenancy on the core, since R98 asks for ALLOC and PEN
alone. -/
def findPlace (s : State) (ck : Nat) (vi : BitVec 8) (vcn : BitVec 16) (pen : Pen) (t : Nat) : Option Place :=
  let x := s.tile ck t
  let live := s.tileLive ck x pen
  if live && (s.ctx (bankKey ck x.bank)).vcn == vcn then some (.core ck)
  else match savedHolder s ck vi vcn pen t with
    | some k => some (.slot k)
    | none => if live then some (.core ck) else none

def State.placeTile (s : State) (p : Place) (t : Nat) : Tile :=
  match p with
  | .core ck => s.tile ck t
  | .slot k => Table.get (s.ctx k).savedTiles t .reset

def State.setPlaceTile (s : State) (p : Place) (t : Nat) (x : Tile) : State :=
  match p with
  | .core ck => s.setTile ck t x
  | .slot k => s.modCtx k (fun c => { (c.tagChanged t x s.cycle) with savedTiles := Table.put c.savedTiles t x })

def State.placeMem (s : State) (p : Place) : Memory :=
  match p with
  | .core ck => (s.core ck).spad
  | .slot k => (s.ctx k).savedSpad

def State.setPlaceMem (s : State) (p : Place) (m : Memory) : State :=
  match p with
  | .core ck => s.modCore ck (fun c => { c with spad := m })
  | .slot k => s.modCtx k (fun c => { c with savedSpad := m })

/-- Where an admitted delivery lands: the tile whose LAND it has set, which has kept it whatever has become of the tile's
context (R97, R98, R100). -/
def landPlace (s : State) (d : Delivery) : Option Place :=
  let ck := coreKey d.die d.core
  let x := s.tile ck d.tile
  let here := if x.land && x.pen == d.pen then some (Place.core ck) else none
  match savedHolder s ck d.vi d.vcn d.pen d.tile with
  | some k => if (s.placeTile (.slot k) d.tile).land then some (.slot k) else here
  | none => here

/-- Deliveries in a core's hold queue that a test selects leave it and are dropped. -/
def dropWaiting (s : State) (ck : Nat) (sel : Delivery → Bool) : State :=
  let ns := (s.core ck).holdq.filter (fun n => match s.delivery n with | some d => sel d | none => false)
  let s := s.modCore ck (fun c => { c with holdq := c.holdq.filter (fun n => !ns.contains n) })
  ns.foldl (fun s n => match s.delivery n with | some d => dropDelivery s d | none => s) s

/-- Drops every delivery held for a tile. -/
def dropHeld (s : State) (ck t : Nat) : State := dropWaiting s ck (fun d => d.tile == t && d.state == .held)

/-- TFREE's event (R266). -/
def freeTile (s : State) (ck t : Nat) : State :=
  let x := s.tile ck t
  dropHeld (s.setTile ck t { x with alloc := false, full := false, inc := x.inc + 1, held := 0 }) ck t

/-- The tiles allocated to the context in a bank. -/
def Core.tilesOf (c : Core) (bank : Bool) (pen : Pen) : List Nat :=
  (c.tiles.filter (fun e => e.2.heldBy bank pen)).map Prod.fst

/-- Line i of tile t, as a line number of the scratchpad. -/
def tileLine (t i : Nat) : Nat := 256 * t + i

/-! ### Landing and stopping (R27, R30, R287, R322, R323) -/

/-- A zc register with one update (R61, R62). -/
def zcAdd (z : Dword) (u : ZcUpdate) : Dword :=
  let mx := if z.toNat / 4294967296 < u.max.toNat then u.max.toNat else z.toNat / 4294967296
  let n := z.toNat % 4294967296 + u.count
  BitVec.ofNat 64 (mx * 4294967296 + (if n < 4294967296 then n else 4294967295))

def Ctx.updateZc (c : Ctx) (p : Pen) (u : ZcUpdate) : Ctx :=
  { c with zc := c.zc.setIfInBounds u.zc ⟨p, zcAdd ((c.zc.getD u.zc .void).read p) u⟩ }

/-- A V word's push lands, with its zc updates and its token post. -/
def Ctx.land (c : Ctx) (f : Flight) : Ctx :=
  let c := match f.dest with
    | .nothing => c
    | .v n => { c with v := c.v.setIfInBounds n (c.v.getD n [] ++ [⟨f.pen, f.lanes⟩]) }
    | .sq n => { c with sq := c.sq.setIfInBounds n (c.sq.getD n [] ++ [⟨f.pen, f.lanes⟩]) }
    | .xq => { c with xq := c.xq ++ [⟨f.pen, f.lanes, f.mask⟩, ⟨f.pen, f.lanes2, f.mask⟩] }
  let c := f.zcs.foldl (fun c u => c.updateZc f.pen u) c
  match postIdx 2 f.post with
  | none => c
  | some i => c.postTok f.pen i

/-- A record of VAPPLY pushed through its queue's home controller, 8192·package + virtual queue (R316): one on another die by a
request. -/
def pushRecord (c : Ctx) (f : Flight) (s : State) (r : Line) : State :=
  let p := f.queue / 8192
  let vi := c.vi.toNat
  let home := queueHome s p vi (viQfirst ((s.pkg p).vi vi) + f.queue % 8192)
  if home == c.die then (pushHome s p vi (f.queue % 8192) f.pen r).2
  else askPush s c.die home f.pen f.queue r c.id

/-- The same in the domain, with VAPPLY's records. -/
def landFlight (s : State) (k : Nat) (f : Flight) : State :=
  let c := s.ctx k
  f.recs.foldl (pushRecord c f) (s.setCtx k (c.land f))

/-- Every row of an accumulator zero, with a pennant. -/
def zeroRows (p : Pen) : Table Entry := (List.range 128).map (fun i => (i, ⟨p, Lanes.zero⟩))

/-- The token of an array word or slot fill that retires. -/
def Ctx.postM (c : Ctx) (p : Pen) (t : BitVec 3) : Ctx :=
  match postIdx 3 t with
  | none => c
  | some i => c.postTok p i

/-- An array word completes: MRS, MQW and the unit are free, its token is posted (R322). -/
def Ctx.finishRun (c : Ctx) (p : Pen) (r : ArrayRun) : Ctx :=
  { c with run := none, mrs := 0, mqw := none }.postM p r.post

/-- MZERO's effect (R332). -/
def Ctx.zeroAcc (c : Ctx) (p : Pen) (r : ArrayRun) : Ctx :=
  { c with acc := c.acc.setIfInBounds r.w.acc.toNat (zeroRows p) }.finishRun p r

/-- A slot's lines and header written, and the odd slot's of a pair (R330). -/
def Slot.fill (lines : List (Option Line)) (hdr : BitVec 128) (pen : Pen) : Slot :=
  ⟨hdr, lines.zipIdx.foldl (fun m (x, i) => match x with
    | some x => m.putLine i pen x
    | none => m) .empty⟩

def landFill (s : State) (k : Nat) (f : SlotFill) : State :=
  let s := s.modCore (coreOf k) (fun c =>
    let c := { c with slots := Table.put c.slots f.slot (Slot.fill (f.lines.take 256) f.hdr0 f.pen) }
    if f.two then { c with slots := Table.put c.slots (f.slot + 1) (Slot.fill (f.lines.drop 256) f.hdr1 f.pen) } else c)
  s.modCtx k (fun c => c.postM f.pen f.post)

/-- An element drained by MDRN in format DFMT (R331). -/
def drainElem (dfmt rc : Nat) (x : Word) : Word :=
  match dfmt with
  | 1 => BitVec.ofNat 32 (Fmt.bf16.round (.ofCode rc) 0 false (Fmt.f32.decode x.toNat))
  | 2 => BitVec.ofNat 32 (Fmt.f16.round (.ofCode rc) 0 false (Fmt.f32.decode x.toNat))
  | _ => x

/-- Row i of an accumulator as a reader sees it. -/
def Ctx.accRow (c : Ctx) (p : Pen) (acc : Bool) (i : Nat) : Lanes :=
  (Table.get (c.acc.getD acc.toNat []) i .void).read p

def Ctx.setAccRow (c : Ctx) (p : Pen) (acc : Bool) (i : Nat) (l : Lanes) : Ctx :=
  { c with acc := c.acc.setIfInBounds acc.toNat (Table.put (c.acc.getD acc.toNat []) i ⟨p, l⟩) }

/-- A row of MDRN, by its number, lands in its dq queue. -/
def Ctx.landRow (c : Ctx) (p : Pen) (r : ArrayRun) (j : Nat) : Ctx :=
  let l := (c.accRow p r.w.acc (r.w.row0.toNat + j)).map (drainElem r.w.dfmt.toNat r.w.rc.toNat)
  let q := r.w.dq.toNat
  { c with dq := c.dq.setIfInBounds q (c.dq.getD q [] ++ [⟨p, l⟩]) }

/-- The wd register an array word reads. -/
def ArrayRun.wdn (r : ArrayRun) : Option Nat := if r.op == .mmaw then some (r.w.wsrc.toNat % 4) else none

/-- An array word stopped at its boundary (R322, R323): MZERO completes, and MDRN's reserved rows land. -/
def Ctx.stopArray (c : Ctx) (p : Pen) : Ctx :=
  match c.run with
  | none => c
  | some r =>
    if r.op == .mzero then c.zeroAcc p r
    else
      let c := r.rows.foldl (fun c e => c.landRow p r e.1) c
      if r.op == .mdrn && c.mrs == r.w.nrow.toNat + 1 then c.finishRun p r
      else { c with run := none, pcM := r.addr, idleM := false, mnx := some (some (if c.idleM then c.pcM ||| 1 else c.pcM)),
                    mwd := r.wdn, mslot := r.op == .mma, mqw := if r.viaQ then c.mqw else none }

/-- The drain of R30: pushes and slot writes in flight land in order, and the array word stops, of which the staging ring
keeps nothing (R102). -/
def drain (s : State) (k : Nat) : State :=
  let c := s.ctx k
  let s := s.setCtx k { c with flights := [], fills := [], soft := [] }
  let s := c.flights.foldl (fun s f => landFlight s k f) s
  let s := c.fills.foldl (fun s f => landFill s k f) s
  let s := if c.run.isNone || isSlot k then s else s.modCore (coreOf k) (fun x => { x with staging := [] })
  s.modCtx k (fun c => c.stopArray (s.ctxPen c))

/-! ### Waiting (R32, R126, R348) -/

/-- The running bank of a core stops running. -/
def stopRunning (s : State) (k : Nat) : State :=
  if isSlot k then s
  else s.modCore (coreOf k) (fun c => if c.running == some (bankOf k) then { c with running := none } else c)

/-- The running context of a core, where a bank holds it, is drained and READY (R32). -/
def putReady (s : State) (ck : Nat) (bank : Bool) : State :=
  if (s.core ck).running == some bank then
    (drain s (bankKey ck bank)).modCtx (bankKey ck bank)
      (fun c => if c.status == .running then { c with status := .ready } else c)
  else s

/-- A context becomes the running one, 48 cycles before its streams issue (R32); its bank's L1 lines are invalidated
(R107). -/
def putRunning (s : State) (ck : Nat) (bank : Bool) : State :=
  let t := s.cycle + 48
  let s := dropL1 (s.modCtx (bankKey ck bank) (fun c =>
    { c with status := .running, nextS := t, nextA := t, nextV := t, nextM := t })) (bankKey ck bank)
  s.modCore ck (fun c => { c with running := some bank, switched := s.cycle })

/-- A bank becomes the running one of its core (R32). A focus on the core follows. -/
def switchTo (s : State) (ck : Nat) (bank : Bool) : State :=
  let s := putRunning (putReady s ck (!bank)) ck bank
  if !isSlot s.focus.key && coreOf s.focus.key == ck then { s with focus := ⟨bankKey ck bank, .s⟩ } else s

/-- A context that has entered WAITING, ended or left its bank stops running, and the core switches at once to its other
bank where that is READY (R32). -/
def leaveCore (s : State) (k : Nat) : State :=
  if isSlot k || (s.core (coreOf k)).running != some (bankOf k) then s
  else
    let s := stopRunning s k
    let other := !bankOf k
    if (s.ctx (bankKey (coreOf k) other)).status == .ready then switchTo s (coreOf k) other else s

/-- A context enters WAITING, after its drain. -/
def enterWaiting (s : State) (k : Nat) (b : Blocked) : State :=
  let s := drain s k
  leaveCore (s.modCtx k (fun c => { c with status := .waiting, blocked := b })) k

/-- A context whose waits are over becomes READY where it stands (R32, R348). -/
def wake (s : State) (k : Nat) : State :=
  s.modCtx k (fun c =>
    if c.status == .waiting && c.blocked == .nothing && !c.waits.any (fun w => w.kind != .engine && w.state == .waiting)
    then { c with status := .ready } else c)

def AccessKind.code : AccessKind → Nat
  | .read => 0 | .write => 1 | .fetch => 2 | .weight => 3 | .engine => 4

/-- The KIND 1 record of a fault that awaits an answer, and the wait (R344, R348). -/
def waitFor (s : State) (k : Nat) (pos : Nat × Nat) (f : SoftFault) : State :=
  let c := s.ctx k
  let r : FaultRec := ⟨f.va, f.pc.toNat, f.kind.code, pos.1, pos.2, s.ctxPen c, c.vcn.toNat, f.code, f.stream.code, 1, s.taskOf c⟩
  let ((seq, _), s) := report s c.pkg c.vi.toNat r true
  s.modCtx k (fun c => { c with waits := c.waits ++ [⟨f.stream, f.kind, f.code, BitVec.ofNat 64 f.va, f.pc, seq, .waiting, 0, c.die⟩] })

/-- Faults of S and M that await an answer, lowest stream first: the drain, their records, and WAITING (R126, R348). -/
def pageWaits (s : State) (k : Nat) (l : List SoftFault) : State :=
  let before := s.ctx k
  let s := drain s k
  let pos := stopPositions before (s.ctx k)
  let s := (l.filter (fun f => f.stream == .s) ++ l.filter (fun f => f.stream != .s)).foldl (fun s f => waitFor s k pos f) s
  leaveCore (s.modCtx k (fun c => { c with status := .waiting })) k

/-! ### Ends (R347, R38) -/

/-- The bank or slot of an ended context becomes EMPTY or free. -/
def emptyBank (s : State) (k : Nat) : State :=
  let id := (s.ctx k).id
  let s := freeHeader s k
  let s := { s with ctxs := Table.drop s.ctxs k }
  let s := { s with pkgs := s.pkgs.map (fun (p, x) => (p, { x with doorWaiters := x.doorWaiters.filter (fun e => e.2 != id) })) }
  leaveCore s k

/-- A delivery leaves its core's hold queue, and its tile's count. -/
def unhold (s : State) (d : Delivery) : State :=
  let ck := coreKey d.die d.core
  let s := s.modCore ck (fun c => { c with holdq := c.holdq.filter (fun n => n != d.n) })
  if d.state == .held then s.setTile ck d.tile { s.tile ck d.tile with held := (s.tile ck d.tile).held - 1 } else s

/-- The landing of a delivery ends before its last line: LAND becomes 0, and FULL 1 at a shutter alone, which sets EV in the
context that holds the tile (R336); otherwise the oldest held delivery is admitted (R275, R354). -/
def endLanding (full : Bool) (s : State) (d : Delivery) : State :=
  match landPlace s d with
  | none => s
  | some p =>
    let x := s.placeTile p d.tile
    let s := s.setPlaceTile p d.tile { x with land := false, full := x.full || full }
    match p with
    | .core ck => if full then wakeTile s ck d.tile else admitHeld s ck d.tile
    | .slot k => if full then s.modCtx k Ctx.setEv else s

/-- A delivery of a command that stops at its engine (R275, R347, R354): a held one goes, counted in DROPTILE at a
shutter, and an admitted one ends. -/
def cutDelivery (shutter : Bool) (s : State) (d : Delivery) : State :=
  let s := { s with deliveries := s.deliveries.filter (fun x => x.n != d.n) }
  match d.state with
  | .held => let s := unhold s d; if shutter then s.count d.die Counters.incDropTile else s
  | .parked => let s := unhold s d; if shutter then s.count d.die Counters.incDropTile else s
  | .admitted => endLanding shutter s d
  | _ => s

/-- Deliveries of a tenancy that another package has sent, at its shutter in the package of their tiles: one held is
dropped and its source told, one admitted ends FULL (R354). -/
def cutInbound (s : State) (p : Nat) (pen : Pen) : State :=
  (s.deliveries.filter (fun d => pkgOf d.die == p && d.pen == pen)).foldl (fun s d =>
    match d.state with
    | .held => dropDelivery (unhold s d) d
    | .parked => dropDelivery (unhold s d) d
    | _ => cutDelivery true s d) s

/-- What a router keeps for requests that a test selects is forgotten: the requests, the SIGWAITs that wait for them at their
signals, and the commands that DETOUR has counted (R376). -/
def Router.forget (r : Router) (sel : Nat → BitVec 16 → Bool) : Router :=
  { r with requests := r.requests.filter (fun q => q.msg.op == .push || !sel q.ctx q.cmd),
           sigwaits := r.sigwaits.filter (fun w => !sel w.ctx w.cmd),
           detoured := r.detoured.filter (fun e => !sel e.1 e.2) }

/-- The same at every die, with the reductions. A record that VAPPLY has pushed stays on its way (R316). -/
def forgetRequests (s : State) (sel : Nat → BitVec 16 → Bool) : State :=
  { s with dies := Table.mapIf s.dies (fun _ (d : Die) => d.router.requests.any (fun r => sel r.ctx r.cmd) ||
               d.router.sigwaits.any (fun w => sel w.ctx w.cmd) || d.router.detoured.any (fun e => sel e.1 e.2))
             (fun (d : Die) => { d with router := d.router.forget sel }),
           reductions := s.reductions.filter (fun r => !sel r.ctx r.cmd) }

/-- The engine commands of a context dropped: untaken ones vanish, taken ones stop before their next line. Deliveries to
another package, whose tenancy no shutter of this one ends, end as R275 has it (DESIGN CHOICE, log entry 53). -/
def cutCommands (s : State) (k : Nat) (shutter : Bool) : State :=
  let c := s.ctx k
  let s := (s.deliveries.filter (fun d => d.ctx == c.id)).foldl
    (fun s d => cutDelivery (shutter && pkgOf d.die == c.pkg) s d) s
  let s := forgetRequests s (fun id _ => id == c.id)
  s.modCtx k (fun c => { c with cmds := [], waits := c.waits.filter (fun w => w.kind != .engine) })

/-- References of k0 to k7 released (R250). -/
def releaseK (s : State) (k : Nat) : State :=
  let c := s.ctx k
  let pen := s.ctxPen c
  let s := (List.range 8).foldl (fun s n => releaseRef s c.die c.vi.toNat (c.readK pen n)) s
  s.modCtx k (fun c => { c with k := Vector.replicate 8 ⟨pen, 0⟩ })

/-- The hand-over of every entry of the maker set (R181). -/
def handOverAll (s : State) (k : Nat) : State :=
  let c := s.ctx k
  let s := c.maker.foldl (fun s m => handOverMaker s c.pkg c.vi.toNat (s.ctxPen c) m) s
  s.modCtx k (fun c => { c with maker := [] })

/-- A saved context's tile freed: the deliveries held for it are dropped, and the incarnation on the core that last held it
rises, unless that tile has been handed out again there (R97, R100, R266). -/
def freeSaved (s : State) (k : Nat) (t : Nat) : State :=
  let c := s.ctx k
  let pen := s.ctxPen c
  let x := s.tile c.home t
  let s := if x.alloc then s else s.modCore c.home (fun y => y.setTile t { x with inc := x.inc + 1 })
  let s := s.modCtx k (fun c => { c with savedTiles := Table.drop c.savedTiles t })
  dropWaiting s c.home (fun d => d.tile == t && d.state == .parked && d.vi == c.vi && d.vcn == c.vcn && d.pen == pen)

/-- The tiles of a context freed, where it stands. A delivery still landing in one keeps its LAND until its last line (R97,
R347 step 7). -/
def freeTiles (s : State) (k : Nat) : State :=
  if isSlot k then ((s.ctx k).savedTiles.map Prod.fst).foldl (fun s t => freeSaved s k t) s
  else
    let ck := coreOf k
    ((s.core ck).tilesOf (bankOf k) (s.ctxPen (s.ctx k))).foldl (fun s t => freeTile s ck t) s

/-- A context that has drained ends without TEND, with the record given (R347); one that REMOTE ends has its record at
VI 0's pager door too, and its commands fare as at a shutter (R286, R380). -/
def endDrained (s : State) (k : Nat) (r : FaultRec) (remote : Bool) : State :=
  let c := s.ctx k
  let pen := s.ctxPen c
  let s := (report s c.pkg c.vi.toNat r remote).2
  let s := cutCommands s k remote
  let s := s.modCtx k (fun c => { c with sbuf := [], spill := [], fq := [] })
  let s := leaveAll s k
  let s := handOverAll s k
  let s := releaseK s k
  let s := freeTiles s k
  let s := endJoin s (s.ctx k) pen
  emptyBank s k

/-- A context ends without TEND; its record names the positions of an array word that its drain, or an earlier trap, has
interrupted (R343). -/
def endContext (s : State) (k : Nat) (r : FaultRec) (remote : Bool) : State :=
  let before := s.ctx k
  let s := drain s k
  let (cpos, spos) := stopPositions before (s.ctx k)
  endDrained s k { r with cpos := cpos, spos := spos } remote

/-- The KIND 5 record of an end (R344): its cause, and the fault that caused it. -/
def endRec (s : State) (k : Nat) (cause code : Nat) (st : Nat) (pc addr : Nat) : FaultRec :=
  let c := s.ctx k
  ⟨addr, pc, cause, 0, 0, s.ctxPen c, c.vcn.toNat, code, st, 5, s.taskOf c⟩

/-! ### Traps (R333, R335, R345) -/

/-- A CSR of a context as its reader sees it. -/
def idleBit (x : Dword) (idle : Bool) : Dword := if idle then x ||| 1 else x

/-- DETAIL of a KIND 0 record (R344). -/
def trapDetail (t : Trap) (c : Ctx) : Nat :=
  if t.code == fTrap then t.imm.toNat
  else match c.mqw with | some w => w.toNat | none => 0

/-- What a trap of a drained context saves: its record, tcause, tinfo and the epc registers. The trap is an acquire (R333,
R345). -/
def saveTrap (s : State) (k : Nat) (t : Trap) (pos : Nat × Nat) : State :=
  let c := s.ctx k
  let pen := s.ctxPen c
  let r : FaultRec := ⟨t.addr.toNat, t.pc.toNat, trapDetail t c, pos.1, pos.2, pen, c.vcn.toNat, t.code, t.stream.code,
    0, s.taskOf c⟩
  let ((seq, at_), s) := report s c.pkg c.vi.toNat r false
  let s := s.modCtx k (fun c =>
    { c with tcause := ⟨pen, BitVec.ofNat 64 (t.stream.code * 256 + t.code)⟩,
             tinfo := ⟨pen, match at_ with | some x => BitVec.ofNat 64 x | none => 0⟩,
             epcS := ⟨pen, c.pcS⟩, epcA := ⟨pen, idleBit c.pcA c.idleA⟩, epcV := ⟨pen, idleBit c.pcV c.idleV⟩,
             epcM := ⟨pen, idleBit c.pcM c.idleM⟩, epcMN := ⟨pen, (c.mnx.bind id).getD 0⟩, lastTrap := r.line seq,
             pend := none, tileWait := none, blocked := .nothing, begun := false })
  acquire s k

/-- Takes a trap: the drain, what it saves, and the handler; a context without a handler, or in handler state, ends (R333,
R345, R347). Where the fault is TRAP's own, the stream has moved past the word. -/
def trapNow (s : State) (k : Nat) (t : Trap) : State :=
  let before := s.ctx k
  let s := drain s k
  let pos := stopPositions before (s.ctx k)
  let unhandled := fun (s : State) =>
    endDrained s k { endRec s k 0 t.code t.stream.code t.pc.toNat t.addr.toNat with cpos := pos.1, spos := pos.2 } false
  if (s.ctx k).handler then unhandled s
  else
    let s := saveTrap s k t pos
    let tvec := (s.ctx k).tvec.read (s.ctxPen (s.ctx k))
    if tvec == 0 then unhandled s
    else s.modCtx k (fun c => { c with handler := true, pcS := tvec })

/-- A fault of a stream of the issuing context, at its word: precise, with nothing else changed. While a commit of S that has
begun, or its operation at a home controller, is not complete, no other stream's fault stops it: the word waits before issue
and meets its fault again (R218, R351). -/
def State.fault (s : State) (st : Stream) (code : Nat) (addr : Nat) : State :=
  if st != .s && s.cur.begun then stall s
  else trapNow s s.focus.key ⟨code, st, s.cur.pc st, BitVec.ofNat 64 addr, 0⟩

/-- What an access asks of its leaf. -/
def AccessKind.need : AccessKind → Need
  | .write => Need.write
  | .fetch => Need.fetch
  | _ => Need.read

/-- A failed access of S, or a failed fetch, at its word: a stall while its die does not answer; where it awaits an answer,
WAITING once every stream has issued in the cycle; else a trap (R126, R346, R423). -/
def State.failAccess (s : State) (st : Stream) (kind : AccessKind) (f : Fail) (va : Nat) : State :=
  let k := s.focus.key
  if f.code == fRemote then s.noAnswer k (targetOf s (s.cur.accessor s) kind.need va) va
  else
    let s := useS s k kind.need va
    if f.awaits then s.modCur (fun c => { c with soft := c.soft ++ [⟨st, kind, f.code, va, c.pc st, true⟩] })
    else s.fault st f.code va

/-- ILLEGAL at the word of a stream. -/
def State.illegal (s : State) (st : Stream) : State := s.fault st fIllegal 0

/-- ERET of a context in handler state (R335). An epcm that no longer names the interrupted word discards its restart
state. -/
def Ctx.eret (c : Ctx) (p : Pen) : Ctx :=
  let e := fun (t : Tag 64) => t.read p
  let m := e c.epcM
  let c := if m == c.pcM then { c with mnx := c.mnx.map (fun _ => if e c.epcMN == 0 then none else some (e c.epcMN)) }
    else { c with mnx := none, mwd := none, mslot := false, mrs := 0, mqw := none }
  let st := fun (old x : Dword) => if x.getLsbD 0 then old else x
  { c with handler := false, pcS := e c.epcS, pcA := st c.pcA (e c.epcA), idleA := (e c.epcA).getLsbD 0,
           pcV := st c.pcV (e c.epcV), idleV := (e c.epcV).getLsbD 0, pcM := st c.pcM m, idleM := m.getLsbD 0 }

end Sys2Proof.Machine
end

