-- ==== Sys2Proof/Machine/ScalarAlu.lean ====
section
/-! DEFINITION. The integer arithmetic of S (R219 to R222) and the functions it shares with A (R257). -/

namespace Sys2Proof.Machine

/-! ### Functions of two operands (R219, R220) -/

def aluMulh (x y : Dword) : Dword := BitVec.ofInt 64 (x.toInt * y.toInt / 18446744073709551616)
def aluMulhu (x y : Dword) : Dword := BitVec.ofNat 64 (x.toNat * y.toNat / 18446744073709551616)
/-- Division truncates toward zero; by zero it gives all ones. −2^63 by −1 gives −2^63, which is the quotient modulo
2^64. -/
def aluDiv (x y : Dword) : Dword := if y == 0 then BitVec.allOnes 64 else BitVec.ofInt 64 (Int.tdiv x.toInt y.toInt)
def aluDivu (x y : Dword) : Dword := if y == 0 then BitVec.allOnes 64 else BitVec.ofNat 64 (x.toNat / y.toNat)
/-- The remainder's sign follows x; by zero it gives x. -/
def aluRem (x y : Dword) : Dword := if y == 0 then x else BitVec.ofInt 64 (Int.tmod x.toInt y.toInt)
def aluRemu (x y : Dword) : Dword := if y == 0 then x else BitVec.ofNat 64 (x.toNat % y.toNat)
def bit64 (b : Bool) : Dword := if b then 1 else 0
def aluSll (x y : Dword) : Dword := x <<< (y.toNat % 64)
def aluSrl (x y : Dword) : Dword := x >>> (y.toNat % 64)
def aluSra (x y : Dword) : Dword := x.sshiftRight (y.toNat % 64)
def aluMin (x y : Dword) : Dword := if x.toInt ≤ y.toInt then x else y
def aluMax (x y : Dword) : Dword := if x.toInt ≤ y.toInt then y else x
def aluMinu (x y : Dword) : Dword := if x.toNat ≤ y.toNat then x else y
def aluMaxu (x y : Dword) : Dword := if x.toNat ≤ y.toNat then y else x
/-- Leading zeros of the low n bits of x. -/
def leadingZeros (x : Dword) : Nat → Nat
  | 0 => 0
  | n + 1 => if x.getLsbD n then 0 else 1 + leadingZeros x n
def bitCount (x : Dword) : Nat → Nat
  | 0 => 0
  | n + 1 => (if x.getLsbD n then 1 else 0) + bitCount x n

/-! ### The shape of an arithmetic word -/

/-- A result written to s[d], and S moves on (R217). -/
def setS (d : Reg) (v : Dword) (s : State) : State := (s.wS d v).nextS
/-- A two-operand word of S. -/
def aluS (f : Dword → Dword → Dword) (d a b : Reg) (s : State) : State := setS d (f (s.rS a) (s.rS b)) s
/-- A word of S with a sign-extended immediate (R221). -/
def aluIS (f : Dword → Dword → Dword) (d a : Reg) (imm : BitVec 16) (s : State) : State :=
  setS d (f (s.rS a) (imm.signExtend 64)) s

/-! ### The R forms (R219, R220) -/

def execAdd (d a b : Reg) (s : State) : Result := .next (aluS (· + ·) d a b s)
def execSub (d a b : Reg) (s : State) : Result := .next (aluS (· - ·) d a b s)
def execAnd (d a b : Reg) (s : State) : Result := .next (aluS (· &&& ·) d a b s)
def execOr (d a b : Reg) (s : State) : Result := .next (aluS (· ||| ·) d a b s)
def execXor (d a b : Reg) (s : State) : Result := .next (aluS (· ^^^ ·) d a b s)
def execSll (d a b : Reg) (s : State) : Result := .next (aluS aluSll d a b s)
def execSrl (d a b : Reg) (s : State) : Result := .next (aluS aluSrl d a b s)
def execSra (d a b : Reg) (s : State) : Result := .next (aluS aluSra d a b s)
def execMul (d a b : Reg) (s : State) : Result := .next (aluS (· * ·) d a b s)
def execMulh (d a b : Reg) (s : State) : Result := .next (aluS aluMulh d a b s)
def execMulhu (d a b : Reg) (s : State) : Result := .next (aluS aluMulhu d a b s)
def execDiv (d a b : Reg) (s : State) : Result := .next (aluS aluDiv d a b s)
def execDivu (d a b : Reg) (s : State) : Result := .next (aluS aluDivu d a b s)
def execRem (d a b : Reg) (s : State) : Result := .next (aluS aluRem d a b s)
def execRemu (d a b : Reg) (s : State) : Result := .next (aluS aluRemu d a b s)
def execSlt (d a b : Reg) (s : State) : Result := .next (aluS (fun x y => bit64 (x.slt y)) d a b s)
def execSltu (d a b : Reg) (s : State) : Result := .next (aluS (fun x y => bit64 (x.ult y)) d a b s)
def execMin (d a b : Reg) (s : State) : Result := .next (aluS aluMin d a b s)
def execMax (d a b : Reg) (s : State) : Result := .next (aluS aluMax d a b s)
def execMinu (d a b : Reg) (s : State) : Result := .next (aluS aluMinu d a b s)
def execMaxu (d a b : Reg) (s : State) : Result := .next (aluS aluMaxu d a b s)
def execClz (d a : Reg) (s : State) : Result := .next (setS d (BitVec.ofNat 64 (leadingZeros (s.rS a) 64)) s)
def execPopc (d a : Reg) (s : State) : Result := .next (setS d (BitVec.ofNat 64 (bitCount (s.rS a) 64)) s)

/-! ### The I forms and constants (R221, R222) -/

def execAddi (d a : Reg) (imm : BitVec 16) (s : State) : Result := .next (aluIS (· + ·) d a imm s)
def execAndi (d a : Reg) (imm : BitVec 16) (s : State) : Result := .next (aluIS (· &&& ·) d a imm s)
def execOri (d a : Reg) (imm : BitVec 16) (s : State) : Result := .next (aluIS (· ||| ·) d a imm s)
def execXori (d a : Reg) (imm : BitVec 16) (s : State) : Result := .next (aluIS (· ^^^ ·) d a imm s)
def execSlli (d a : Reg) (imm : BitVec 16) (s : State) : Result := .next (aluIS aluSll d a imm s)
def execSrli (d a : Reg) (imm : BitVec 16) (s : State) : Result := .next (aluIS aluSrl d a imm s)
def execSrai (d a : Reg) (imm : BitVec 16) (s : State) : Result := .next (aluIS aluSra d a imm s)
def execSlti (d a : Reg) (imm : BitVec 16) (s : State) : Result := .next (aluIS (fun x y => bit64 (x.slt y)) d a imm s)
def execSltiu (d a : Reg) (imm : BitVec 16) (s : State) : Result :=
  .next (aluIS (fun x y => bit64 (x.ult y)) d a imm s)
def execLui (d : Reg) (imm : BitVec 16) (s : State) : Result := .next (setS d (imm.signExtend 64 <<< 16) s)
/-- LI is 8 bytes long. -/
def execLi (d : Reg) (imm : Word) (s : State) : Result := .next ((s.wS d (imm.signExtend 64)).advance .s 8)

end Sys2Proof.Machine
end

