-- ==== Sys2Proof/Machine/AccessAlu.lean ====
section
/-! DEFINITION. The address arithmetic of A and its control flow (R257, R258), TOKS and TOKW and BQSND of A, NOP and
BRK of A. -/

namespace Sys2Proof.Machine

/-- A result written to a[d], and A moves on. -/
def setA (d : Reg) (v : Dword) (s : State) : State := (s.wA d v).nextA
def aluA (f : Dword → Dword → Dword) (d a b : Reg) (s : State) : State := setA d (f (s.rA a) (s.rA b)) s
def aluIA (f : Dword → Dword → Dword) (d a : Reg) (imm : BitVec 16) (s : State) : State :=
  setA d (f (s.rA a) (imm.signExtend 64)) s

def execAddA (d a b : Reg) (s : State) : Result := .next (aluA (· + ·) d a b s)
def execSubA (d a b : Reg) (s : State) : Result := .next (aluA (· - ·) d a b s)
def execAndA (d a b : Reg) (s : State) : Result := .next (aluA (· &&& ·) d a b s)
def execOrA (d a b : Reg) (s : State) : Result := .next (aluA (· ||| ·) d a b s)
def execXorA (d a b : Reg) (s : State) : Result := .next (aluA (· ^^^ ·) d a b s)
def execSllA (d a b : Reg) (s : State) : Result := .next (aluA aluSll d a b s)
def execSrlA (d a b : Reg) (s : State) : Result := .next (aluA aluSrl d a b s)
def execSraA (d a b : Reg) (s : State) : Result := .next (aluA aluSra d a b s)
def execMulA (d a b : Reg) (s : State) : Result := .next (aluA (· * ·) d a b s)
def execMinA (d a b : Reg) (s : State) : Result := .next (aluA aluMin d a b s)
def execMaxA (d a b : Reg) (s : State) : Result := .next (aluA aluMax d a b s)
def execMinuA (d a b : Reg) (s : State) : Result := .next (aluA aluMinu d a b s)
def execMaxuA (d a b : Reg) (s : State) : Result := .next (aluA aluMaxu d a b s)
def execAddiA (d a : Reg) (imm : BitVec 16) (s : State) : Result := .next (aluIA (· + ·) d a imm s)
def execAndiA (d a : Reg) (imm : BitVec 16) (s : State) : Result := .next (aluIA (· &&& ·) d a imm s)
def execOriA (d a : Reg) (imm : BitVec 16) (s : State) : Result := .next (aluIA (· ||| ·) d a imm s)
def execXoriA (d a : Reg) (imm : BitVec 16) (s : State) : Result := .next (aluIA (· ^^^ ·) d a imm s)
def execSlliA (d a : Reg) (imm : BitVec 16) (s : State) : Result := .next (aluIA aluSll d a imm s)
def execSrliA (d a : Reg) (imm : BitVec 16) (s : State) : Result := .next (aluIA aluSrl d a imm s)
def execSraiA (d a : Reg) (imm : BitVec 16) (s : State) : Result := .next (aluIA aluSra d a imm s)
def execLuiA (d : Reg) (imm : BitVec 16) (s : State) : Result := .next (setA d (imm.signExtend 64 <<< 16) s)
/-- LI is 8 bytes long. -/
def execLiA (d : Reg) (imm : Word) (s : State) : Result := .next ((s.wA d (imm.signExtend 64)).advance .a 8)

/-! ### Control (R258) -/

def branchA (f : Dword → Dword → Bool) (a b : Reg) (disp : BitVec 16) (s : State) : State :=
  if f (s.rA a) (s.rA b) then s.jump .a (dispTo s.cur.pcA disp 4) else s.nextA

def execAbrEq (a b : Reg) (disp : BitVec 16) (s : State) : Result := .next (branchA (fun x y => x == y) a b disp s)
def execAbrNe (a b : Reg) (disp : BitVec 16) (s : State) : Result := .next (branchA (fun x y => x != y) a b disp s)
def execAbrLt (a b : Reg) (disp : BitVec 16) (s : State) : Result := .next (branchA (fun x y => x.slt y) a b disp s)
def execAbrGe (a b : Reg) (disp : BitVec 16) (s : State) : Result := .next (branchA (fun x y => !x.slt y) a b disp s)
def execAbrLtu (a b : Reg) (disp : BitVec 16) (s : State) : Result := .next (branchA (fun x y => x.ult y) a b disp s)
def execAbrGeu (a b : Reg) (disp : BitVec 16) (s : State) : Result := .next (branchA (fun x y => !x.ult y) a b disp s)

/-- AJMP; displacement 0 is A's end instruction (R228). -/
def execAjmp (disp : BitVec 26) (s : State) : Result :=
  .next (if disp == 0 then s.modCur (fun c => { c with idleA := true }) else s.jump .a (dispTo s.cur.pcA disp 4))

def loopA (a : Reg) (stg : BitVec 3) (len : BitVec 16) (s : State) : State :=
  if s.cur.loopA.act || 4294967296 ≤ (s.rA a).toNat then s.illegal .a
  else s.modCur (fun c => c.startLoop s.pen .a (BitVec.ofNat 32 (s.rA a).toNat) (stg.toNat + 1) len.toNat)

def execAloop (a : Reg) (stg : BitVec 3) (len : BitVec 16) (s : State) : Result := .next (loopA a stg len s)

def execAbrBq (disp : BitVec 16) (s : State) : Result :=
  .next (
    match s.cur.bq 0 with
    | [] => stall s
    | x :: r =>
      let s := s.modCur (fun c => c.setBq 0 r)
      if x.read s.pen == 1 then s.jump .a (dispTo s.cur.pcA disp 4) else s.nextA)

def execToksA (d : Reg) (s : State) : Result :=
  let i := tokIdx 1 d.toNat
  .next (if s.cur.postFull s.pen i then s.fault .a fToken 0 else (s.modCur (fun c => c.postTok s.pen i)).nextA)

def execTokwA (d : Reg) (s : State) : Result :=
  let i := tokIdx d.toNat 1
  .next (if s.cur.tokens s.pen i == 0 then stall s else (s.modCur (fun c => c.takeTok s.pen i)).nextA)

def execBqsndA (a : Reg) (s : State) : Result :=
  .next (
    if 16 ≤ (s.cur.bq 3).length then stall s
    else (s.modCur (fun c => c.setBq 3 (c.bq 3 ++ [⟨s.pen, BitVec.ofNat 1 (s.rA a).toNat⟩]))).nextA)

def execNopA (s : State) : Result := .next s.nextA
def execBrkA (s : State) : Result := .next (s.fault .a fBrk 0)

end Sys2Proof.Machine
end

