-- ==== Sys2Proof/Machine/AccessMem.lean ====
section
/-! DEFINITION. Scratchpad loads and stores of A (R259 to R263), tiles and WDSET (R264 to R268). -/

namespace Sys2Proof.Machine

/-! ### Lane addresses and their checks (R259, R260) -/

/-- The forms of R259. -/
inductive SpForm where
  | contiguous | strided | indexed
  deriving DecidableEq, Repr

/-- The tile that holds a scratchpad offset is allocated to the issuing context. -/
def ownsTile (s : State) (t : Nat) : Bool := (s.tile s.curCore t).heldBy (bankOf s.focus.key) s.pen
def ownsOffset (s : State) (x : Dword) : Bool := x.toNat < 2097152 && ownsTile s (x.toNat / 16384)

/-- 512 bytes at an aligned offset lie in one tile. -/
def oneTile (x : Dword) : Bool := x.toNat % 16384 ≤ 15872

/-- A word of the scratchpad as the issuing context reads it. -/
def spWord (s : State) (x : Dword) : Word :=
  let m := (s.core s.curCore).spad
  if m.pen (x.toNat / 64) == s.pen then
    BitVec.ofNat 32 (leNat ((List.range 4).map (fun j => m.byte (x.toNat + j))))
  else 0

/-- The address of each lane, none where it is excluded. -/
def laneAddrs (s : State) (f : SpForm) (base off : Dword) : List (Option Dword) :=
  (List.range 128).map (fun i =>
    match f with
    | .contiguous => some (base + BitVec.ofNat 64 (4 * i))
    | .strided => some (base + (BitVec.ofNat 32 off.toNat).signExtend 64 * BitVec.ofNat 64 i)
    | .indexed =>
      let x := spWord s (off + BitVec.ofNat 64 (4 * i))
      if x.getLsbD 31 then none else some (base + BitVec.ofNat 64 x.toNat))

/-- The checks of R260, in order: the code and address of the first that fails. -/
def spCheck (s : State) (f : SpForm) (base off : Dword) (consume : Bool) : Option (Nat × Nat) :=
  let one := fun (x : Dword) (own : Bool) =>
    if x.toNat % 64 != 0 then some (fAlign, x.toNat)
    else if !oneTile x || (own && !ownsOffset s x) then some (fPerm, x.toNat) else none
  let first := match f with
    | .contiguous => one base false
    | .strided => none
    | .indexed => one off true
  match first with
  | some e => some e
  | none =>
    match (laneAddrs s f base off).findSome? (fun x => x.bind (fun x =>
        if x.toNat % 4 != 0 then some (fAlign, x.toNat) else if !ownsOffset s x then some (fPerm, x.toNat) else none)) with
    | some e => some e
    | none => if consume && !ownsOffset s base then some (fPerm, base.toNat) else none

/-- The post-increment of R259. -/
def postInc (f : SpForm) (a b : Reg) (post : Bool) (s : State) : State :=
  if !post then s
  else match f with
    | .contiguous => s.wA a (s.rA a + 512)
    | .strided => s.wA a (s.rA a + (BitVec.ofNat 32 ((s.rA b).toNat / 4294967296)).signExtend 64)
    | .indexed => s.wA b (s.rA b + 512)

/-- The accesses of an A word to the banks of its lanes' tiles, each bank once (R94). -/
def touchBanks (s : State) (addrs : List (Option Dword)) : State :=
  let banks := addrs.filterMap (fun x => x.map (fun x => x.toNat / 16384 % 16))
  ((List.range 16).filter (fun b => banks.contains b)).foldl (fun s b => bankAccess s s.curCore b reqA s.pen s.cur.vcn) s

/-- An entry pushed into a load queue, which the next cycle may pop (R261). -/
def Ctx.pushLq (c : Ctx) (q : Nat) (e : Entry) (cycle : Nat) : Ctx :=
  let old := c.lqNew.getD q (0, 0)
  { c with lq := c.lq.setIfInBounds q (c.lq.getD q [] ++ [e]),
           lqNew := c.lqNew.setIfInBounds q (cycle, if old.1 == cycle then old.2 + 1 else 1) }

/-! ### Loads and stores (R261, R262) -/

def spLoad (f : SpForm) (d a b : Reg) (consume post : Bool) (s : State) : State :=
  let q := d.toNat
  if 8 ≤ (s.cur.lq.getD q []).length then stall s
  else match spCheck s f (s.rA a) (s.rA b) consume with
    | some (code, at_) => s.fault .a code at_
    | none =>
      let addrs := laneAddrs s f (s.rA a) (s.rA b)
      let lanes : Lanes := Vector.ofFn (fun i => match addrs.getD i.val none with | some x => spWord s x | none => 0)
      let base := s.rA a
      let s := (touchBanks s addrs).modCur (fun c => c.pushLq q ⟨s.pen, lanes⟩ s.cycle)
      let s := if consume then clearFull s s.curCore (base.toNat / 16384) else s
      (postInc f a b post s).nextA

/-- Lanes written in ascending order (R262). -/
def storeLanes (p : Pen) (m : Memory) : List (Option Dword × Word) → Memory
  | [] => m
  | (none, _) :: r => storeLanes p m r
  | (some x, v) :: r =>
    storeLanes p (m.write p (x.toNat / 64) (maskRange (x.toNat % 64) 4)
      (setField (0 : Line) (8 * (x.toNat % 64)) 32 v.toNat)) r

def spStore (f : SpForm) (d a b : Reg) (post : Bool) (s : State) : State :=
  let q := d.toNat
  match s.cur.sq.getD q [] with
  | [] => stall s
  | e :: r => match spCheck s f (s.rA a) (s.rA b) false with
    | some (code, at_) => s.fault .a code at_
    | none =>
      let addrs := laneAddrs s f (s.rA a) (s.rA b)
      let pen := s.pen
      let s := (touchBanks s addrs).modCur (fun c => { c with sq := c.sq.setIfInBounds q r })
      let s := s.modCore s.curCore (fun c => { c with spad := storeLanes pen c.spad (addrs.zip (e.read pen).toList) })
      (postInc f a b post s).nextA

def execLdv (d a : Reg) (consume post : Bool) (s : State) : Result := .next (spLoad .contiguous d a 0 consume post s)
def execLdvs (d a b : Reg) (consume post : Bool) (s : State) : Result := .next (spLoad .strided d a b consume post s)
def execLdvg (d a b : Reg) (consume post : Bool) (s : State) : Result := .next (spLoad .indexed d a b consume post s)
def execStv (d a : Reg) (post : Bool) (s : State) : Result := .next (spStore .contiguous d a 0 post s)
def execStvs (d a b : Reg) (post : Bool) (s : State) : Result := .next (spStore .strided d a b post s)
def execStvg (d a b : Reg) (post : Bool) (s : State) : Result := .next (spStore .indexed d a b post s)

/-! ### Tiles (R264 to R267) -/

/-- A tile is free (R97). -/
def tileFree (s : State) (x : Tile) : Bool :=
  !x.land && (!x.alloc || !(s.pkg (pkgOf (dieOfCore s.curCore))).current x.pen)

/-- TALLOC (R265); a stale tile's held deliveries go (R97, R354). -/
def execTalloc (d : Reg) (s : State) : Result :=
  let ck := s.curCore
  .next (match (List.range 128).find? (fun t => tileFree s (s.tile ck t)) with
    | none => setA d (BitVec.allOnes 64) s
    | some t =>
      let s := dropHeld s ck t
      let s := s.setTile ck t { s.tile ck t with alloc := true, pen := s.pen, full := false, held := 0,
                                                 bank := bankOf s.focus.key }
      setA d (BitVec.ofNat 64 t) s)

/-- A tile operand of the issuing context: ILLEGAL above 127, PERM where the tile is not the context's (R264). -/
def withTile (a : Reg) (s : State) (f : Nat → Tile → State) : State :=
  let t := (s.rA a).toNat
  if 128 ≤ t then s.illegal .a
  else if !ownsTile s t then s.fault .a fPerm 0
  else f t (s.tile s.curCore t)

def execTfree (a : Reg) (s : State) : Result :=
  .next (withTile a s (fun t x => if x.land then stall s else (freeTile s s.curCore t).nextA))

/-- A tile wait that is not over: the cycle since which the tag has not changed is kept (R32). -/
def tileStall (t : Nat) (full : Bool) (s : State) : State :=
  let start := s.modCur (fun c => { c with tileWait := some (t, full, s.cycle) })
  match s.cur.tileWait with
  | some (u, f, _) => if u == t && f == full then stall s else start
  | none => start

/-- A tile wait that is over; TWAITF is an acquire of the delivery (R138). -/
def tileReady (s : State) : State := (s.modCur (fun c => { c with tileWait := none })).nextA

def execTwaitf (a : Reg) (s : State) : Result :=
  .next (withTile a s (fun t x => if x.full then tileReady s else tileStall t true s))
def execTwaite (a : Reg) (s : State) : Result :=
  .next (withTile a s (fun t x => if !x.full && !x.land then tileReady s else tileStall t false s))

/-- TSETF waits until LAND is 0; it sets EV where FULL becomes 1 (R267, R336). -/
def execTsetf (a : Reg) (s : State) : Result :=
  .next (withTile a s (fun t x =>
    if x.land then stall s
    else if x.full then s.nextA
    else (wakeTile (s.setTile s.curCore t { x with full := true }) s.curCore t).nextA))

def execTclr (a : Reg) (s : State) : Result :=
  .next (withTile a s (fun t _ => (clearFull s s.curCore t).nextA))

/-- The metadata word of R96 as a reader with pennant p sees it. -/
def Tile.word (x : Tile) (t : Nat) (p : Pen) : Dword :=
  if x.pen == p then
    BitVec.ofNat 64 (t + 256 * x.land.toNat + 512 * x.full.toNat + 1024 * x.alloc.toNat + 2048 * (x.held % 32) +
      65536 * x.inc.toNat + 281474976710656 * x.pen.toNat)
  else BitVec.ofNat 64 t

def execTstat (d a : Reg) (s : State) : Result :=
  let t := (s.rA a).toNat
  .next (if 128 ≤ t then s.illegal .a else setA d ((s.tile s.curCore t).word t s.pen) s)

/-! ### WDSET (R268, R83) -/

/-- An M word that has issued and not completed names wd n; a stopped word has not completed. -/
def Ctx.wdBusy (c : Ctx) (n : Nat) : Bool :=
  c.fills.any (fun f => f.wd == n) || c.mwd == some n ||
  (match c.run with
   | some r => r.wdn == some n
   | none => false)

def execWdset (d a b : Reg) (s : State) : Result :=
  let n := d.toNat
  .next (
    if s.cur.wdBusy n then stall s
    else
      let v : BitVec 128 := (s.rA a) ++ (s.rA b)
      (s.modCur (fun c => { c with wd := c.wd.setIfInBounds n ⟨s.pen, v⟩ })).nextA)

end Sys2Proof.Machine
end

