-- ==== Sys2Proof/Config.lean ====
section
/-! DEFINITION. What an implementation fixes and what the spec leaves open: constants with no body, so that nothing can
be proved of their values (log entries 6, 8, 30 and 37). -/

namespace Sys2Proof.Config

/-- The six functions of R70. -/
inductive Transcendental where
  | exp2 | log2 | rcp | rsq | tanh | sig
  deriving DecidableEq, Repr

/-- The implementation's result of a transcendental on an input pattern, which R70 bounds and does not fix. -/
opaque transcendental : Transcendental → Word → Word

/-- The device's random source (R351): the n-th draw of 512 bits. -/
opaque random : Nat → BitVec 512

/-- The identity key's ML-DSA-65 signature of a message (R394). -/
opaque identitySign : List Byte → List Byte

/-- The device certificate chain (R394). -/
opaque certificateChain : List Byte

/-- SHAKE256 digest and security version of a firmware image, A or B (R394, R410). -/
opaque firmwareDigest : (imgB : Bool) → BitVec 256
opaque firmwareVersion : (imgB : Bool) → Word

/-- BOOTSTAT's ERR where both firmware images fail (R410). -/
opaque bootError : BitVec 8

/-- The virtual address of the claim entry at a physical address, by its VI's map entry (R159): the spec says nowhere at
which virtual address a claim table stands. -/
opaque claimVirtual : (map : BitVec 1024) → (addr : Nat) → BitVec 64

/-- The scheduler's choice to save a WAITING context, by cycle and bank (R33). -/
opaque schedulerSaves : (cycle key : Nat) → Bool

end Sys2Proof.Config
end

