-- ==== Sys2Proof/Machine/ScalarMem.lean ====
section
/-! DEFINITION. Loads and stores of S (R223, R224, R129). -/

namespace Sys2Proof.Machine

/-! ### The view of S (R129, R107) -/

/-- A line of the L1 that a bank's loads hit, as a reader sees it (R107). -/
def Core.l1At (c : Core) (bank : Bool) (pen : Pen) (line : Nat) : Option Line :=
  (c.l1.find? (fun l => l.line == line && l.bank == bank)).map (fun l => if l.pen == pen then l.data else 0)

/-- What the context's loads have seen of a line: in the L1, or in its view once the L1 has lost it. -/
def seenLine (s : State) (k : Nat) (pen : Pen) (line : Nat) : Option Line :=
  match (s.core (coreOf k)).l1At (bankOf k) pen line with
  | some x => some x
  | none => if Table.has (s.ctx k).view line then some ((Table.get (s.ctx k).view line ⟨pen, 0⟩).read pen) else none

/-- A load fills the L1, 64 KiB of lines, of which the oldest fill leaves (R93, R107), and the view (R129). -/
def fillLine (s : State) (k : Nat) (pen : Pen) (line : Nat) (x : Line) : State :=
  let s := s.modCore (coreOf k) (fun c =>
    { c with l1 := (⟨line, s.mem.pen line, bankOf k, x⟩ :: c.l1.filter (fun l => !(l.line == line && l.bank == bankOf k))).take 1024 })
  s.modCtx k (fun c => { c with view := Table.put c.view line ⟨pen, x⟩ })

/-- A checked load of the line that holds va: the context's own stores over its view. A load that hits the L1 asks nothing
of another die. One that misses it makes the target's checks there by a request (R125, R423), and takes what the context has
seen of the line, or else the line, which so enters the view and stays until an acquire or a boundary (log entry 4). -/
def viewLine (s : State) (k : Nat) (va : Nat) : Except Fail (Line × State) :=
  let c := s.ctx k
  let a := c.accessor s
  match checkSource s a Need.read va with
  | .error f => .error f
  | .ok w =>
    let line := w.gpa / 64
    let own := dieOfGpa w.gpa == a.die
    let cached := ((s.core (coreOf k)).l1At (bankOf k) a.pen line).isSome
    if cached && !own then .ok (c.overlay a.pen (va / 64) ((seenLine s k a.pen line).getD 0), xlatS s k va)
    else if !answersNow s k (dieOfGpa w.gpa) va then .error ⟨20, fRemote⟩
    else match checkWhere s a w false with
      | .error f => .error f
      | .ok w => match seenLine s k a.pen line with
        | some x =>
          .ok (c.overlay a.pen (va / 64) x, if cached then xlatS s k va else fillLine (useS s k Need.read va) k a.pen line x)
        | none => match readLine s a w with
          | .error f => .error f
          | .ok x => .ok (c.overlay a.pen (va / 64) x, fillLine (useS s k Need.read va) k a.pen line x)

/-- `n` consecutive lines from va on, as S loads read them, and the address at which one fails. -/
def viewLines (s : State) (k : Nat) (va : Nat) : Nat → Except (Fail × Nat) (List Line × State)
  | 0 => .ok ([], s)
  | n + 1 => match viewLine s k va with
    | .error f => .error (f, va)
    | .ok (x, s) => match viewLines s k (va + 64) n with
      | .error e => .error e
      | .ok (xs, s) => .ok (x :: xs, s)

/-! ### Loads (R223) -/

/-- The effective address of a load or store. -/
def effAddr (s : State) (a : Reg) (imm : BitVec 16) : Dword := s.rS a + imm.signExtend 64

/-- A load of `n` bytes, extended by sign or by zeros. -/
def loadS (n : Nat) (sign : Bool) (d a : Reg) (imm : BitVec 16) (s : State) : State :=
  let ea := (effAddr s a imm).toNat
  if ea % n != 0 then s.fault .s fAlign ea
  else match viewLine s s.focus.key ea with
    | .error f => s.failAccess .s .read f ea
    | .ok (x, s) =>
      let v := field x (8 * (ea % 64)) (8 * n)
      let w : BitVec (8 * n) := BitVec.ofNat (8 * n) v
      setS d (if sign then w.signExtend 64 else BitVec.ofNat 64 v) s

def execLdb (d a : Reg) (imm : BitVec 16) (s : State) : Result := .next (loadS 1 true d a imm s)
def execLdbu (d a : Reg) (imm : BitVec 16) (s : State) : Result := .next (loadS 1 false d a imm s)
def execLdh (d a : Reg) (imm : BitVec 16) (s : State) : Result := .next (loadS 2 true d a imm s)
def execLdhu (d a : Reg) (imm : BitVec 16) (s : State) : Result := .next (loadS 2 false d a imm s)
def execLdw (d a : Reg) (imm : BitVec 16) (s : State) : Result := .next (loadS 4 true d a imm s)
def execLdwu (d a : Reg) (imm : BitVec 16) (s : State) : Result := .next (loadS 4 false d a imm s)
def execLdd (d a : Reg) (imm : BitVec 16) (s : State) : Result := .next (loadS 8 false d a imm s)

/-! ### Stores (R224, R108, R42) -/

/-- A store of the low `n` bytes of s[d]: steps 1 to 7 of R125, then the buffer, or SPILL. -/
def storeS (n : Nat) (d a : Reg) (imm : BitVec 16) (s : State) : State :=
  let ea := (effAddr s a imm).toNat
  if ea % n != 0 then s.fault .s fAlign ea
  else
    let c := s.cur
    let acc := c.accessor s
    match checkSource s acc Need.write ea with
    | .error f => s.failAccess .s .write f ea
    | .ok w =>
      if isDescriptor s w.gpa acc.pen then s.fault .s fPerm ea
      else
        let e : SbEntry := ⟨BitVec.ofNat 64 (ea / 64), setField (0 : Line) (8 * (ea % 64)) (8 * n) (s.rS d).toNat,
          maskRange (ea % 64) n, acc.pen, none, 0⟩
        match c.buffer (s.quota c) e with
        | none => s.fault .s fSpill ea
        | some c' => (withStores (xlatS s s.focus.key ea) s.focus.key c').nextS

def execStb (d a : Reg) (imm : BitVec 16) (s : State) : Result := .next (storeS 1 d a imm s)
def execSth (d a : Reg) (imm : BitVec 16) (s : State) : Result := .next (storeS 2 d a imm s)
def execStw (d a : Reg) (imm : BitVec 16) (s : State) : Result := .next (storeS 4 d a imm s)
def execStd (d a : Reg) (imm : BitVec 16) (s : State) : Result := .next (storeS 8 d a imm s)

end Sys2Proof.Machine
end

