-- ==== Sys2Proof/Machine/ScalarControl.lean ====
section
/-! DEFINITION. Branches and jumps of S, its loop, STRM, its tokens and branch outcomes (R225 to R230), TRAP, BRK, NOP,
ERET and WFE (R334 to R336). -/

namespace Sys2Proof.Machine

/-! ### Branches and jumps (R225, R226) -/

def branchS (f : Dword → Dword → Bool) (a b : Reg) (disp : BitVec 16) (s : State) : State :=
  if f (s.rS a) (s.rS b) then s.jump .s (dispTo s.cur.pcS disp 4) else s.nextS

def execBeq (a b : Reg) (disp : BitVec 16) (s : State) : Result := .next (branchS (fun x y => x == y) a b disp s)
def execBne (a b : Reg) (disp : BitVec 16) (s : State) : Result := .next (branchS (fun x y => x != y) a b disp s)
def execBlt (a b : Reg) (disp : BitVec 16) (s : State) : Result := .next (branchS (fun x y => x.slt y) a b disp s)
def execBge (a b : Reg) (disp : BitVec 16) (s : State) : Result := .next (branchS (fun x y => !x.slt y) a b disp s)
def execBltu (a b : Reg) (disp : BitVec 16) (s : State) : Result := .next (branchS (fun x y => x.ult y) a b disp s)
def execBgeu (a b : Reg) (disp : BitVec 16) (s : State) : Result := .next (branchS (fun x y => !x.ult y) a b disp s)

def execJ (disp : BitVec 26) (s : State) : Result := .next (s.jump .s (dispTo s.cur.pcS disp 4))
def execJal (disp : BitVec 26) (s : State) : Result :=
  let pc := s.cur.pcS
  .next ((s.wS 31 (pc + 4)).jump .s (dispTo pc disp 4))
def execJr (a : Reg) (s : State) : Result := .next (s.jump .s (s.rS a))
def execJalr (d a : Reg) (s : State) : Result :=
  let t := s.rS a
  .next ((s.wS d (s.cur.pcS + 4)).jump .s t)

/-! ### The loop and the other streams (R227, R228) -/

/-- LOOP's checks: no nesting, and a count below 2^32 (R201). -/
def loopS (a : Reg) (stg : BitVec 3) (len : BitVec 16) (s : State) : State :=
  if s.cur.loopS.act || 4294967296 ≤ (s.rS a).toNat then s.illegal .s
  else s.modCur (fun c => c.startLoop s.pen .s (BitVec.ofNat 32 (s.rS a).toNat) (stg.toNat + 1) len.toNat)

def execLoop (a : Reg) (stg : BitVec 3) (len : BitVec 16) (s : State) : Result := .next (loopS a stg len s)

/-- STRM waits until the stream is idle, and starts it; in handler state it raises ILLEGAL (R333). -/
def execStrm (d a : Reg) (s : State) : Result :=
  let st := Stream.ofCode d.toNat
  .next (
    if s.cur.handler then s.illegal .s
    else if !s.cur.idle st then stall s
    else (s.modCur (fun c => (c.setPc st (s.rS a)).setEnded st false)).nextS)

/-! ### Tokens and outcomes (R229, R230) -/

def execToks (d : Reg) (s : State) : Result :=
  let i := tokIdx 0 d.toNat
  .next (if s.cur.postFull s.pen i then s.fault .s fToken 0 else (s.modCur (fun c => c.postTok s.pen i)).nextS)

def execTokw (d : Reg) (s : State) : Result :=
  let i := tokIdx d.toNat 0
  .next (if s.cur.tokens s.pen i == 0 then stall s else (s.modCur (fun c => c.takeTok s.pen i)).nextS)

def execBqsnd (d a : Reg) (s : State) : Result :=
  let i := d.toNat - 1
  .next (
    if 16 ≤ (s.cur.bq i).length then stall s
    else (s.modCur (fun c => c.setBq i (c.bq i ++ [⟨s.pen, BitVec.ofNat 1 (s.rS a).toNat⟩]))).nextS)

def execBqrcv (q : Reg) (disp : BitVec 16) (s : State) : Result :=
  let i := q.toNat + 2
  .next (
    match s.cur.bq i with
    | [] => stall s
    | x :: r =>
      let s := s.modCur (fun c => c.setBq i r)
      if x.read s.pen == 1 then s.jump .s (dispTo s.cur.pcS disp 4) else s.nextS)

/-! ### Traps, return, events (R334 to R336) -/

def execNop (s : State) : Result := .next s.nextS

/-- TRAP: epcs holds the word that follows (R333). -/
def execTrap (imm : BitVec 16) (s : State) : Result :=
  let pc := s.cur.pcS
  .next (trapNow s.nextS s.focus.key ⟨fTrap, .s, pc, 0, imm⟩)

def execBrk (s : State) : Result := .next (s.fault .s fBrk 0)

def execEret (s : State) : Result :=
  .next (if s.cur.handler then s.modCur (fun c => c.eret s.pen) else s.illegal .s)

def execWfe (s : State) : Result :=
  .next (if s.cur.ev then (s.modCur (fun c => { c with ev := false })).nextS else enterWaiting s s.focus.key .event)

end Sys2Proof.Machine
end

