-- ==== Sys2Proof/Machine/Groups.lean ====
section
/-! DEFINITION. PHASE, GBAR, JOIN and LEAVE (R231 to R235), SPAWN, TEND and YIELD (R236 to R238). -/

namespace Sys2Proof.Machine

/-! ### Phases and groups -/

/-- PHASE (R232): the context's own commit, once earlier engine commands have completed (R241; DEDUCED, log entry 55), and a
new view. -/
def execPhase (s : State) : Result :=
  .next (match release s s.focus.key with
    | (true, s) => (acquire s s.focus.key).nextS
    | (false, s) => stall s)

/-- The membership record of a descriptor address (R231). -/
def Ctx.membership (c : Ctx) (addr : Dword) : Option Membership := c.member.find? (fun m => m.addr == addr)

/-- The wait of the word at which S stands, at a descriptor. -/
def Ctx.groupWait (c : Ctx) (addr : Dword) : Option GroupWait := c.atGroup.find? (fun w => w.pc == c.pcS && w.addr == addr)

/-- The context without that wait. -/
def Ctx.leftWait (c : Ctx) (addr : Dword) : Ctx :=
  { c with atGroup := c.atGroup.filter (fun w => !(w.pc == c.pcS && w.addr == addr)) }

/-- A member's arrival at its group's home controller (R44, R233, R235): its word is inside the wait from then on. -/
def arriveHome (k : Nat) (m : Membership) (leave : Bool) (w : Where) (s : State) : Answer × State :=
  let c := s.ctx k
  let a := c.accessor s
  let s := meetTarget s a.die a.pen w false
  match descAt s a w with
  | .error f => (.failed f, s)
  | .ok d =>
    (.of [], arriveAt (s.modCtx k (fun c => { c with atGroup := ⟨c.pcS, m.addr, false⟩ :: c.atGroup })) k m leave true w.gpa d)

/-- GBAR and LEAVE: the arrival, and the stall until its phase completes (R233, R235). -/
def arriveS (leave : Bool) (addr p : Dword) (s : State) : State :=
  let k := s.focus.key
  let waits := if s.cur.lost.any (fun l => l.addr == addr.toNat) then none else s.cur.groupWait addr
  match waits with
  | some w => if w.passed then (s.modCur (fun c => c.leftWait addr)).nextS else stall s
  | none =>
    if addr.toNat % 64 != 0 then s.fault .s fAlign addr.toNat
    else match s.cur.membership addr with
      | none => s.fault .s fPerm addr.toNat
      | some m =>
        if !leave && p.getLsbD 1 && p.getLsbD 0 != m.np then s.fault .s fPerm addr.toNat
        else match checkSource s (s.cur.accessor s) Need.both addr.toNat with
          | .error f => s.failAccess .s .write f addr.toNat
          | .ok w => atHome (xlatS s k addr.toNat) k (dieOfGpa w.gpa) addr.toNat (arriveHome k m leave w)
              (fun x s => if x.code == fNone then stall s else s.failAccess .s .write x.fail addr.toNat)

def execGbar (a b : Reg) (s : State) : Result := .next (arriveS false (s.rS a) (s.rS b) s)
def execLeave (a : Reg) (s : State) : Result := .next (arriveS true (s.rS a) 0 s)

/-- A JOIN at its group's home controller (R43, R234): its status, and the parity P that it found. A JOIN declares its line a
group descriptor (R42). -/
def joinGroup (s : State) (k : Nat) (addr : Dword) (gpa : Nat) (d : Line) (index : Dword) : Dword × State :=
  let c := s.ctx k
  let pen := s.ctxPen c
  let g := s.groupAt gpa pen
  if 4095 < index.toNat then (2, s)
  else if 4 ≤ c.member.length || (c.membership addr).isSome then (1, s)
  else if 4096 ≤ gdMem d || (match g with | some g => g.members.any (fun m => m.index == index.toNat) | none => false) then
    (1, s)
  else
    let m : Member := ⟨c.id, index.toNat, !gdP d, false⟩
    let s := match g with
      | some g => s.setGroup { g with members := g.members ++ [m] }
      | none =>
        let (n, s) := s.takeFresh
        let g : Group := ⟨n, c.vi, gpa, c.die, addr.toNat, pen, gdP d, [m], [], none, []⟩
        { s with groups := s.groups.filter (fun (x : Group) => x.gpa != gpa) ++ [g] }
    let s := { s with descriptors := Table.put s.descriptors (gpa / 64) pen }
    (0, descWrite s c.die c.vi.toNat addr.toNat (setField d 0 16 (gdMem d + 1)))

/-- The same as an answer: the status, and P as it was found. -/
def joinHome (k : Nat) (addr index : Dword) (w : Where) (s : State) : Answer × State :=
  let a := (s.ctx k).accessor s
  let s := meetTarget s a.die a.pen w false
  match descAt s a w with
  | .error f => (.failed f, s)
  | .ok d => let (v, s) := joinGroup s k addr w.gpa d index; (.of [v, BitVec.ofNat 64 (gdP d).toNat], s)

/-- A context that has joined a group gains its record, with NP = 1 − P. -/
def Ctx.joined (c : Ctx) (addr index : Dword) (x : Answer) : Ctx :=
  if x.word 0 == 0 then { c with member := c.member ++ [⟨addr, index.toNat, x.word 1 == 0⟩] } else c

def execJoin (d a b : Reg) (s : State) : Result :=
  let addr := s.rS a
  let index := s.rS b
  let k := s.focus.key
  .next (
    if addr.toNat % 64 != 0 then s.fault .s fAlign addr.toNat
    else match checkSource s (s.cur.accessor s) Need.both addr.toNat with
      | .error f => s.failAccess .s .write f addr.toNat
      | .ok w => atHome (xlatS s k addr.toNat) k (dieOfGpa w.gpa) addr.toNat (joinHome k addr index w)
          (fun x s => if x.code == fNone then setS d (x.word 0) (s.modCur (fun c => c.joined addr index x))
            else s.failAccess .s .write x.fail addr.toNat))

/-! ### Tasks -/

/-- A SPAWN's push at the queue's home controller: 0, or 1 where it finds the queue full or closed (R149, R236, R422). -/
def spawnAt (k q : Nat) (r : Line) (s : State) : Answer × State :=
  let c := s.ctx k
  let pen := s.ctxPen c
  if !queueOpen (s.pkg c.pkg) q pen || (s.pkg c.pkg).heldPushes.any (fun h => h.queue == q) then (.of [1], s)
  else match (if recClo r then takeRefs s c.die c.vi.toNat (recCode r) 1 else some s) with
    | none => (.failed ⟨12, fEnvFull⟩, s)
    | some s' => match queueWrite s' c.pkg c.vi.toNat q pen r with
      | .ok s' => (.of [0], s')
      | .error f => (.failed f, meetQueue s c.pkg c.vi.toNat q pen)

/-- A SPAWN's push, after its release (R236), by a request that names the ring. -/
def spawnPush (d : Reg) (vq : Nat) (r : Line) (s : State) : State :=
  let c := s.cur
  let q := viQfirst (s.ctxVi c) + vq
  let ring := qBase ((s.pkg c.pkg).queue q)
  atHome s s.focus.key (queueHome s c.pkg c.vi.toNat q) ring (spawnAt s.focus.key q r) (fun x s =>
    if x.code == fNone then setS d (x.word 0) s
    else s.fault .s x.code (if x.code == fEnvFull then 0 else queueSlot (s.pkg c.pkg) q s.pen))

def execSpawn (d a b : Reg) (s : State) : Result :=
  let vq := (s.rS a).toNat
  let addr := (s.rS b).toNat
  .next (
    if viQcount (s.ctxVi s.cur) ≤ vq then s.fault .s fPerm 0
    else if addr % 64 != 0 then s.fault .s fAlign addr
    else match viewLine s s.focus.key addr with
      | .error f => s.failAccess .s .read f addr
      | .ok (r, s) =>
        let go := fun (r : Line) => match release s s.focus.key with
          | (false, s) => stall s
          | (true, s) => spawnPush d vq r s
        if recClo r then
          if 8 ≤ (recCode r).toNat then s.illegal .s
          else
            let h := s.cur.readK s.pen (recCode r).toNat
            match envOf s s.cur.die s.cur.vi.toNat h with
            | none => s.fault .s fNullK 0
            | some _ => go (setField r 448 64 h.toNat)
        else go r)

/-- The end of a task once its commit has been made: steps 4 to 9 of R237, step 8 for TEND alone. -/
def endTask (s : State) (k : Nat) (jdec : Bool) : State :=
  let s := s.modCtx k (fun c => { c with cmds := [], fq := [] })
  let s := leaveAll s k
  let s := handOverAll s k
  let s := releaseK s k
  let s := freeTiles s k
  let s := if jdec then endJoin s (s.ctx k) (s.ctxPen (s.ctx k)) else s
  emptyBank s k

/-- A tile of the issuing context has a delivery landing. -/
def landing (s : State) : Bool :=
  ((s.core s.curCore).tiles.filter (fun e => e.2.heldBy (bankOf s.focus.key) s.pen)).any (fun e => e.2.land)

/-- TEND waits until A, V and M are idle, earlier engine commands have completed, its tiles' deliveries have landed and
its stores are committed, and ends the task (R237). -/
def execTend (s : State) : Result :=
  let k := s.focus.key
  .next (
    if !s.cur.allIdle || landing s then stall s
    else match release s k with
      | (false, s) => stall s
      | (true, s) => endTask (drain s k) k true)

/-- YIELD (R238). -/
def execYield (s : State) : Result :=
  let ck := s.curCore
  let other := !bankOf s.focus.key
  let s := s.nextS
  .next (if (s.ctx (bankKey ck other)).status == .ready then switchTo s ck other else s)

end Sys2Proof.Machine
end

