-- ==== Sys2Proof/Machine/Claims.lean ====
section
/-! DEFINITION. CLAIM, CLPARK, FULFIL and ABANDON (R178 to R183, R239 to R243). -/

namespace Sys2Proof.Machine

/-- The VI has a claim table (R239). -/
def hasClaims (v : BitVec 1024) : Bool := viClaim v false != 0 && viClaim v true != 0

/-- The eight ways of a bucket. -/
def ways (s : State) (b : Bucket) (pen : Pen) : List ClaimEntry := (List.range 8).map (fun w => readClaim s b w pen)

def clNamed (e : ClaimEntry) (n0 n1 n2 : Dword) : Bool :=
  clState e != 0 && clName e 0 == n0 && clName e 1 == n1 && clName e 2 == n2

/-- The way of a name. -/
def findWay (l : List ClaimEntry) (n0 n1 n2 : Dword) : Option Nat :=
  (List.range 8).find? (fun w => clNamed (l.getD w 0) n0 n1 n2)

/-- The way an install takes: the lowest EMPTY one, else the DONE one of the highest AGE. -/
def installWay (l : List ClaimEntry) : Option Nat :=
  match (List.range 8).find? (fun w => clState (l.getD w 0) == 0) with
  | some w => some w
  | none =>
    ((List.range 8).filter (fun w => clState (l.getD w 0) == 2)).foldl (fun m w =>
      match m with
      | none => some w
      | some u => if clAge (l.getD u 0) < clAge (l.getD w 0) then some w else some u) none

/-- Way w becomes the most recent (R178). -/
def touchWay (s : State) (b : Bucket) (pen : Pen) (w : Nat) : State :=
  let age := clAge (readClaim s b w pen)
  (List.range 8).foldl (fun s u =>
    let e := readClaim s b u pen
    if u == w then writeClaim s b u (setField e 106 3 0)
    else if clAge e < age then writeClaim s b u (setField e 106 3 (clAge e + 1)) else s) s

/-- An entry installed for a context whose maker set has room: its way and maker token (R178, R179). -/
def installClaim (s : State) (k : Nat) (b : Bucket) (pen : Pen) (n0 n1 n2 : Dword) : Option (Nat × Nat × State) :=
  let c := s.ctx k
  if 4 ≤ c.maker.length then none
  else match installWay (ways s b pen) with
    | none => none
    | some w =>
      let old := readClaim s b w pen
      let mtok := (clMtok old + 1) % 4294967296
      let e : ClaimEntry := n2 ++ n1 ++ n0 ++ (0#64) ++ BitVec.ofNat 32 noNode ++ BitVec.ofNat 32 noNode ++
        BitVec.ofNat 32 mtok ++ pen ++ (0#16) ++ c.vcn ++ (1#2) ++ (0#1) ++ BitVec.ofNat 3 (clAge old) ++ (0#106)
      some (w, mtok, touchWay (writeClaim s b w e) b pen w)

def statusFull : Dword := claimStatus 3 0 0 false
def statusNotMaker : Dword := claimStatus 4 0 0 false

/-- CLAIM at its bucket (R178): status, value, state. -/
def claimAt (s : State) (k : Nat) (n0 n1 n2 : Dword) : Dword × Dword × State :=
  let c := s.ctx k
  let pen := s.ctxPen c
  let b := bucketOf (s.ctxVi c) n0 n1 n2
  let l := ways s b pen
  match findWay l n0 n1 n2 with
  | some w =>
    let e := l.getD w 0
    let s := touchWay s b pen w
    if clState e == 2 then (claimStatus 2 (b.entry + w) 0 false, clValue e, s)
    else (claimStatus 1 (b.entry + w) 0 false, 0, s)
  | none => match installClaim s k b pen n0 n1 n2 with
    | none => (statusFull, 0, s)
    | some (w, mtok, s) => (claimStatus 0 (b.entry + w) mtok false, 0, s)

def claimOutcome (st : Dword) : Nat := st.toNat % 16

/-- An operation of the issuing context at the memory controller of a bucket (R182, R239). -/
def atBucket (s : State) (b : Bucket) (act : State → Answer × State) (fin : Answer → State → State) : State :=
  atHome s s.focus.key (dieOfGpa b.addr) b.addr act fin

/-- A context answered MAKER for a name has the entry in its maker set (R178, R239). -/
def Ctx.made (c : Ctx) (st n0 n1 n2 : Dword) : Ctx :=
  if claimOutcome st == 0 then
    { c with maker := c.maker ++ [⟨BitVec.ofNat 24 (field st 8 24), BitVec.ofNat 32 (field st 32 32), n0, n1, n2⟩] }
  else c

/-- What a claim's answer does to its context: the maker set, and the acquire of a DONE (R135, R178). -/
def claimed (st n0 n1 n2 : Dword) (s : State) : State :=
  let s := s.modCur (fun c => c.made st n0 n1 n2)
  if claimOutcome st == 2 then acquire s s.focus.key else s

def execClaim (d a b c : Reg) (s : State) : Result :=
  let n0 := s.rS a
  let n1 := s.rS b
  let n2 := s.rS c
  .next (
    if !hasClaims (s.ctxVi s.cur) then (s.modCur (fun x => x.writeRunS s.pen d.toNat [statusFull, 0])).nextS
    else atBucket s (bucketOf (s.ctxVi s.cur) n0 n1 n2)
      (fun s => let (st, v, s) := claimAt s s.focus.key n0 n1 n2; (.of [st, v], s))
      (fun x s => (claimed (x.word 0) n0 n1 n2 (s.modCur (fun c => c.writeRunS s.pen d.toNat [x.word 0, x.word 1]))).nextS))

/-! ### Parking (R159, R179, R241) -/

/-- The lowest free node of a VI's park area: one that is stale or has been freed. -/
def freeNodeOf (s : State) (v : BitVec 1024) (pen : Pen) : Option Nat :=
  (List.range (viParkn v)).find? (fun n => s.mem.pen (nodeLine v n) != pen)

/-- A node appended to an entry's list. The virtual address it holds is a free value (R159, log entry 30). -/
def parkNode (s : State) (v : BitVec 1024) (b : Bucket) (w : Nat) (pen : Pen) (n : Nat) (r : Line) (queue : Nat) : State :=
  let e := readClaim s b w pen
  let s := putRaw s (nodeLine v n) pen r
  let s := putRaw s (nodeLine v n + 1) pen (nodeInfo noNode queue (Sys2Proof.Config.claimVirtual v (b.addr + 64 * w)).toNat)
  let s := if clWait e == 0 then s
    else
      let t := nodeLine v (clTail e) + 1
      putRaw s t pen (setField (s.mem.raw t) 0 32 n)
  let e := setField (setField e 128 16 (clWait e + 1)) 192 32 n
  writeClaim s b w (if clWait e == 1 then setField e 224 32 n else e)

/-- The record a CLPARK parks (R241). -/
def parkedRecord (c : Ctx) (pen : Pen) : Line :=
  taskRecord false (c.pcS + 4) (c.readS pen 1) c.join (c.readS pen 3) (c.readS pen 4) 0 0

/-- CLPARK at its bucket (R179): whether it parked, status, value, state. -/
def clparkAt (s : State) (k : Nat) (n0 n1 n2 : Dword) : Bool × Dword × Dword × State :=
  let c := s.ctx k
  let pen := s.ctxPen c
  let v := s.ctxVi c
  let b := bucketOf v n0 n1 n2
  let l := ways s b pen
  match findWay l n0 n1 n2 with
  | none =>
    let (st, x, s) := claimAt s k n0 n1 n2
    (false, st, x, s)
  | some w =>
    let e := l.getD w 0
    if clState e == 2 then (false, claimStatus 2 (b.entry + w) 0 false, clValue e, touchWay s b pen w)
    else match freeNodeOf s v pen with
      | none => (false, statusFull, 0, s)
      | some n =>
        if clWait e == 65535 then (false, statusFull, 0, s)
        else
          let s := parkNode s v b w pen n (parkedRecord c pen) (s.taskOf c)
          (true, claimStatus 1 (b.entry + w) 0 false, 0, touchWay s b pen w)

/-- CLPARK (R241): idle streams, no delivery landing in a tile it may have to free (R97, R266), the effect of PHASE with the
wait for engine commands, then the operation. A parked context ends by steps 4 to 7 and 9 of R237. -/
def clpark (a b c : Reg) (s : State) : State :=
  let k := s.focus.key
  let n0 := s.rS a
  let n1 := s.rS b
  let n2 := s.rS c
  let give := fun (st v : Dword) (s : State) => (s.modCur (fun x => (x.writeS s.pen 6 st).writeS s.pen 5 v)).nextS
  if !s.cur.allIdle || landing s then stall s
  else if !hasClaims (s.ctxVi s.cur) then give statusFull 0 s
  else if viQcount (s.ctxVi s.cur) ≤ s.taskOf s.cur then s.fault .s fPerm 0
  else match release s k with
    | (false, s) => stall s
    | (true, s) => atBucket (acquire s k) (bucketOf (s.ctxVi s.cur) n0 n1 n2)
      (fun s => let (parked, st, v, s) := clparkAt s k n0 n1 n2; (.of [st, v, BitVec.ofNat 64 parked.toNat], s))
      (fun x s => if x.word 2 == 1 then endTask (drain s k) k false
        else give (x.word 0) (x.word 1) (claimed (x.word 0) n0 n1 n2 s))

def execClpark (a b c : Reg) (s : State) : Result := .next (clpark a b c s)

/-! ### Settling (R180, R242, R243) -/

/-- The entry of the maker set that a name and a MAKER word present (R239). -/
def Ctx.makerOf (c : Ctx) (n0 n1 n2 word : Dword) : Option Maker :=
  if claimOutcome word != 0 then none
  else c.maker.find? (fun m => m.n0 == n0 && m.n1 == n1 && m.n2 == n2 && m.entry.toNat == field word 8 24 &&
    m.mtok.toNat == field word 32 32)

/-- FULFIL's and ABANDON's act at the bucket: the status word. -/
def settleAt (s : State) (k : Nat) (m : Maker) (value : Option Dword) : Dword × State :=
  let c := s.ctx k
  let pen := s.ctxPen c
  let v := s.ctxVi c
  let b := bucketOfEntry v m.entry.toNat
  let w := m.entry.toNat % 8
  let e := readClaim s b w pen
  if clState e != 1 || clPend e || clMtok e != m.mtok.toNat || !clNamed e m.n0 m.n1 m.n2 then (statusNotMaker, s)
  else
    let s := match value with
      | some x =>
        let s := writeClaim s b w (setField (setField e 256 64 x.toNat) 110 2 2)
        wakeAll s c.pkg c.vi.toNat b w pen (clWait e + 1)
      | none => handOver s c.pkg c.vi.toNat b w pen (clWait e + 1)
    (claimStatus 2 m.entry.toNat 0 false, s)

/-- A maker whose entry has been settled has it no longer in its maker set (R180). -/
def Ctx.settledMaker (c : Ctx) (m : Maker) (st : Dword) : Ctx :=
  if claimOutcome st == 2 then { c with maker := c.maker.filter (fun x => x.entry != m.entry) } else c

/-- The maker set is consulted first, then the release, then the act (R239, R135). -/
def settle (d a b : Reg) (value : Option Dword) (s : State) : State :=
  match s.cur.readRunS s.pen a.toNat 3 with
  | [n0, n1, n2] =>
    (match s.cur.makerOf n0 n1 n2 (s.rS b) with
    | none => setS d statusNotMaker s
    | some m =>
      if !hasClaims (s.ctxVi s.cur) then setS d statusNotMaker s
      else match release s s.focus.key with
        | (false, s) => stall s
        | (true, s) => atBucket s (bucketOfEntry (s.ctxVi s.cur) m.entry.toNat)
          (fun s => let (st, s) := settleAt s s.focus.key m value; (.of [st], s))
          (fun x s => setS d (x.word 0) (s.modCur (fun c => c.settledMaker m (x.word 0)))))
  | _ => stall s

def execFulfil (d a b c : Reg) (s : State) : Result := .next (settle d a b (some (s.rS c)) s)
def execAbandon (d a b : Reg) (s : State) : Result := .next (settle d a b none s)

end Sys2Proof.Machine
end

