-- ==== Sys2Proof/Machine/Closures.lean ====
section
/-! DEFINITION. CAPT, CAPTR, APPLY, KDUP, KREL and KENV (R244 to R251), and the call of a dispatched closure (R248). -/

namespace Sys2Proof.Machine

/-! ### Capturing (R104, R105, R245) -/

/-- The entry CAPT takes: the lowest unused one, or one whose tenancy is shut. -/
def freeEnv (s : State) (ck : Nat) : Option Nat :=
  (List.range 256).find? (fun i =>
    let e := (s.core ck).envAt i
    !e.used || !(s.pkg (pkgOf (dieOfCore ck))).current e.pen)

def handle (pen : Pen) (vcn : BitVec 16) (env entry : Nat) : Handle :=
  BitVec.ofNat 64 (281474976710656 * pen.toNat + 4294967296 * vcn.toNat + 16777216 * env + 8388608 + entry % 8388608)

/-- A k register written with a handle whose reference has been taken; its old contents are released first (R244). -/
def setK (s : State) (k n : Nat) (h : Handle) : State :=
  let c := s.ctx k
  let pen := s.ctxPen c
  let s := releaseRef s c.die c.vi.toNat (c.readK pen n)
  s.modCtx k (fun c => c.writeK pen n h)

/-- The value stored for a source of a kind, or the fault. A tile source with other bits set is ILLEGAL (log entry 31). -/
def captValue (s : State) (kind : Nat) (x : Dword) : Except Nat Dword :=
  let c := s.cur
  match kind with
  | 1 =>
    if field x 32 32 != 0 || field x 7 9 != 0 then .error fIllegal
    else match resolveVcn s c.die c.vi.toNat (field x 16 16) with
      | none => .error fDangle
      | some (d, core) =>
        let t := field x 0 7
        let tl := s.tile (coreKey d core) t
        if !tl.alloc || tl.pen != s.pen then .error fDangle
        else .ok (BitVec.ofNat 64 (2 ^ 57 * t + 2 ^ 41 * field x 16 16 + tl.inc.toNat))
  | 2 =>
    if x.toNat % 16 != 0 then .error fAlign
    else if field x 52 12 != 0 then .error fPage
    else .ok (BitVec.ofNat 64 (281474976710656 * c.finc.toNat + field x 4 48))
  | _ => .ok x

/-- The values of a capture, from number j on. -/
def captValues (s : State) (a kinds : Nat) : Nat → Nat → Except (Nat × Dword) (List Dword)
  | 0, _ => .ok []
  | n + 1, j =>
    let x := s.rS (BitVec.ofNat 5 (a + j))
    match captValue s (kinds / 4 ^ j % 4) x with
    | .error e => .error (e, x)
    | .ok v => match captValues s a kinds n (j + 1) with
      | .error e => .error e
      | .ok r => .ok (v :: r)

/-- CAPT and CAPTR: `refs` says whether KINDS may be other than zero. -/
def capture (refs : Bool) (d a b : Reg) (s : State) : State :=
  let w := s.rS b
  let kinds := field w 32 16
  let n := field w 24 3 + 1
  if field w 48 16 != 0 || field w 27 5 != 0 || (!refs && kinds != 0) || 31 < a.toNat + n - 1 ||
     (List.range 8).any (fun j => kinds / 4 ^ j % 4 == 3) then s.illegal .s
  else match captValues s a.toNat kinds n 0 with
    | .error (code, x) => s.fault .s code x.toNat
    | .ok vs => match freeEnv s s.curCore with
      | none => s.fault .s fEnvFull 0
      | some i =>
        let vals : Vector Dword 8 := Vector.ofFn (fun j => vs.getD j.val 0)
        let e : Env := ⟨s.pen, 1, BitVec.ofNat 16 (kinds % 4 ^ n), true, vals, s.cur.vcn⟩
        let s := s.modCore s.curCore (fun c => c.setEnv i e)
        (setK s s.focus.key d.toNat (handle s.pen s.cur.vcn i (field w 0 23))).nextS

def execCapt (d a b : Reg) (s : State) : Result := .next (capture false d a b s)
def execCaptr (d a b : Reg) (s : State) : Result := .next (capture true d a b s)

/-! ### Applying (R246 to R248) -/

/-- A tile reference names the tile as it was captured. -/
def tileRefOk (s : State) (c : Ctx) (h : Handle) (v : Dword) : Bool :=
  match resolveVcn s c.die c.vi.toNat (field v 41 16) with
  | none => false
  | some (d, core) =>
    let t := s.tile (coreKey d core) (field v 57 7)
    t.inc.toNat == field v 0 32 && t.pen == hPen h

/-- A frame reference is live (R246). -/
def frameRefOk (s : State) (c : Ctx) (h : Handle) (v : Dword) : Bool :=
  s.ctxs.any (fun e => e.2.isOf c.pkg c.vi.toNat && e.2.vcn.toNat == hVcore h && e.2.finc.toNat == field v 48 16)

def refsOk (s : State) (c : Ctx) (h : Handle) (e : Env) : Bool :=
  (List.range 8).all (fun j =>
    let v := e.vals.getD j 0
    match field e.kinds (2 * j) 2 with
    | 1 => tileRefOk s c h v
    | 2 => frameRefOk s c h v
    | _ => true)

/-- The entry address of a handle (R76). -/
def entryOf (cbase : Dword) (h : Handle) : Dword := cbase + BitVec.ofNat 64 (4 * hEntry h)

/-- The package and virtual queue to which a closure of a virtual core is routed (R247, R168). -/
def routeOfVcn (s : State) (die vi vcn : Nat) : Option (Nat × Nat) :=
  match resolveVcn s die vi vcn with
  | none => none
  | some (d, _) => ((ceQueues ((s.die d).coreEntry vi vcn)).head?).map (fun q => (pkgOf d, q))

/-- The call branch for a context whose k0 holds the handle: its entry, or the fault (R247, R248). -/
def callCheck (s : State) (c : Ctx) (h : Handle) : Except Nat Dword :=
  match envOf s c.die c.vi.toNat h with
  | none => .error fNullK
  | some (_, e) => if refsOk s c h e then .ok (entryOf (c.cbase.read (s.ctxPen c)) h) else .error fDangle

/-- A routed closure's reference and push (R247). -/
def routedAt (k p q : Nat) (h : Handle) (r : Line) (s : State) : Answer × State :=
  let c := s.ctx k
  match takeRefs s c.die c.vi.toNat h 1 with
  | none => (.failed ⟨12, fEnvFull⟩, s)
  | some s => (.of [], (pushHome s p c.vi.toNat q (s.ctxPen c) r).2)

/-- APPLY that routes (R247): a release, a reference, the push. -/
def applyRoute (d : Reg) (h : Handle) (s : State) : State :=
  let c := s.cur
  match routeOfVcn s c.die c.vi.toNat (hVcore h) with
  | none => s.fault .s fNullK 0
  | some (p, q) => match release s s.focus.key with
    | (false, s) => stall s
    | (true, s) =>
      let phys := viQfirst ((s.pkg p).vi c.vi.toNat) + q
      let r := taskRecord true h (s.rS 1) 0 (s.rS 3) (s.rS 4) (s.rS 5) (s.rS 6)
      atHome s s.focus.key (queueHome s p c.vi.toNat phys) (qBase ((s.pkg p).queue phys)) (routedAt s.focus.key p q h r)
        (fun x s => if x.code == fNone then setS d 0 s else s.fault .s x.code 0)

/-- APPLY that calls (R247). -/
def applyCall (d a : Reg) (h : Handle) (s : State) : State :=
  match callCheck s s.cur h with
  | .error e => s.fault .s e 0
  | .ok entry =>
    let ret := s.cur.pcS + 4
    if a == 0 then (s.wS d ret).jump .s entry
    else match takeRefs s s.cur.die s.cur.vi.toNat h 1 with
      | none => s.fault .s fEnvFull 0
      | some s => ((setK s s.focus.key 0 h).wS d ret).jump .s entry

def execApply (d a b : Reg) (s : State) : Result :=
  let h := s.cur.readK s.pen a.toNat
  .next (match envOf s s.cur.die s.cur.vi.toNat h with
    | none => s.fault .s fNullK 0
    | some _ => if (s.rS b).getLsbD 0 || hVcore h != s.cur.vcn.toNat then applyRoute d h s else applyCall d a h s)

/-! ### Handles (R249 to R251) -/

def execKdup (d a : Reg) (s : State) : Result :=
  let h := s.cur.readK s.pen a.toNat
  .next (
    if !hLive h then (setK s s.focus.key d.toNat 0).nextS
    else match envOf s s.cur.die s.cur.vi.toNat h with
      | none => s.fault .s fNullK 0
      | some _ => match takeRefs s s.cur.die s.cur.vi.toNat h 1 with
        | none => s.fault .s fEnvFull 0
        | some s => (setK s s.focus.key d.toNat h).nextS)

def execKrel (d : Reg) (s : State) : Result := .next (setK s s.focus.key d.toNat 0).nextS

def execKenv (d a : Reg) (s : State) : Result :=
  let h := s.cur.readK s.pen a.toNat
  .next (match envOf s s.cur.die s.cur.vi.toNat h with
    | none => s.fault .s fNullK 0
    | some (_, e) => (s.modCur (fun c => c.writeRunS s.pen d.toNat e.vals.toList)).nextS)

end Sys2Proof.Machine
end

