-- ==== Sys2Proof/Machine/Doors.lean ====
section
/-! DEFINITION. DOORW and DOORS (R41, R252, R253), and CSRR and CSRW (R87, R88, R254). -/

namespace Sys2Proof.Machine

/-! ### Doors -/

/-- The physical door of a virtual number for the issuing context, with the direction asked for. -/
def doorOfNum (s : State) (c : Ctx) (n : Nat) (out : Bool) : Option Nat :=
  let v := s.ctxVi c
  if viDcount v ≤ n then none
  else
    let d := viDfirst v + n
    if dOut ((s.pkg c.pkg).door d).desc == out then some d else none

/-- A message stands in an enabled inbound door. -/
def doorHas (s : State) (p vi n : Nat) : Bool :=
  let d := (freshDoor ((s.pkg p).door n) (s.penOf p vi)).desc
  dEn d && dTail d != dHead d

/-- The address a door's next message is read at. -/
def doorAddr (s : State) (p n : Nat) : Nat :=
  let d := ((s.pkg p).door n).desc
  dBase d + 64 * (dHead d % dCap d)

/-- What the read of a message leaves at the ring, whatever becomes of it (R110, R191). -/
def meetMessage (s : State) (p vi n : Nat) : State := afterAccess s (doorAccessor s p vi n) Need.read (doorAddr s p n) false

/-- The device's read of the oldest message; HEAD advances where it succeeds (R422). -/
def doorTake (s : State) (p vi n : Nat) : Except Fail (Line × State) :=
  let d := freshDoor ((s.pkg p).door n) (s.penOf p vi)
  let h := dHead d.desc
  let s := meetMessage s p vi n
  match homeRead s (doorAccessor s p vi n) Need.read (doorAddr s p n) with
  | .error f => .error f
  | .ok m => .ok (m, s.modPkg p (fun k => k.setDoor n { d with desc := setField d.desc 400 32 (h + 1) }))

/-- The sequence number of a door's oldest message. -/
def doorSeq (s : State) (p vi n : Nat) : Nat := dHead (freshDoor ((s.pkg p).door n) (s.penOf p vi)).desc

/-- A message that stands goes to the context that entered DOORW first (R41); a failed read is that context's fault. -/
def serveDoor (s : State) (p vi n : Nat) : State :=
  if !doorHas s p vi n then s
  else match ((s.pkg p).doorWaiters.find? (fun e => e.1 == n)) with
    | none => s
    | some (_, id) =>
      let s := s.modPkg p (fun k => { k with doorWaiters := k.doorWaiters.filter (fun e => e.2 != id) })
      match s.keyOfId id with
      | none => s
      | some k =>
        let s := match doorTake s p vi n with
          | .ok (m, s') => s'.modCtx k (fun c => { c with inside := .message m (doorSeq s p vi n), blocked := .nothing })
          | .error f =>
            (meetMessage s p vi n).modCtx k (fun c =>
              { c with blocked := .nothing, pend := some ⟨f.code, .s, c.pcS, BitVec.ofNat 64 (doorAddr s p n), 0⟩ })
        wake s k

/-- A message's eight dwords. -/
def messageDwords (m : Line) : List Dword := (List.range 8).map (lineDword m)

/-- The message of eight dwords. -/
def messageOf (l : List Dword) : Line := BitVec.ofNat 512 (l.foldr (fun d n => d.toNat + 18446744073709551616 * n) 0)

/-- DOORW's effect: the registers and the acquire (R252). -/
def giveMessage (d : Reg) (m : Line) (s : State) : State :=
  (acquire (s.modCur (fun c => { c.writeRunS s.pen d.toNat (messageDwords m) with inside := .nothing })) s.focus.key).nextS

def execDoorw (d a : Reg) (s : State) : Result :=
  let c := s.cur
  .next (match c.inside with
    | .message m _ => giveMessage d m s
    | _ =>
      match doorOfNum s c (s.rS a).toNat false with
      | none => s.fault .s fPerm 0
      | some n =>
        let p := c.pkg
        let vi := c.vi.toNat
        if doorHas s p vi n && !(s.pkg p).doorWaiters.any (fun e => e.1 == n) then
          atHome s s.focus.key (doorHome s p vi n) (dBase ((s.pkg p).door n).desc)
            (fun s => match doorTake s p vi n with
              | .ok (m, t) => (.of (messageDwords m ++ [BitVec.ofNat 64 (doorSeq s p vi n)]), t)
              | .error f => (.failed f, meetMessage s p vi n))
            (fun x s => if x.code == fNone then giveMessage d (messageOf (x.words.take 8)) s else s.fault .s x.code (doorAddr s p n))
        else
          let s := s.modPkg p (fun k => { k with doorWaiters := k.doorWaiters.filter (fun e => e.2 != c.id) ++ [(n, c.id)] })
          enterWaiting s s.focus.key (.door n))

def execDoors (a b : Reg) (s : State) : Result :=
  let c := s.cur
  let addr := (s.rS b).toNat
  .next (match doorOfNum s c (s.rS a).toNat true with
    | none => s.fault .s fPerm 0
    | some n =>
      if addr % 64 != 0 then s.fault .s fAlign addr
      else match viewLine s s.focus.key addr with
        | .error f => s.failAccess .s .read f addr
        | .ok (m, s) =>
          if !doorOpen s c.pkg c.vi.toNat n then stall s
          else match release s s.focus.key with
            | (false, s) => stall s
            | (true, s) =>
              atHome s s.focus.key (doorHome s c.pkg c.vi.toNat n) (dBase ((s.pkg c.pkg).door n).desc)
                (fun s => match doorAppend s c.pkg c.vi.toNat n m with
                  | .error f => (.failed f, meetDoor s c.pkg c.vi.toNat n)
                  | .ok (_, s) => (.of [], s))
                (fun x s => if x.code == fNone then s.nextS else s.fault .s x.code (doorSlot s c.pkg c.vi.toNat n)))

/-! ### Control and status registers (R87, R88, R254) -/

/-- The value of a CSR for a context; none for a number R87 does not list. -/
def readCsr (s : State) (key : Nat) (n : Nat) : Option Dword :=
  let c := s.ctx key
  let p := s.ctxPen c
  match n with
  | 0x000 => some (c.vcn.setWidth 64)
  | 0x001 => some (BitVec.ofNat 64 (ceVdie ((s.die c.die).coreEntry c.vi.toNat c.vcn.toNat)))
  | 0x002 => some (p.setWidth 64)
  | 0x003 => some ((c.taskq.read p).setWidth 64)
  | 0x004 => some (s.cycleCsr c.pkg)
  | 0x008 => some (c.rmode.read p)
  | 0x020 => some (c.tvec.read p)
  | 0x021 => some (c.tcause.read p)
  | 0x022 => some (c.tinfo.read p)
  | 0x024 => some (c.epcS.read p)
  | 0x025 => some (c.epcA.read p)
  | 0x026 => some (c.epcV.read p)
  | 0x027 => some (c.epcM.read p)
  | 0x028 => some (c.cbase.read p)
  | 0x029 => some (c.epcMN.read p)
  | 0x030 =>
    some (if c.vi == 0 then
        BitVec.ofNat 64 (65536 * c.die + 256 * (c.home % 144) + (bankOf key).toNat)
      else 0)
  | _ => if 0x010 ≤ n && n ≤ 0x01F then some (((c.c.getD (n - 0x010) .void).read p).setWidth 64) else none

/-- A context with a CSR written; the fault otherwise: PERM for one a program may not write, ILLEGAL for an unlisted
number. Reserved fields keep reading zero. -/
def writeCsr (c : Ctx) (p : Pen) (n : Nat) (v : Dword) : Except Nat Ctx :=
  match n with
  | 0x008 => .ok { c with rmode := ⟨p, v &&& 0x1F⟩ }
  | 0x020 => .ok { c with tvec := ⟨p, v &&& 0xFFFFFFFFFFFFFFFC⟩ }
  | 0x024 => .ok { c with epcS := ⟨p, v⟩ }
  | 0x025 => .ok { c with epcA := ⟨p, v⟩ }
  | 0x026 => .ok { c with epcV := ⟨p, v⟩ }
  | 0x027 => .ok { c with epcM := ⟨p, v⟩ }
  | 0x029 => .ok { c with epcMN := ⟨p, v⟩ }
  | 0x000 | 0x001 | 0x002 | 0x003 | 0x004 | 0x021 | 0x022 | 0x028 | 0x030 => .error fPerm
  | _ =>
    if 0x010 ≤ n && n ≤ 0x01F then .ok { c with c := c.c.setIfInBounds (n - 0x010) ⟨p, v.setWidth 32⟩ }
    else .error fIllegal

def execCsrr (d : Reg) (csr : BitVec 12) (s : State) : Result :=
  .next (match readCsr s s.focus.key csr.toNat with
    | none => s.illegal .s
    | some v => setS d v s)

def execCsrw (d : Reg) (csr : BitVec 12) (s : State) : Result :=
  .next (match writeCsr s.cur s.pen csr.toNat (s.rS d) with
    | .error e => s.fault .s e 0
    | .ok c => (s.setCur c).nextS)

end Sys2Proof.Machine
end

