-- ==== Sys2Proof/Machine/Engine.lean ====
section
/-! DEFINITION. The engine commands of A at issue: their operands, checks and push (R86, R136, R146, R269 to R273), and
CRES (R285). -/

namespace Sys2Proof.Machine

/-! ### Endpoints and the length word (R270, R271) -/

inductive Endpoint where
  | mem (va : Nat)
  | tile (vcn tile ofs : Nat)
  | group (g tile ofs : Nat)
  deriving DecidableEq, Repr

/-- The endpoint a register value names; none where it is ILLEGAL. -/
def endpoint (x : Dword) : Option Endpoint :=
  match field x 62 2 with
  | 0 => if field x 52 10 == 0 then some (.mem (field x 0 52)) else none
  | 2 => if field x 48 14 == 0 && field x 23 9 == 0 && field x 14 2 == 0 then
      some (.tile (field x 32 16) (field x 16 7) (field x 0 14)) else none
  | 3 => if field x 38 24 == 0 && field x 23 9 == 0 && field x 14 2 == 0 then
      some (.group (field x 32 6) (field x 16 7) (field x 0 14)) else none
  | _ => none

structure LenWord where
  pitch : Nat
  rows : Nat
  rop : Nat
  bf : Bool
  sc : Bool
  sw : Bool
  rowlen : Nat
  reserved : Bool
  deriving DecidableEq, Repr

def lenWord (x : Dword) : LenWord :=
  { pitch := field x 44 20, rows := field x 32 12 + 1, rop := field x 28 4, bf := field x 26 1 == 1,
    sc := field x 25 1 == 1, sw := field x 24 1 == 1, rowlen := field x 0 20,
    reserved := field x 27 1 != 0 || field x 20 4 != 0 }

/-- T, the lines of a transfer. -/
def LenWord.lines (l : LenWord) : Nat := l.rows * l.rowlen

/-- The address of line i of the pitched endpoint. -/
def LenWord.pitched (l : LenWord) (base i : Nat) : Nat :=
  base + 64 * ((if l.pitch == 0 then l.rowlen else l.pitch) * (i / l.rowlen) + i % l.rowlen)

/-- The kind of an endpoint: 0, 2 or 3. -/
def Endpoint.kind : Endpoint → Nat
  | .mem _ => 0 | .tile _ _ _ => 2 | .group _ _ _ => 3

/-- Whether an endpoint's address breaks the alignment of R270. -/
def Endpoint.misaligned : Endpoint → Bool
  | .mem va => va % 64 != 0
  | .tile _ _ o => o % 64 != 0
  | .group _ _ _ => false

/-- A tile range of `n` lines does not fit its tile (R271). -/
def Endpoint.overruns (n : Nat) : Endpoint → Bool
  | .mem _ => false
  | .tile _ _ o => 256 < o / 64 + n
  | .group _ _ o => 256 < o / 64 + n

/-- The copy commands. -/
inductive CopyFn where
  | cpy | cpyf | cpymc | cpylr | cpyrd
  deriving DecidableEq, Repr

def CopyFn.code : CopyFn → Nat
  | .cpy => 0 | .cpyf => 1 | .cpymc => 2 | .cpylr => 3 | .cpyrd => 4

/-- The kinds R272 allows; CPYF's destination is a tile of the issuer's own virtual core. -/
def CopyFn.kindsOk (f : CopyFn) (vcn : Nat) (d s : Endpoint) : Bool :=
  match f with
  | .cpy => d.kind != 3 && s.kind != 3
  | .cpyf => (match d with | .tile v _ _ => v == vcn | _ => false) && s.kind != 3
  | .cpymc => d.kind == 3 && s.kind != 3
  | .cpylr => d.kind != 3 && s.kind == 3
  | .cpyrd => d.kind == 0 && s.kind != 3

/-- The value checks of a length word for a command (R271, R272, R280). -/
def LenWord.ok (l : LenWord) (f : Option CopyFn) (d : Option Endpoint) (s : Endpoint) : Bool :=
  let srcMem := s.kind == 0
  let dstMem := match d with | some d => d.kind == 0 | none => false
  !l.reserved && l.rowlen != 0 && l.lines ≤ 262144 &&
  (if f == some .cpyrd then l.rop ≤ 4 else l.rop == 0) && (f == some .cpylr || !l.bf) &&
  (l.pitch == 0 || ((srcMem || dstMem) && f != some .cpylr && (srcMem || l.rowlen ≤ l.pitch))) &&
  (!l.sc || l.sw) && !(l.sw && srcMem)

/-- Why a copy command does not issue: its code and address (R270 to R272). -/
def copyCheck (f : CopyFn) (vcn : Nat) (opd opa opb : Dword) : Option (Nat × Nat) :=
  match endpoint opd, endpoint opa with
  | some d, some s =>
    let l := lenWord opb
    if !f.kindsOk vcn d s || !l.ok (some f) (some d) s then some (fIllegal, 0)
    else if d.misaligned then some (fAlign, opd.toNat)
    else if s.misaligned then some (fAlign, opa.toNat)
    else if d.overruns (if l.bf then 2 * l.lines else l.lines) || s.overruns l.lines then some (fPerm, 0)
    else none
  | _, _ => some (fIllegal, 0)

/-! ### The push (R86, R136, R146, R273) -/

/-- A command's 64 bytes. -/
def cmdWords (c : Ctx) (pen : Pen) (bank : Bool) (fn : Nat) (opd opa opb : Dword) (follow : BitVec 192) : Line :=
  opd ++ opa ++ opb ++ follow ++ (0#56) ++ BitVec.ofNat 8 fn ++ pen ++ c.seqNext ++ c.vcn ++
    BitVec.ofNat 16 bank.toNat

/-- The cq entries that a shutter left stale after a push: the oldest of the bank gives up its place where none of the sixteen
is free (R86, R91). -/
def Core.reuse (x : Core) (bank : Bool) (held : Nat) : Core :=
  let mine := x.stale.filter (fun e => e.1 == bank)
  if mine.length + held ≤ 16 then x
  else { x with stale := mine.drop 1 ++ x.stale.filter (fun e => e.1 != bank) }

/-- Pushes a command and moves past the word. -/
def pushCmd (fn : Nat) (opd opa opb : Dword) (follow : BitVec 192) (s : State) : State :=
  let c := s.cur
  let m : Cmd := ⟨cmdWords c s.pen (bankOf s.focus.key) fn opd opa opb follow, c.pcA, c.seqNext, .queued, 0, s.pen, false, [], [], [], [],
    none, 0, 0, 0, 0⟩
  let s := (s.setCur { c with cmds := c.cmds ++ [m], seqNext := c.seqNext + 1 }).modCore s.curCore
    (fun x => x.reuse (bankOf s.focus.key) (c.cmds.length + 1))
  (s.act (.engineTakeCommand s.focus.key c.seqNext)).nextA

/-- Whether a line of stores lies in a memory source of a copy (R136). -/
def inSource (l : LenWord) (base line : Nat) : Bool :=
  (List.range l.rows).any (fun r =>
    let first := l.pitched base (r * l.rowlen) / 64
    first ≤ line && line < first + l.rowlen)

/-- A command whose checks have passed: it stalls while 16 are outstanding, makes its release, and is pushed. -/
def issueCmd (fn : Nat) (opd opa opb : Dword) (follow : BitVec 192) (sel : Option (Nat → Bool)) (s : State) : State :=
  if 16 ≤ s.cur.cmds.length then stall s
  else match sel with
    | none => pushCmd fn opd opa opb follow s
    | some f => match commitOwn s s.focus.key f with
      | (false, s) => stall s
      | (true, s) => pushCmd fn opd opa opb follow s

/-- The lines a copy command's push releases: those of its kind-00 source. -/
def copySel (opa opb : Dword) : Option (Nat → Bool) :=
  match endpoint opa with
  | some (.mem va) => some (inSource (lenWord opb) va)
  | _ => none

def copyA (f : CopyFn) (opd opa opb : Dword) (follow : BitVec 192) (s : State) : State :=
  match copyCheck f s.cur.vcn.toNat opd opa opb with
  | some (code, at_) => s.fault .a code at_
  | none => issueCmd f.code opd opa opb follow (copySel opa opb) s

def execCpy (d a b : Reg) (s : State) : Result := .next (copyA .cpy (s.rA d) (s.rA a) (s.rA b) 0 s)
/-- CPYF's b field names a run of four registers (R277). -/
def execCpyf (d a b : Reg) (s : State) : Result :=
  let follow : BitVec 192 := s.rA (b + 1) ++ s.rA (b + 2) ++ s.rA (b + 3)
  .next (copyA .cpyf (s.rA d) (s.rA a) (s.rA b) follow s)
def execCpymc (d a b : Reg) (s : State) : Result := .next (copyA .cpymc (s.rA d) (s.rA a) (s.rA b) 0 s)
def execCpylr (d a b : Reg) (s : State) : Result := .next (copyA .cpylr (s.rA d) (s.rA a) (s.rA b) 0 s)
def execCpyrd (d a b : Reg) (s : State) : Result := .next (copyA .cpyrd (s.rA d) (s.rA a) (s.rA b) 0 s)

/-- PREF (R281): its region's endpoint and length word are checked as a source's. -/
def execPref (a b : Reg) (s : State) : Result :=
  .next (match endpoint (s.rA a) with
    | some (.mem va) =>
      if !(lenWord (s.rA b)).ok none none (.mem va) then s.illegal .a
      else if va % 64 != 0 then s.fault .a fAlign va
      else issueCmd 5 0 (s.rA a) (s.rA b) 0 none s
    | _ => s.illegal .a)

/-- SACC (R282): a 4-byte aligned kind-00 base, and the control word. -/
def execSacc (d a : Reg) (s : State) : Result :=
  let base := s.rA d
  let c := s.rA a
  let rop := field c 24 4
  .next (
    if field base 52 12 != 0 || field c 28 36 != 0 || field c 16 8 != 0 || field c 0 16 == 0 ||
       !(rop == 0 || rop == 2 || rop == 3 || rop == 4) then s.illegal .a
    else if base.toNat % 4 != 0 then s.fault .a fAlign base.toNat
    else issueCmd 6 base c 0 0 none s)

/-- A counter command: its alignment, and whether it makes the release of R134. -/
def counterA (fn align : Nat) (releases : Bool) (addr opb : Dword) (s : State) : State :=
  if addr.toNat % align != 0 then s.fault .a fAlign addr.toNat
  else issueCmd fn 0 addr opb 0 (if releases then some (fun _ => true) else none) s

def execSigdec (a : Reg) (s : State) : Result := .next (counterA 7 8 true (s.rA a) 0 s)
def execSigwait (a b : Reg) (s : State) : Result := .next (counterA 8 8 false (s.rA a) (s.rA b) s)
def execJdec (a : Reg) (s : State) : Result := .next (counterA 9 128 true (s.rA a) 0 s)

/-! ### CRES (R285) -/

/-- A command on which CRES makes the context WAITING: a SIGWAIT not yet satisfied (R285), or one that waits on a page
(R348). -/
def Cmd.waitsSignal (m : Cmd) : Bool :=
  match m.state with
  | .queued => cmdFn m.words == 8
  | .taken _ => cmdFn m.words == 8
  | .held _ _ => true
  | .failing _ _ => false
  | _ => false

/-- The registers CRES writes: bits [63:0] of the element and VALUE. -/
def popResult (d : Reg) (m : Cmd) (s : State) : State :=
  let e := if m.pen == s.pen then m.element else 0
  let s := acquire (s.modCur (fun c => { c with cmds := c.cmds.drop 1 })) s.focus.key
  (if d == 0 then s else (s.wA d (e.setWidth 64)).wA (d + 1) (e.extractLsb' 64 64)).nextA

def execCres (d : Reg) (s : State) : Result :=
  .next (match s.cur.cmds with
    | [] => s.fault .a fFifoUnder 0
    | m :: _ =>
      if m.state == .posted then popResult d m s
      else if m.waitsSignal && !s.cur.begun then enterWaiting s s.focus.key (.command m.seq)
      else stall s)

end Sys2Proof.Machine
end

