-- ==== Sys2Proof/Machine/Vimap.lean ====
section
/-! DEFINITION. VIMAP (R341, R342): the fifteen table operations with their checks (R118, R164, R166, R167, R170, R172 to
R174, R368), eviction and return (R124, R389, R390), and the answers that waiting faults get (R126, R348). -/

namespace Sys2Proof.Machine

/-! ### Status words (R337) -/

/-- The outcome of a privileged operation; `done` carries bits [63:16]. -/
inductive VStatus where
  | done (v : Nat)
  | busy
  | refused (reason : Nat)
  deriving DecidableEq, Repr

def VStatus.word : VStatus → Dword
  | .done v => BitVec.ofNat 64 (65536 * v)
  | .busy => 1
  | .refused r => BitVec.ofNat 64 (2 + 256 * r)

/-- A refused operation changes no state. -/
def refuse (s : State) (reason : Nat) : VStatus × State := (.refused reason, s)
def doneOp (s : State) : VStatus × State := (.done 0, s)

/-! ### Requests (R341) -/

/-- A request: its first line and its DATA, byte 0 in bits [7:0]. -/
structure VReq where
  head : Line
  data : BitVec 1024
  deriving DecidableEq, Repr

def VReq.op (r : VReq) : Nat := field r.head 0 16
def VReq.vi (r : VReq) : Nat := field r.head 16 8
def VReq.flags (r : VReq) : Nat := field r.head 24 8
def VReq.die (r : VReq) : Nat := field r.head 32 16
def VReq.count (r : VReq) : Nat := field r.head 48 16
def VReq.index (r : VReq) : Nat := field r.head 64 64
/-- The reserved bytes 16 to 63 are zero. -/
def VReq.clear (r : VReq) : Bool := field r.head 128 384 == 0
/-- DATA's first line, as a descriptor. -/
def VReq.line (r : VReq) : Line := r.data.extractLsb' 0 512
def VReq.dword (r : VReq) (i : Nat) : Nat := field r.data (64 * i) 64

/-- The die field names a die of the package that performs the request. -/
def VReq.dieOk (r : VReq) (p : Nat) : Bool := r.die == die0 p || r.die == die1 p

/-! ### Pages -/

/-- A page address that names a populated page of the package. -/
def pageOk (p a : Nat) : Bool :=
  a % 65536 == 0 && a < 1152921504606846976 && (dieOfGpa a == die0 p || dieOfGpa a == die1 p) && populated (offOfGpa a)

def State.own (s : State) (a : Nat) : Own := (s.die (dieOfGpa a)).page (pageIndex (offOfGpa a))
def State.setOwn (s : State) (a : Nat) (o : Own) : State :=
  s.modDie (dieOfGpa a) (fun d => d.setPage (pageIndex (offOfGpa a)) o)

/-- Every line of a page zero under the void pennant, with no metadata. -/
def clearPage (s : State) (a : Nat) : State :=
  let n := a / 65536
  { s with mem := ⟨s.mem.cells.filter (fun c => c.1 / 65536 != n), s.mem.pens.filter (fun c => c.1 / 1024 != n)⟩,
           poison := s.poison.filter (fun c => c.1 / 1024 != n), errors := s.errors.filter (fun c => c.1 / 1024 != n),
           len := s.len.filter (fun c => c.1 / 1024 != n) }

/-- A table write: 16 bytes put as they are. -/
def pokeEntry (s : State) (a : Nat) (e : BitVec 128) : State :=
  { s with mem := s.mem.pokeBytes a (leBytes 16 e.toNat) }

/-! ### Answers to waiting faults (R126, R348) -/

/-- Engine commands of a context changed by the SEQ of the fault that holds them. -/
def Ctx.resumeCmd (c : Ctx) (w : PageWait) (f : Nat → CmdState) : Ctx :=
  c.modCmd w.cmd (fun m => match m.state with
    | .held done seq => if seq == w.seq then { m with state := f done } else m
    | _ => m)

/-- A context's waits that a test selects are answered: its engine commands go on, and it wakes. -/
def Ctx.answerWaits (c : Ctx) (hit : PageWait → Bool) : Ctx :=
  let ws := c.waits.filter (fun w => w.state == .waiting && hit w)
  let c := (ws.filter (fun w => w.kind == .engine)).foldl (fun c w =>
    { c.resumeCmd w .taken with blocked := if c.blocked == .command w.cmd then .nothing else c.blocked }) c
  { c with waits := c.waits.filter (fun w => !(w.state == .waiting && hit w)) }

/-- Wakes every context whose waits are over. -/
def wakeAllWaits (s : State) : State := (s.ctxs.map Prod.fst).foldl wake s

/-- Answers the waits of a VI's contexts that `hit` selects, and forgets the commit pauses at addresses that `at_`
selects, so that those commits try again. -/
def answer (s : State) (vi : Nat) (hit : PageWait → Bool) (at_ : Nat → Nat → Bool) : State :=
  let s := { s with ctxs := Table.mapIf s.ctxs (fun _ (c : Ctx) => c.status != CtxStatus.empty && c.vi.toNat == vi) (fun (c : Ctx) =>
    let c := c.answerWaits hit
    { c with paused := c.paused.filter (fun q => q.failed.isSome || !at_ c.die q.va.toNat) }) }
  let s := { s with groups := s.groups.map (fun (g : Group) =>
    if g.vi.toNat == vi then { g with paused := g.paused.filter (fun q => q.failed.isSome || !at_ g.die q.va.toNat) } else g) }
  wakeAllWaits s

/-- The page a virtual address of a VI reaches from a die, as its tables stand. -/
def pageReached (s : State) (die vi va : Nat) : Option Nat :=
  match walk s die vi va with
  | .error _ => none
  | .ok l =>
    if l.win == 0 then some l.frame
    else
      let wn := Table.get (s.die die).windows (64 * vi + l.win) 0
      some (field wn 114 14 * 1073741824 + (field wn 16 30 + l.frame) % 1073741824)

/-- The waiting access of an engine command or of a stream, as step 4 sees it: what it asks of its leaf (R280, R282). -/
def waitNeed (s : State) (vi : Nat) (w : PageWait) : Need :=
  if w.kind != .engine then w.kind.need
  else if w.code != fWindow then Need.read
  else if s.ctxs.any (fun e => e.2.vi.toNat == vi && e.2.waits.contains w &&
      e.2.cmds.any (fun m => m.seq == w.cmd && cmdFn m.words == 6)) then Need.scatter
  else Need.combine

/-- A leaf passes step 4 for an access. -/
def Leaf.permits (l : Leaf) (n : Need) : Bool := l.rap || !(n.rap || (n.rapWin && l.win != 0))

/-! ### LEAF and LINK -/

def leafImage (r : VReq) (n : Nat) : Leaf :=
  let l : Leaf := r.data.extractLsb' 0 128
  setField l 16 44 (l.frame + n)

/-- COUNT, C and the alignment of a run agree (R118). -/
def runShape (r : VReq) : Bool :=
  let l := leafImage r 0
  if r.count == 1 then !l.c else r.count == 32 && l.c && r.index / 65536 % 32 == 0 && l.frame % 32 == 0

/-- Leaf entries written from entry i of a table on; an entry that clears C clears it in its whole run. -/
def putLeaves (s : State) (r : VReq) (t i : Nat) : State :=
  let old : Leaf := s.raw128 (t + 16 * i)
  let s := if r.count == 1 && old.c then
      (List.range 32).foldl (fun s j =>
        let a := t + 16 * (i / 32 * 32 + j)
        pokeEntry s a (setField (s.raw128 a) 4 1 0)) s
    else s
  (List.range r.count).foldl (fun s n => pokeEntry s (t + 16 * (i + n)) (leafImage r n)) s

def vimapLeaf (s : State) (p : Nat) (r : VReq) : VStatus × State :=
  let l := leafImage r 0
  let frames := (List.range r.count).map (fun n => (leafImage r n).frame * 65536)
  if !r.dieOk p || r.index % 65536 != 0 || 4503599627370496 ≤ r.index then refuse s 3
  else if !(r.count == 1 || r.count == 32) || !runShape r || (List.range r.count).any (fun n => !(leafImage r n).ok) then
    refuse s 2
  else match leafTable s r.die r.vi r.index with
    | .error _ => refuse s 6
    | .ok t =>
      if l.win == 0 && l.p && frames.any (fun a => !((s.own a).valid && (s.own a).vi.toNat == r.vi)) then refuse s 7
      else
        let s := invalidate (putLeaves s r t (r.index / 65536 % 4096)) p
          (fun (x : Xlat) => x.inRange r.vi (r.index / 65536 / 32 * 32) (if r.count == 1 then 32 else r.count))
        if !l.p then doneOp s
        else
          let here := fun (va : Nat) => r.index ≤ va && va < r.index + 65536 * r.count
          doneOp (answer s r.vi (fun w => w.die == r.die && here w.va.toNat &&
              (w.code == fPage || Leaf.permits l (waitNeed s r.vi w)))
            (fun d va => d == r.die && here va))

def vimapLink (s : State) (p : Nat) (r : VReq) : VStatus × State :=
  let a := r.dword 0
  let root := s.root r.die r.vi
  if !r.dieOk p || 4503599627370496 ≤ r.index then refuse s 3
  else if !(r.flags == 1 || r.flags == 2) || a % 65536 != 0 || 1152921504606846976 ≤ a || dieOfGpa a != r.die ||
      !populated (offOfGpa a) then refuse s 2
  else if !(s.own a).tbl then refuse s 4
  else if !tablePlace r.die a then refuse s 2
  else if root == 0 then refuse s 6
  else
    let e : BitVec 128 := BitVec.ofNat 128 (a + 1)
    let i1 := root + 16 * (r.index / 1099511627776 % 4096)
    let n := if r.flags == 1 then 16777216 else 4096
    let put := fun (at_ : Nat) =>
      doneOp (pokeEntry (clearPage (invalidate s p (fun (x : Xlat) => x.inRange r.vi (r.index / 65536 / n * n) n)) a) at_ e)
    if r.flags == 1 then put i1
    else match walkDown s r.die i1 with
      | .error _ => refuse s 6
      | .ok t => put (t + 16 * (r.index / 268435456 % 4096))

/-! ### OWN and TBLPG -/

/-- A page's side-table entry zeroed when the page is assigned (R184), where the table lies in TBL pages. -/
def zeroSide (s : State) (vi a : Nat) : State :=
  let e := sideEntry s vi a
  if populated (offOfGpa e) && (s.own e).tbl then pokeEntry s e 0 else s

def vimapOwn (s : State) (p : Nat) (r : VReq) : VStatus × State :=
  let a := r.index
  if !pageOk p a then refuse s 3
  else
    let o := s.own a
    if o.valid || o.tbl then refuse s 4
    else
      let vi := r.data.extractLsb' 0 8
      doneOp (invalidate (zeroSide (s.setOwn a { o with vi := vi, valid := true, prot := r.data.getLsbD 8, evicted := false })
        vi.toNat a) p (fun (x : Xlat) => x.onFrame (a / 65536)))

def vimapTblpg (s : State) (p : Nat) (r : VReq) : VStatus × State :=
  let a := r.index
  if !pageOk p a || !r.dieOk p || dieOfGpa a != r.die then refuse s 3
  else
    let n := pageIndex (offOfGpa a)
    let o := s.own a
    if ownTablePage ≤ n && n < stackedPages then refuse s 3
    else if r.data.getLsbD 0 then
      if o.valid || o.tbl || o.evicted then refuse s 4
      else doneOp (invalidate ((clearPage s a).setOwn a { o with tbl := true }) p (fun (x : Xlat) => x.onFrame (a / 65536)))
    else if !o.tbl then refuse s 4
    else doneOp (invalidate ((clearPage s a).setOwn a { o with tbl := false }) p (fun _ => true))

/-! ### EVICT and RETURN (R124, R389, R390) -/

/-- Key material for keyed hashes, in bytes. -/
def saveKey (s : State) (p vi : Nat) : List Byte := leBytes 64 (Table.get (s.pkg p).saveKeys vi 0).toNat

/-- LEN of each block of a page, packed six bits a block. -/
def pageLens (s : State) (a : Nat) : Nat :=
  ((List.range 16).map (fun k => (Table.get s.len (a / 64 + 64 * k) 0).toNat * 64 ^ k)).foldl (fun x y => x + y) 0

/-- The entries of a table page that hold anything, by index. -/
def tableEntries (s : State) (t : Nat) : List Nat :=
  ((s.mem.cells.filter (fun c => c.1 / 65536 == t / 65536)).map (fun c => c.1 % 65536 / 16)).eraseReps

/-- The leaves of a VI's tables on a die. -/
def leavesOf (s : State) (die vi : Nat) : List Leaf :=
  let root := s.root die vi
  let down := fun (t : Nat) => (tableEntries s t).filterMap (fun i => (walkDown s die (t + 16 * i)).toOption)
  if root == 0 || !tablePlace die root then []
  else (down root).flatMap (fun t2 => (down t2).flatMap (fun t3 => (tableEntries s t3).map (fun i => s.raw128 (t3 + 16 * i))))

/-- The compression scheme of a page: that of the leaf by which its VI reaches it, if one does. -/
def pageScheme (s : State) (vi a : Nat) : Option Nat :=
  ((leavesOf s (dieOfGpa a) vi).find? (fun l => Leaf.p l && Leaf.win l == 0 && Leaf.frame l == a / 65536)).map Leaf.cmp

/-- A page's side-table entry, where the side table lies in TBL pages (R162). -/
def sideLens (s : State) (vi a : Nat) : Nat :=
  let e := sideEntry s vi a
  if populated (offOfGpa e) && (s.own e).tbl then (s.raw128 e).toNat else 0

/-- The stored length of block k of a page (R113). Where no leaf of its VI names the page, a length other than 0 is held to be
the block's, and a block of no such length to be raw (DEDUCED, log entry 16). -/
def storedLen (scheme : Option Nat) (lens slens k : Nat) : Nat :=
  let inl := lens / 64 ^ k % 64
  let side := slens / 64 ^ k % 64
  match scheme with
  | some 0 => 64
  | some n => (if n == 5 || n == 6 then side else inl) + 1
  | none => if inl != 0 then inl + 1 else if side != 0 then side + 1 else 64

/-- The stored lines of a page; the lines of a block beyond its stored length are zero (R389). -/
def pageImage (s : State) (scheme : Option Nat) (a lens slens : Nat) : List Line :=
  (List.range 1024).map (fun i =>
    if i % 64 < storedLen scheme lens slens (i / 64) then s.mem.raw (a / 64 + i) else 0)

/-- Bytes 0 to 95 of a trailer. -/
def trailerFront (a : Nat) (o : Own) (lens slens : Nat) (image : List Line) : List Byte :=
  leBytes 8 a ++ leBytes 4 o.version.toNat ++ [o.vi, if o.prot then 1 else 0] ++ leBytes 2 0 ++ leBytes 16 lens ++
  leBytes 4 0 ++ leBytes 16 slens ++ leBytes 12 0 ++ leBytes 32 (shake256 (image.flatMap lineBytes)).toNat

def trailerTag (s : State) (p vi : Nat) (prot : Bool) (front : List Byte) : List Byte :=
  if prot then leBytes 32 (shake256 (saveKey s p vi ++ front)).toNat else leBytes 32 0

/-- The accessor that reads requests and buffers: VI 0, on die 0 of the package for a request of the bring-up. -/
abbrev Buffer := Accessor

/-- Lines written to a buffer from an address on. -/
def putBuffer (s : State) (b : Buffer) (va : Nat) : List Line → Except Fail State
  | [] => .ok s
  | x :: r => match accWrite s b .write va maskAll x with
    | .error e => .error e
    | .ok s => putBuffer s b (va + 64) r

/-- n lines read from a buffer. -/
def getBuffer (s : State) (b : Buffer) (va : Nat) : Nat → Except Fail (List Line)
  | 0 => .ok []
  | n + 1 => match accRead s b .read va with
    | .error e => .error e
    | .ok x => match getBuffer s b (va + 64) n with
      | .error e => .error e
      | .ok r => .ok (x :: r)

/-- What reads of a buffer's lines leave at their targets. -/
def meetBuffer (s : State) (b : Buffer) (va n : Nat) : State :=
  (List.range n).foldl (fun s i => afterAccess s b .read (va + 64 * i) false) s

/-- The lines of a page read: their errors are found (R110). -/
def readPage (s : State) (a : Nat) : State :=
  if s.errors.isEmpty then s else (List.range 1024).foldl (fun s i => readError s (a / 64 + i)) s

/-- A line of a page is poisoned. -/
def pagePoison (s : State) (a : Nat) : Bool := s.poison.any (fun e => e.1 / 1024 == a / 65536)

def vimapEvict (s : State) (p : Nat) (b : Buffer) (r : VReq) : VStatus × State :=
  let a := r.index
  let buf := r.dword 0
  if !pageOk p a || buf % 64 != 0 then refuse s 3
  else
    let o := s.own a
    if !o.valid || o.vi.toNat != r.vi then refuse s 7
    else if o.tbl || o.evicted then refuse s 4
    else
      let s := readPage s a
      if pagePoison s a then refuse s 4
      else
      let o := { o with version := o.version + 1, evicted := true }
      let lens := pageLens s a
      let slens := sideLens s o.vi.toNat a
      let image := pageImage s (pageScheme s o.vi.toNat a) a lens slens
      let front := trailerFront a o lens slens image
      let trailer := front ++ trailerTag s p o.vi.toNat o.prot front
      match putBuffer s b buf (image ++ [lineOf trailer, lineOf (trailer.drop 64)]) with
      | .error _ => refuse s 3
      | .ok s => doneOp (invalidate (s.setOwn a o) p (fun (x : Xlat) => x.onFrame (a / 65536)))

/-- The fields of a trailer's 128 bytes. -/
structure Trailer where
  bytes : List Byte
  deriving DecidableEq, Repr

def Trailer.num (t : Trailer) (off n : Nat) : Nat := leNat ((t.bytes.drop off).take n)
def Trailer.prot (t : Trailer) : Bool := t.num 13 1 % 2 == 1
def Trailer.man (t : Trailer) : Bool := t.num 13 1 / 2 % 2 == 1

/-- The virtual coordinates of a die for a VI: those of a valid entry that names the die (R167). -/
def vdieOf (s : State) (die vi : Nat) : Option Nat :=
  (((s.die die).coreMap.filter (fun e => e.1 / 65536 == vi && ceValid e.2 && ceDie e.2 == die)).head?).map
    (fun e => ceVdie e.2)

/-- Step 5 of R390: the manifest's entry names this die and this image. -/
def manifestOk (s : State) (p die : Nat) (t : Trailer) (vi : Nat) : Bool :=
  let m := t.num 14 2
  if !Table.has (s.pkg p).manifests m then false
  else
    let x := Table.get (s.pkg p).manifests m ⟨voidPen, 0, 0, 0, []⟩
    x.pen == s.penOf p vi &&
    (match x.entries[t.num 32 4]?, vdieOf s die vi with
     | some e, some v => e.1 == v && e.2.toNat == t.num 64 32
     | _, _ => false)

/-- The first failing check of steps 2 to 5, 0 for none. -/
def returnCode (s : State) (p a : Nat) (o : Own) (t : Trailer) (image : List Line) : Nat :=
  if t.num 8 4 != o.version.toNat then fVersion
  else if t.num 64 32 != (shake256 (image.flatMap lineBytes)).toNat then fIntegrity
  else if !t.man && o.prot &&
      !(t.prot && t.bytes.drop 96 == trailerTag s p o.vi.toNat true (t.bytes.take 96)) then fIntegrity
  else if t.man && !manifestOk s p (dieOfGpa a) t o.vi.toNat then fIntegrity
  else 0

/-- A page's waits, by the page their address reaches. -/
def waitsOn (s : State) (vi a : Nat) (w : PageWait) : Bool :=
  w.code == fPage && pageReached s w.die vi w.va.toNat == some (a / 65536)

/-- A wait by which its context is WAITING: one of S or of M, or that of a command on which a CRES stalls (R285, R348). -/
def Ctx.heldBy (c : Ctx) (w : PageWait) : Bool := w.kind != .engine || c.blocked == .command w.cmd

/-- The waits that a test selects receive a code: a command ends with it, and a stream raises it when it next runs (R348). -/
def Ctx.failWaits (c : Ctx) (hit : PageWait → Bool) (code : Nat) : Ctx :=
  let ofEngine := fun (w : PageWait) => w.kind == .engine && hit w
  let c := (c.waits.filter ofEngine).foldl (fun c w =>
    { c.resumeCmd w (fun done => .failing done code) with
      blocked := if c.blocked == .command w.cmd then .nothing else c.blocked }) c
  { c with waits := (c.waits.filter (fun w => !ofEngine w)).map (fun w =>
      if hit w then { w with state := .failed, code := code } else w) }

/-- Pauses at addresses that a test selects are failed with a code (R390). -/
def failPausesAt (l : List CommitPause) (at_ : Nat → Bool) (code : Nat) : List CommitPause :=
  l.map (fun q => if q.failed.isNone && at_ q.va.toNat then { q with failed := some code } else q)

/-- A returned page that failed: its waiting accesses receive the code, those of commits among them, and for a VI with
PROT = 1 it ends each context that is WAITING for the page (R124, R390). -/
def failReturn (s : State) (vi a code : Nat) (prot : Bool) : State :=
  let hit := fun (w : PageWait) => w.state == .waiting && waitsOn s vi a w
  let mine := fun (c : Ctx) => c.status != .empty && c.vi.toNat == vi
  let reached := fun (d va : Nat) => pageReached s d vi va == some (a / 65536)
  let ends := if prot then (s.ctxs.filter (fun e => mine e.2 && e.2.waits.any (fun w => hit w && e.2.heldBy w))).map Prod.fst
    else []
  let s := ends.foldl (fun s k =>
      match (s.ctx k).waits.find? (fun w => hit w && (s.ctx k).heldBy w) with
      | none => s
      | some w => endContext s k (endRec s k 0 code w.stream.code w.pc.toNat w.va.toNat) false) s
  let s := { s with ctxs := Table.mapIf s.ctxs (fun _ (c : Ctx) => mine c) (fun (c : Ctx) =>
    { c.failWaits hit code with paused := failPausesAt c.paused (reached c.die) code }) }
  wakeAllWaits { s with groups := s.groups.map (fun (g : Group) =>
    if g.vi.toNat == vi then { g with paused := failPausesAt g.paused (reached g.die) code } else g) }

/-- A returned page that passed: its lines under the owning pennant, LEN, the side-table entry, and EVICTED cleared. -/
def acceptReturn (s : State) (p a : Nat) (o : Own) (t : Trailer) (image : List Line) : State :=
  let vi := o.vi.toNat
  let s := { s.sound (a / 64) 1024 with mem := putLines s.mem (s.penOf p vi) (a / 64) image }
  let s := (List.range 16).foldl (fun s k =>
    s.setLen (a / 64 + 64 * k) (BitVec.ofNat 6 (t.num 16 16 / 64 ^ k))) s
  let e := sideEntry s vi a
  let s := if populated (offOfGpa e) && (s.own e).tbl then pokeEntry s e (BitVec.ofNat 128 (t.num 36 16)) else s
  let s := invalidate (s.setOwn a { o with evicted := false }) p (fun (x : Xlat) => x.onFrame (a / 65536))
  answer s vi (waitsOn s vi a) (fun d va => pageReached s d vi va == some (a / 65536))

def vimapReturn (s : State) (p : Nat) (b : Buffer) (r : VReq) : VStatus × State :=
  let a := r.index
  let buf := r.dword 0
  if !pageOk p a || buf % 64 != 0 then refuse s 3
  else match getBuffer s b buf 1026 with
    | .error _ => refuse (meetBuffer s b buf 1026) 3
    | .ok ls =>
      let s := meetBuffer s b buf 1026
      let o := s.own a
      let image := ls.take 1024
      let t : Trailer := ⟨(ls.drop 1024).flatMap lineBytes⟩
      if !o.evicted then refuse s 4
      else if t.num 0 8 != a || t.num 12 1 != o.vi.toNat || t.num 13 1 / 4 != 0 || t.num 28 4 != 0 || t.num 52 12 != 0 then
        refuse s 7
      else
        let code := returnCode s p a o t image
        (.done code, if code == 0 then acceptReturn s p a o t image else failReturn s o.vi.toNat a code (viProt ((s.pkg p).vi o.vi.toNat)))

/-! ### FAIL -/

/-- A wait of the VI's contexts in the package with the SEQ given, and its context. -/
def waitBySeq (s : State) (p vi seq : Nat) : Option (Nat × PageWait) :=
  s.ctxs.findSome? (fun e =>
    if e.2.isOf p vi then (e.2.waits.find? (fun w => w.seq == seq && w.state == .waiting)).map (fun w => (e.1, w)) else none)

def failPauses (l : List CommitPause) (seq : Nat) : List CommitPause :=
  l.map (fun q => if q.seq == seq then { q with failed := some fPage } else q)
def pausedAt (l : List CommitPause) (seq : Nat) : Bool := l.any (fun q => q.seq == seq && q.failed.isNone)

/-- FAIL marks the access failed; the context raises its code when it next runs (R348), a command completes with it, and
a paused commit drops its line. -/
def vimapFail (s : State) (p : Nat) (r : VReq) : VStatus × State :=
  let seq := r.index
  match waitBySeq s p r.vi seq with
  | some (k, w) =>
    if w.kind == .engine then
      let s := s.modCtx k (fun c =>
        { (c.resumeCmd w (fun done => .failing done w.code)) with
          waits := c.waits.filter (fun x => !(x.seq == seq && x.kind == .engine)) })
      doneOp (s.act (.engineTakeCommand k w.cmd))
    else
      let s := s.modCtx k (fun c =>
        { c with waits := c.waits.map (fun x => if x.seq == seq then { x with state := .failed } else x) })
      doneOp (wake s k)
  | none =>
    match s.ctxs.find? (fun e => e.2.isOf p r.vi && pausedAt e.2.paused seq) with
    | some (k, _) => doneOp (s.modCtx k (fun c => { c with paused := failPauses c.paused seq }))
    | none =>
      match s.groups.find? (fun g => g.vi.toNat == r.vi && pkgOf g.die == p && pausedAt g.paused seq) with
      | some g => doneOp ((s.setGroup { g with paused := failPauses g.paused seq }).act (.commitComplete g.n))
      | none => refuse s 4

/-! ### VIENT (R163, R164) -/

/-- No reserved bit is set, STATE is not the reserved value, and CLB is in range (R164). -/
def viWellFormed (e : BitVec 1024) : Bool :=
  field e 736 288 == 0 && field e 731 5 == 0 && viState e != 3 && 4 ≤ viClb e && viClb e ≤ 20

def overlap (a n b m : Nat) : Bool := n != 0 && m != 0 && a < b + m && b < a + n

/-- Another VI that is ACTIVE or CLOSING has queues or doors among the entry's. -/
def viOverlaps (k : Pkg) (vi : Nat) (e : BitVec 1024) : Bool :=
  k.viMap.any (fun x => x.1 != vi && (viState x.2 == 1 || viState x.2 == 2) &&
    (overlap (viQfirst e) (viQcount e) (viQfirst x.2) (viQcount x.2) ||
     overlap (viDfirst e) (viDcount e) (viDfirst x.2) (viDcount x.2)))

/-- The fields whose change moves a locked interface to ERROR: ROOT0, ROOT1, CBASE and the queue and door ranges. -/
def tdispFields (e : BitVec 1024) : BitVec 192 × BitVec 64 := (e.extractLsb' 0 192, e.extractLsb' 656 64)

/-- The interface of a VI whose map entry changes (R409). -/
def viChanged (k : Pkg) (vi : Nat) (e : BitVec 1024) : Pkg :=
  let st := Table.get k.tdisp vi .unlocked
  if (st == .locked || st == .run) && tdispFields e != tdispFields (k.vi vi) then
    { k with tdisp := Table.put k.tdisp vi .error }
  else k

/-- VIENT restarts the VI's fault SEQ (R343) and, for a protected tenancy, draws its save key (R351). -/
def vimapVient (s : State) (p : Nat) (r : VReq) : VStatus × State :=
  if !viWellFormed r.data then refuse s 2
  else if viOverlaps (s.pkg p) r.vi r.data then refuse s 5
  else
    let (n, s) := if viProt r.data then s.takeFresh else (0, s)
    doneOp ((invalidate s p (fun x => penVi x.pen == r.vi)).modPkg p (fun k =>
      { viChanged k r.vi r.data with
        viMap := Table.put k.viMap r.vi r.data, faultSeq := Table.put k.faultSeq r.vi 0,
        saveKeys := if viProt r.data then Table.put k.saveKeys r.vi (Sys2Proof.Config.random n) else k.saveKeys }))

/-! ### CORE, QUEUE, DOOR, WINDOW -/

/-- VDIE of an entry agrees with the VI's other valid entries of the copy (R167). An entry written with V = 0 names no
virtual core and is not compared (DESIGN CHOICE, log entry 58). -/
def vdieAgrees (d : Die) (vi vcn : Nat) (e : Line) : Bool :=
  !ceValid e ||
  d.coreMap.all (fun x => x.1 / 65536 != vi || x.1 % 65536 == vcn || !ceValid x.2 ||
    (ceDie x.2 == ceDie e) == (ceVdie x.2 == ceVdie e))

/-- A core-map entry as the device keeps it: reserved bits are ignored (R5). -/
def coreFields (e : Line) : Line :=
  (List.range 16).foldl (fun e i => setField e (16 * i + 13) 2 0) (setField e 280 209 0)

/-- The live environment entries of a core that a tenancy made under a virtual core (R106). -/
def liveEnvs (s : State) (ck : Nat) (pen : Pen) (vcn : Nat) : List (Nat × Env) :=
  (s.core ck).env.filter (fun e => e.2.used && e.2.vcn.toNat == vcn && e.2.pen == pen)

/-- None of their indices is live on a core. -/
def envRoom (s : State) (ck : Nat) (es : List (Nat × Env)) : Bool :=
  es.all (fun e => let x := (s.core ck).envAt e.1; !x.used || !(s.pkg (pkgOf (dieOfCore ck))).current x.pen)

/-- Environment entries go from one core to another, at the same indices. -/
def moveEnvs (s : State) (src dst : Nat) (es : List (Nat × Env)) : State :=
  let s := s.modCore src (fun x => es.foldl (fun x e => x.setEnv e.1 { e.2 with used := false, pen := voidPen }) x)
  s.modCore dst (fun x => es.foldl (fun x e => x.setEnv e.1 e.2) x)

/-- The move a written entry makes of its virtual core between physical cores of the package: from where, and to where. It
is made by the copy of the die that holds the virtual core, whose entry alone resolves it (R166). -/
def coreMove (p die : Nat) (old new : Line) : Option (Nat × Nat) :=
  let src := coreKey (ceDie old) (ceCore old)
  let dst := coreKey (ceDie new) (ceCore new)
  if ceValid old && ceValid new && ceDie old == die && pkgOf (ceDie new) == p && src != dst then some (src, dst) else none

/-- VIMAP CORE. R166 gives the range of CORE, and R14 that of DIE, and no refusal: the model refuses a value outside it with
reason 2. A move that a live environment index bars is refused with reason 4 (DESIGN CHOICE, log entry 58). -/
def vimapCore (s : State) (p : Nat) (r : VReq) : VStatus × State :=
  let e := coreFields r.line
  let v := (s.pkg p).vi r.vi
  if !r.dieOk p || viVcores v ≤ r.index then refuse s 3
  else if 144 ≤ ceCore e || dieCount ≤ ceDie e || !vdieAgrees (s.die r.die) r.vi r.index e then refuse s 2
  else if (List.range 16).any (fun i => ceBind e i / 32768 == 1 && viQcount v ≤ ceBind e i % 8192) then refuse s 3
  else
    let put := fun (s : State) =>
      s.modDie r.die (fun d => { d with coreMap := Table.put d.coreMap (65536 * r.vi + r.index) e })
    match coreMove p r.die ((s.die r.die).coreEntry r.vi r.index) e with
    | none => doneOp (put s)
    | some (src, dst) =>
      let es := liveEnvs s src (s.penOf p r.vi) r.index
      if envRoom s dst es then doneOp (moveEnvs (put s) src dst es) else refuse s 4

/-- A queue or door descriptor is current in its owner's generation and holds something. -/
def queueHolds (k : Pkg) (d : Line) : Bool := k.current (qPen d) && (qTail d != qHead d || field d 52 3 != 0)
def doorHolds (k : Pkg) (d : Line) : Bool := k.current (dPen d) && dTail d != dHead d

/-- BASE, CAP, PRIO and EN of one descriptor put into another. -/
def queueFields (new old : Line) : Line :=
  let d := setField (setField old 448 64 (qBase new)) 60 4 (field new 60 4)
  setField (setField d 58 2 (qPrio new)) 55 1 (field new 55 1)

def vimapQueue (s : State) (p : Nat) (r : VReq) : VStatus × State :=
  let q := r.index
  if 8192 ≤ q then refuse s 3
  else if 10 < field r.line 60 4 || qBase r.line % (64 * qCap r.line) != 0 then refuse s 2
  else
    let old := (s.pkg p).queue q
    let new := queueFields r.line old
    if (qBase new != qBase old || qCap new != qCap old) && (queueHolds (s.pkg p) old || (s.pkg p).sideCount q != 0) then
      refuse s 4
    else
      let s := s.modPkg p (fun k => k.setQueue q new)
      doneOp (if qEn new && (s.pkg p).heldPushes.any (fun h => h.queue == q) then s.act (.heldPushEnter p q) else s)

/-- BASE, DIR, CAP, VEC and EN of one descriptor put into another. -/
def doorFields (new old : Line) : Line :=
  let d := setField (setField (setField old 448 64 (dBase new)) 63 1 (field new 63 1)) 59 4 (field new 59 4)
  setField (setField d 48 11 (dVec new)) 47 1 (field new 47 1)

def vimapDoor (s : State) (p : Nat) (r : VReq) : VStatus × State :=
  let n := r.index
  if 32768 ≤ n then refuse s 3
  else if 8 < field r.line 59 4 || dBase r.line % (64 * dCap r.line) != 0 then refuse s 2
  else
    let old := (s.pkg p).door n
    let new := doorFields r.line old.desc
    if (dBase new != dBase old.desc || dCap new != dCap old.desc || dOut new != dOut old.desc) &&
        doorHolds (s.pkg p) old.desc then refuse s 4
    else
      let s := s.modPkg p (fun k => k.setDoor n { old with desc := new })
      doneOp (match ownerOf (s.pkg p) viDfirst viDcount n with
        | some v => serveDoor s p v n
        | none => s)

/-- VIMAP WINDOW; reserved bits are ignored (R5). -/
def vimapWindow (s : State) (p : Nat) (r : VReq) : VStatus × State :=
  let e : BitVec 128 := r.data.extractLsb' 0 128
  if r.index == 0 || 64 ≤ r.index || !r.dieOk p then refuse s 3
  else
    let e := setField (setField (setField e 96 17 0) 46 18 0) 0 16 0
    doneOp ((invalidate s p (fun x => penVi x.pen == r.vi && Leaf.win x.leaf == r.index)).modDie r.die (fun d =>
      { d with windows := Table.put d.windows (64 * r.vi + r.index) e }))

/-! ### KEY, ROUTE, MCAST -/

def keyState (h : Dword) : Nat := field h 46 2
def keyPen (h : Dword) : Pen := h.extractLsb' 48 16

def vimapKey (s : State) (p : Nat) (r : VReq) : VStatus × State :=
  let n := r.index
  let h : Dword := r.data.extractLsb' 0 64
  if 4096 ≤ n then refuse s 3
  else if 1 < keyState h || field h 0 45 != 0 then refuse s 1
  else
    let k := s.pkg p
    let old := (Table.get k.keys n .reset).hdr
    let cur := keyState old != 0 && k.current (keyPen old)
    if keyState h == 1 then
      if cur then refuse s 4
      else
        let new : Dword := setField (setField h 48 16 (k.pen r.vi).toNat) 46 2 1
        doneOp (s.modPkg p (fun k => { k with keys := Table.put k.keys n ⟨new, 0⟩ }))
    else if cur && keyState old == 1 && penVi (keyPen old) != r.vi then refuse s 7
    else if !cur || keyState old != 1 then refuse s 4
    else doneOp (s.modPkg p (fun k => { k with keys := Table.drop k.keys n }))

/-- The link dimension order gives from one die to another, 6 for the die itself (R368). -/
def linkTo (own target : Nat) : Nat :=
  let step := fun (a b n base : Nat) => let d := (b + n - a) % n; if d ≤ n / 2 then base else base + 1
  if dieX own != dieX target then step (dieX own) (dieX target) 16 0
  else if dieY own != dieY target then step (dieY own) (dieY target) 24 2
  else if dieZ own != dieZ target then step (dieZ own) (dieZ target) 24 4
  else 6

/-- VIMAP ROUTE. R368 has the reserved field checked and names no reason: the model takes 2 (DESIGN CHOICE, log entry
58). -/
def vimapRoute (s : State) (p : Nat) (r : VReq) : VStatus × State :=
  let w : Word := r.data.extractLsb' 0 32
  if dieCount ≤ r.index || !r.dieOk p then refuse s 3
  else if field w 0 24 != 0 ||
      (routeP w && (routeLink w != linkTo r.die r.index || routeAlt w == routeLink w || 6 ≤ routeAlt w)) then refuse s 2
  else doneOp (s.modDie r.die (fun d =>
    { d with routes := Table.put d.routes r.index (setField w 24 1 (routeDet (routeOf d r.index)).toNat) }))

def mcCount (e : BitVec 1024) : Nat := field e 32 6
def mcPen (e : BitVec 1024) : Pen := e.extractLsb' 48 16
def mcValid (e : BitVec 1024) : Bool := e.getLsbD 0
def mcMembers (e : BitVec 1024) : List Nat := (List.range (mcCount e)).map (fun i => field e (512 + 16 * i) 16)

/-- The dies of a package on which some entry of the VI's core map is valid. -/
def mapDies (s : State) (p vi : Nat) : List Nat :=
  [die0 p, die1 p].filter (fun d => (s.die d).coreMap.any (fun e => e.1 / 65536 == vi && ceValid e.2))

/-- VIMAP MCAST; reserved bits are ignored (R5). R174 gives the range of COUNT and no refusal: the model refuses a COUNT
outside it with reason 2 (DESIGN CHOICE, log entry 58). -/
def vimapMcast (s : State) (p : Nat) (r : VReq) : VStatus × State :=
  let e := setField (setField (setField r.data 1 31 0) 38 10 0) 64 448 0
  let ms := mcMembers e
  if 64 ≤ r.index then refuse s 3
  else if mcCount e == 0 || 32 < mcCount e || !decide ms.Nodup ||
      (mapDies s p r.vi).any (fun d => ms.any (fun v => !ceValid ((s.die d).coreEntry r.vi v))) then refuse s 2
  else doneOp (s.modPkg p (fun k =>
    { k with mcast := Table.put k.mcast (64 * r.vi + r.index) (setField e 48 16 (k.pen r.vi).toNat) }))

/-! ### The instruction -/

/-- The table operations; any other is refused with reason 1. -/
inductive VOpcode where
  | leaf | link | own | evict | ret | fail | vient | core | queue | door | window | key | route | mcast | tblpg
  deriving DecidableEq, Repr

def VOpcode.of (n : Nat) : Option VOpcode :=
  match n with
  | 1 => some .leaf | 2 => some .link | 3 => some .own | 4 => some .evict | 5 => some .ret | 6 => some .fail
  | 7 => some .vient | 8 => some .core | 9 => some .queue | 10 => some .door | 11 => some .window | 12 => some .key
  | 13 => some .route | 14 => some .mcast | 15 => some .tblpg | _ => none

/-- An operation whose effect has been selected. -/
def vimapOp (o : VOpcode) (s : State) (p : Nat) (b : Buffer) (r : VReq) : VStatus × State :=
  match o with
  | .leaf => vimapLeaf s p r
  | .link => vimapLink s p r
  | .own => vimapOwn s p r
  | .evict => vimapEvict s p b r
  | .ret => vimapReturn s p b r
  | .fail => vimapFail s p r
  | .vient => vimapVient s p r
  | .core => vimapCore s p r
  | .queue => vimapQueue s p r
  | .door => vimapDoor s p r
  | .window => vimapWindow s p r
  | .key => vimapKey s p r
  | .route => vimapRoute s p r
  | .mcast => vimapMcast s p r
  | .tblpg => vimapTblpg s p r

def State.sweep (s : State) (dn : Nat) : Sweep := (s.die dn).sweep
def State.setSweep (s : State) (dn : Nat) (f : Sweep → Sweep) : State := s.modDie dn (fun d => { d with sweep := f d.sweep })

/-- The units of a pass: those of SWTOTAL, and those of the claim halves (R188, R190; log entry 12). -/
def Sweep.extra (x : Sweep) : Nat := (x.halves.map SweepRange.count).foldl (fun a b => a + b) 0
def Sweep.target (x : Sweep) : Nat := x.total.toNat + x.extra

/-! ### The end of a pass (R189) -/

def Sweep.finished (x : Sweep) : Bool := x.run && x.target ≤ x.prog.toNat
def Sweep.stop (x : Sweep) : Sweep := { x with run := false, pass := satInc x.pass }

/-- RCNT falls by SNAP, and CLOSING VIs without retired generations become FREE. -/
def Pkg.endPass (k : Pkg) : Pkg :=
  let k := { k with gens := k.gens.map (fun (v, g) => (v, setField (setField g 16 8 (genRcnt g - genSnap g)) 8 8 0)) }
  { k with viMap := k.viMap.map (fun (v, e) => (v, if viState e == 2 && genRcnt (k.gen v) == 0 then setViState e 0 else e)) }

/-- The entries of cq and rq that a shutter has left stale are void, with all else of the SNAP generations (R91). -/
def voidStale (s : State) (p : Nat) : State :=
  let gone := fun (e : Bool × Cmd) => (s.pkg p).inSnap (cmdPen e.2.words)
  { s with cores := Table.mapIf s.cores (fun ck c => pkgOf (dieOfCore ck) == p && c.stale.any gone)
             (fun c => { c with stale := c.stale.filter (fun e => !gone e) }) }

/-- The end of a pass, with the shutters of resets that waited for it (R360). -/
def sweepPassEnd (p : Nat) (s : State) : State :=
  if !(s.sweep (die0 p)).finished || !(s.sweep (die1 p)).finished then s
  else
    let s := (s.setSweep (die0 p) Sweep.stop).setSweep (die1 p) Sweep.stop
    let s := (voidStale s p).modPkg p Pkg.endPass
    (s.pkg p).flrPending.foldl (fun s v => s.act (.flrShutterResume p (BitVec.ofNat 8 v))) s

/-- ROUTE and TBLPG ignore the VI field. -/
def VOpcode.named (o : VOpcode) : Bool := o != .route && o != .tblpg

/-- A request performed in a package (R342, R164), after the end of a pass that is due in the same cycle (R421). -/
def vimap (s : State) (p : Nat) (b : Buffer) (r : VReq) : VStatus × State :=
  let s := sweepPassEnd p s
  if !r.clear then refuse s 1
  else match VOpcode.of r.op with
    | none => refuse s 1
    | some o =>
      if o.named && viState ((s.pkg p).vi r.vi) == 2 then (.busy, s)
      else vimapOp o s p b r

/-- The request of three lines. -/
def vreqOf (ls : List Line) : VReq := ⟨ls.getD 0 0, (ls.getD 2 0) ++ (ls.getD 1 0)⟩

/-! ### Completion (R123, R162, R172, R337) -/

/-- What is outstanding of accesses that have used the tables of a package, of one VI or of all: requests of its dies that
have been sent and not answered, those of S among them, and packets of its dies that are still on their way. `tiles`: the
deliveries into tiles too, from where the core map or a multicast group has named their targets until they end. -/
def pendingUses (s : State) (p : Nat) (vi : Option Nat) (tiles : Bool) : List Use :=
  let of := fun (v : Nat) => match vi with | some w => v == w | none => true
  let here := fun (d : Nat) => pkgOf d == p
  [die0 p, die1 p].flatMap (fun d => ((s.router d).requests.filter (fun q => (q.state == .sent || tiles) &&
    of (penVi q.msg.pen))).map (fun q => (q.pkt.n, 0))) ++
  (s.packets.filter (fun x => here x.src && of (penVi x.pen) && x.type.any (fun t => !t.response))).map (fun x => (x.n, 0)) ++
  s.ctxs.flatMap (fun e => if !here e.2.die || !of e.2.vi.toNat then [] else
    (match e.2.lost with
      | some l => [(e.2.id, 65536 + l.seq.toNat)]
      | none => []) ++
    (if tiles then (e.2.cmds.filter (fun m => !m.far.isEmpty)).map (fun m => (e.2.id, m.seq.toNat)) else [])) ++
  (if tiles then (s.deliveries.filter (fun x => here x.die && of x.vi.toNat && x.state != .complete && x.state != .ended)).map
    (fun x => (x.n, 0)) else [])

/-- Some of the uses is still outstanding. -/
def stillUsed (s : State) (p : Nat) (us : List Use) : Bool :=
  let left := pendingUses s p none true
  us.any (fun u => left.contains u)

/-- A privileged operation has been performed: sD is written at once where nothing that used what it has changed is
outstanding, else once the last of that has ended. Until then it stalls S, and a pre-emption waits for it. -/
def settleS (d : Reg) (st : VStatus) (vi : Option Nat) (tiles : Bool) (s : State) : State :=
  match st with
  | .done _ =>
    let ns := pendingUses s s.cur.pkg vi tiles
    if ns.isEmpty then (s.wS d st.word).nextS
    else s.modCur (fun c => { c with inside := .settling c.pcS st.word ns, begun := true })
  | _ => (s.wS d st.word).nextS

/-- A privileged word at S: the operation, unless S stands in it, having performed it. -/
def settled (d : Reg) (f : State → State) (s : State) : State :=
  match s.cur.inside with
  | .settling pc w ns =>
    if pc != s.cur.pcS then f s
    else if stillUsed s s.cur.pkg ns then stall s
    else ((s.modCur (fun c => { c with inside := .nothing, begun := false })).wS d w).nextS
  | _ => f s

/-- The VI whose requests a table operation waits for: all of them for ROUTE and TBLPG. -/
def VReq.waitsFor (r : VReq) : Option Nat :=
  match VOpcode.of r.op with
  | some o => if o.named then some r.vi else none
  | none => none

/-- The request changes what deliveries into tiles have used: CORE and MCAST. -/
def VReq.ofTiles (r : VReq) : Bool :=
  match VOpcode.of r.op with
  | some .core => true
  | some .mcast => true
  | _ => false

/-- VIMAP: PERM outside VI 0, ALIGN, the read of the request as S loads, the operation and its status (R341). -/
def vimapS (d a : Reg) : State → State := settled d (fun s =>
  let va := (s.rS a).toNat
  if s.cur.vi != 0 then s.fault .s fPerm 0
  else if va % 64 != 0 then s.fault .s fAlign va
  else match viewLines s s.focus.key va 3 with
    | .error (f, at_) => s.failAccess .s .read f at_
    | .ok (ls, s) =>
      let r := vreqOf ls
      let (st, s) := vimap s s.cur.pkg (s.cur.accessor s) r
      settleS d st r.waitsFor r.ofTiles s)

/-- Each row of the opcode table is VIMAP with a request of its OP. -/
def execVimapLeaf (d a : Reg) (s : State) : Result := .next (vimapS d a s)
def execVimapLink (d a : Reg) (s : State) : Result := .next (vimapS d a s)
def execVimapOwn (d a : Reg) (s : State) : Result := .next (vimapS d a s)
def execVimapEvict (d a : Reg) (s : State) : Result := .next (vimapS d a s)
def execVimapReturn (d a : Reg) (s : State) : Result := .next (vimapS d a s)
def execVimapFail (d a : Reg) (s : State) : Result := .next (vimapS d a s)
def execVimapVient (d a : Reg) (s : State) : Result := .next (vimapS d a s)
def execVimapCore (d a : Reg) (s : State) : Result := .next (vimapS d a s)
def execVimapQueue (d a : Reg) (s : State) : Result := .next (vimapS d a s)
def execVimapDoor (d a : Reg) (s : State) : Result := .next (vimapS d a s)
def execVimapWindow (d a : Reg) (s : State) : Result := .next (vimapS d a s)
def execVimapKey (d a : Reg) (s : State) : Result := .next (vimapS d a s)
def execVimapRoute (d a : Reg) (s : State) : Result := .next (vimapS d a s)
def execVimapMcast (d a : Reg) (s : State) : Result := .next (vimapS d a s)
def execVimapTblpg (d a : Reg) (s : State) : Result := .next (vimapS d a s)

end Sys2Proof.Machine
end

