-- ==== Sys2Proof/Machine/System.lean ====
section
/-! DEFINITION. VISHUT (R187, R338, R353, R354), VIKEYZ (R172, R339) and VIREV (R340), and the parts of them that a
function-level reset performs too. -/

namespace Sys2Proof.Machine

/-! ### The shutter (R353, R354) -/

/-- The cq entries of a bank, each with its element in rq, stay in its core under the pennant they have (R91). -/
def keepEntries (s : State) (k : Nat) : State :=
  if isSlot k then s
  else s.modCore (coreOf k) (fun x => { x with stale := x.stale ++ (s.ctx k).cmds.map (fun m => (bankOf k, m)) })

/-- A context discarded: what is in flight lands, its commands stop, and nothing of it is kept but what its core owns (R91,
R353 steps 2 and 3). -/
def discardContext (s : State) (k : Nat) : State := emptyBank (cutCommands (keepEntries (drain s k) k) k true) k

/-- Every context of a VI in a package, resident or saved. -/
def contextsOf (s : State) (p vi : Nat) : List Nat := (s.ctxs.filter (fun e => e.2.isOf p vi)).map Prod.fst

def discardVi (s : State) (p vi : Nat) : State := (contextsOf s p vi).foldl discardContext s

/-- The increment: GEN becomes the next generation, RCNT one more; with CLOSE, STATE becomes CLOSING and the save key
goes (R187, R338, R351). -/
def Pkg.shut (k : Pkg) (vi : Nat) (close : Bool) : Pkg :=
  let g := k.gen vi
  let g' := setField (setField g 0 8 ((genGen g + 1) % genCount vi)) 16 8 (genRcnt g + 1)
  let k := { k with gens := Table.put k.gens vi g' }
  if close then
    { k with viMap := Table.put k.viMap vi (setViState (k.vi vi) 2), saveKeys := Table.drop k.saveKeys vi }
  else k

/-- What the increment drops: held pushes, barrier records and notices of the old generation, its groups, and the
deliveries that other packages have sent into its tiles (R149, R354, R42). -/
def dropOld (s : State) (p vi : Nat) (old : Pen) : State :=
  let s := s.modPkg p (fun k =>
    let mine := fun (q : Nat) => k.queueVi q == vi
    { k with heldPushes := k.heldPushes.filter (fun h => h.pen != old),
             barriers := k.barriers.filter (fun b => !mine b.queue),
             notices := k.notices.filter (fun n => !mine n.queue) })
  cutInbound { s with groups := s.groups.filter (fun g => !(g.pen == old && pkgOf g.die == p)) } p old

/-- The shutter of a VI in a package, its BUSY check passed. -/
def shutter (s : State) (p vi : Nat) (close : Bool) : State :=
  let old := s.penOf p vi
  let s := discardVi s p vi
  dropOld (s.modPkg p (fun k => k.shut vi close)) p vi old

/-- The next generation would reissue one of the retired window (R187). -/
def Pkg.shutBusy (k : Pkg) (vi : Nat) : Bool := genRcnt (k.gen vi) == genCount vi - 1

/-- Some key slot's PEN names a VI. -/
def Pkg.namesKey (k : Pkg) (vi : Nat) : Bool :=
  k.keys.any (fun e => keyPen e.2.hdr != voidPen && penVi (keyPen e.2.hdr) == vi)

/-- An ownership entry names a VI. -/
def Own.ownedBy (o : Own) (vi : Nat) : Bool := o.valid && o.vi.toNat == vi

/-- Some page of a package is owned by a VI. -/
def ownsPage (s : State) (p vi : Nat) : Bool :=
  [die0 p, die1 p].any (fun d => (s.die d).own.any (fun e => e.2.ownedBy vi))

/-- VISHUT (R338, R358). -/
def vishut (s : State) (p : Nat) (va fa : Dword) : VStatus × State :=
  let v := va.toNat
  let close := fa.getLsbD 0
  let k := s.pkg p
  if 256 ≤ v || 2 ≤ fa.toNat || v == 0 then refuse s 1
  else if k.shutBusy v then (.busy, s)
  else if close && (viState (k.vi v) != 1 || (viProt (k.vi v) && (k.namesKey v || ownsPage s p v))) then refuse s 4
  else
    let s := shutter s p v close
    (.done (genGen ((s.pkg p).gen v)), s)

/-! ### Keys and ownership -/

/-- VIKEYZ of every slot whose PEN names a VI: how many, and the package. -/
def Pkg.zeroKeys (k : Pkg) (vi : Nat) : Nat × Pkg :=
  let named := fun (e : Nat × KeySlot) => keyPen e.2.hdr != voidPen && penVi (keyPen e.2.hdr) == vi
  ((k.keys.filter named).length, { k with keys := k.keys.filter (fun e => !named e) })

/-- VIKEYZ (R339). The count stands in bits [63:32] of the status word. -/
def vikeyz (s : State) (p : Nat) (ka ma : Dword) : VStatus × State :=
  if ma == 0 then
    if 4096 ≤ ka.toNat then refuse s 1
    else (.done 65536, s.modPkg p (fun k => { k with keys := Table.drop k.keys ka.toNat }))
  else if ma == 1 then
    let (n, k) := (s.pkg p).zeroKeys (field ka 0 8)
    (.done (65536 * n), s.setPkg p k)
  else refuse s 1

/-- The entries of one die revoked, and how many. -/
def Die.revoke (d : Die) (vi : Nat) : Nat × Die :=
  ((d.own.filter (fun e => e.2.ownedBy vi)).length,
   { d with own := Table.mapIf d.own (fun _ (o : Own) => o.ownedBy vi) (fun o => { o with valid := false }) })

/-- VIREV of every page of a VI, on both dies; the translations cached with their entries go (R121, R340). -/
def revokeAll (s : State) (p vi : Nat) : Nat × State :=
  let (n0, x0) := (s.die (die0 p)).revoke vi
  let s := s.setDie (die0 p) x0
  let (n1, x1) := (s.die (die1 p)).revoke vi
  (n0 + n1, invalidate (s.setDie (die1 p) x1) p (fun (x : Xlat) =>
    x.own.any (fun o => o.ownedBy vi)))

/-- VIREV (R340). -/
def virev (s : State) (p : Nat) (va pa : Dword) : VStatus × State :=
  let vi := field va 0 8
  let a := pa.toNat
  if a == 0 then
    let (n, s) := revokeAll s p vi
    (.done (65536 * n), s)
  else if a % 65536 != 0 || 1152921504606846976 ≤ a then refuse s 1
  else if !pageOk p a || !(s.own a).ownedBy vi then refuse s 7
  else (.done 65536, invalidate (s.setOwn a { s.own a with valid := false }) p (fun (x : Xlat) => x.onFrame (a / 65536)))

/-! ### The instructions -/

/-- A privileged word of two register operands: PERM outside VI 0, else the operation and its status (R337). -/
def privileged (f : State → Nat → Dword → Dword → VStatus × State) (waits : Bool) (d a b : Reg) : State → State :=
  settled d (fun s =>
    if s.cur.vi != 0 then s.fault .s fPerm 0
    else
      let (st, s) := f s s.cur.pkg (s.rS a) (s.rS b)
      if waits then settleS d st none false s else (s.wS d st.word).nextS)

def execVishut (d a b : Reg) (s : State) : Result := .next (privileged vishut false d a b s)
def execVikeyz (d a b : Reg) (s : State) : Result := .next (privileged vikeyz true d a b s)
def execVirev (d a b : Reg) (s : State) : Result := .next (privileged virev true d a b s)

end Sys2Proof.Machine
end

