-- ==== Sys2Proof/Machine/SaveArea.lean ====
section
/-! DEFINITION. The save area (R33, R100, R147, R351, R352): what the device writes of a context into its save slot, region by
region. Which byte of the header and of a packed field lies where R352 leaves open (log entry 59). -/

namespace Sys2Proof.Machine

/-! ### Regions (R352) -/

/-- The values of a region and the pennants of their units, both in element order. -/
structure Region where
  bytes : List Byte
  pens : List Pen
  deriving DecidableEq, Repr

/-- The values, then the pennants, two bytes each. -/
def Region.image (r : Region) : List Byte := r.bytes ++ r.pens.flatMap (fun p => leBytes 2 p.toNat)

def Region.join (l : List Region) : Region := ⟨l.flatMap Region.bytes, l.flatMap Region.pens⟩

/-- n bytes without a pennant of their own. -/
def plainRegion (n v : Nat) : Region := ⟨leBytes n v, []⟩
def flagRegion (b : Bool) : Region := plainRegion 1 b.toNat
/-- A register in whole bytes. -/
def Tag.region {n : Nat} (t : Tag n) : Region := ⟨leBytes ((n + 7) / 8) t.val.toNat, [t.pen]⟩
def Entry.region (e : Entry) : Region := ⟨e.lanes.toList.flatMap (fun w => leBytes 4 w.toNat), [e.pen]⟩
/-- A queue of n places, oldest entry first, the places beyond its entries void. -/
def queueRegion {α : Type} (n : Nat) (void : Region) (f : α → Region) (q : List α) : Region :=
  Region.join ((List.range n).map (fun i => match q[i]? with | some x => f x | none => void))

def entriesRegion (n : Nat) (q : List Entry) : Region := queueRegion n Entry.void.region Entry.region q
def tagsRegion {w : Nat} (n : Nat) (q : List (Tag w)) : Region := queueRegion n (Tag.void (n := w)).region Tag.region q

def CtxStatus.code : CtxStatus → Nat
  | .empty => 0 | .running => 1 | .ready => 2 | .waiting => 3

def Membership.region (m : Membership) : Region :=
  Region.join [plainRegion 8 m.addr.toNat, plainRegion 4 m.index, flagRegion m.np]
def Maker.region (m : Maker) : Region :=
  Region.join [plainRegion 4 m.entry.toNat, plainRegion 4 m.mtok.toNat, plainRegion 8 m.n0.toNat, plainRegion 8 m.n1.toNat,
    plainRegion 8 m.n2.toNat]
def Loop.region (l : Loop) : Region :=
  ⟨leBytes 4 l.n.toNat ++ leBytes 1 l.s.toNat ++ leBytes 5 l.p.toNat ++ leBytes 8 l.start.toNat ++ leBytes 8 l.fin.toNat ++
    leBytes 1 l.act.toNat ++ leBytes 1 l.gbits, [l.pen]⟩
def XEntry.region (x : XEntry) : Region :=
  ⟨(Entry.region ⟨x.pen, x.lanes⟩).bytes ++ leBytes 16 x.mask.toNat, [x.pen]⟩
def SbEntry.region (e : SbEntry) : Region :=
  ⟨leBytes 8 e.line.toNat ++ lineBytes e.data ++ leBytes 8 e.mask.toNat, [e.pen]⟩
def Cmd.region (m : Cmd) : Region := ⟨lineBytes m.words, [m.pen]⟩

/-- The header: slot state, HELD, vcn, task queue, dispatched JOIN and FRAME, FINC, EV, handler state, MRS, MQW, MNX, membership
records, maker set and the last trap record. -/
def Ctx.headerRegion (c : Ctx) : Region :=
  Region.join ([plainRegion 1 c.status.code, flagRegion c.held, plainRegion 2 c.vcn.toNat, c.taskq.region,
    plainRegion 8 c.join.toNat, plainRegion 8 c.frame.toNat, plainRegion 2 c.finc.toNat, flagRegion c.ev, flagRegion c.handler,
    plainRegion 2 c.mrs, plainRegion 24 (match c.mqw with | some w => w.toNat | none => 0), plainRegion 8 ((c.mnx.bind (fun a => a)).getD 0).toNat] ++
    c.member.map Membership.region ++ c.maker.map Maker.region ++ [plainRegion 64 c.lastTrap.toNat])

/-- Registers, CSRs, the mask stack, loop states, token counts and branch-outcome queues. -/
def Ctx.registerRegion (c : Ctx) : Region :=
  Region.join (c.s.toList.map Tag.region ++ c.a.toList.map Tag.region ++ c.k.toList.map Tag.region ++
    [c.taskq.region, c.rmode.region] ++ c.c.toList.map Tag.region ++
    [c.tvec.region, c.tcause.region, c.tinfo.region, c.epcS.region, c.epcA.region, c.epcV.region, c.epcM.region,
     c.cbase.region, c.epcMN.region] ++ c.wd.toList.map Tag.region ++ c.zc.toList.map Tag.region ++
    c.rb.toList.map Entry.region ++ [tagsRegion 16 c.mask, c.loopS.region, c.loopA.region, c.loopV.region, c.loopM.region] ++
    c.tok.toList.map Tag.region ++ [tagsRegion 16 c.bqSA, tagsRegion 16 c.bqSV, tagsRegion 16 c.bqSM, tagsRegion 16 c.bqAS,
      tagsRegion 16 c.bqVS])

def Ctx.vRegion (c : Ctx) : Region := Region.join (c.v.toList.map (entriesRegion 4))

def Ctx.queuesRegion (c : Ctx) : Region :=
  Region.join (c.lq.toList.map (entriesRegion 8) ++ c.sq.toList.map (entriesRegion 8) ++ c.dq.toList.map (entriesRegion 4) ++
    [queueRegion 16 ⟨List.replicate 528 0, [voidPen]⟩ XEntry.region c.xq, tagsRegion 4 c.fq])

/-- Store buffer entries, then the commands no engine has taken. -/
def Ctx.bufferRegion (c : Ctx) : Region :=
  Region.join (c.sbuf.map SbEntry.region ++ (c.cmds.filter (fun m => m.state == .queued)).map Cmd.region)

def accRegion (a : Table Entry) : Region := Region.join ((List.range 128).map (fun i => (Table.get a i .void).region))
def Ctx.accsRegion (c : Ctx) : Region := Region.join (c.acc.toList.map accRegion)

/-- A tile's metadata word, as TSTAT gives it (R96). -/
def Ctx.tilesRegion (c : Ctx) : Region :=
  ⟨(List.range 128).flatMap (fun t => leBytes 8 (let x := Table.get c.savedTiles t .reset; x.word t x.pen).toNat),
   (List.range 32768).map (fun l => c.savedSpad.pen l)⟩

/-- A saved context's slot: each region at its offset, and the lines of its allocated tiles. -/
def Ctx.slotImage (c : Ctx) : List (Nat × List Byte) :=
  [(0x00000, c.headerRegion.image), (0x01000, c.registerRegion.image), (0x02000, c.vRegion.image),
   (0x0C000, c.queuesRegion.image), (0x16000, c.bufferRegion.image), (0x20000, c.accsRegion.image),
   (0x1E0000, c.tilesRegion.image)] ++
  c.savedTiles.map (fun e =>
    (0x200000 + 0x4000 * e.1, (List.range 256).flatMap (fun i => lineBytes (c.savedSpad.raw (tileLine e.1 i)))))

/-! ### Writing a slot (R162, R351) -/

/-- A page of the save area that the device may write: populated and TBL = 1 (R162). -/
def savePage (s : State) (a : Nat) : Bool :=
  populated (offOfGpa a) && ((s.die (dieOfGpa a)).page (pageIndex (offOfGpa a))).tbl

/-- A line of a save slot, which is written where it does not stand there yet. -/
def putSlotLine (s : State) (c : Ctx) (line : Nat) (x : Line) : State :=
  if getDevice s c.pkg c.vi.toNat line == x && s.mem.pen line == s.ctxPen c then s
  else putDevice s c.pkg c.vi.toNat (s.ctxPen c) line x

/-- The lines of a region of a save slot, from an address on, with their metadata (R110, R115, R351, R383). -/
def putSaved (s : State) (c : Ctx) (a : Nat) (bs : List Byte) : State :=
  if !savePage s a then s
  else ((groups 64 ((bs.length + 63) / 64) bs).zipIdx).foldl (fun s (b, i) => putSlotLine s c (a / 64 + i) (lineOf b)) s

/-- A context written into its save slot. -/
def writeSlot (s : State) (c : Ctx) (n : Nat) : State :=
  c.slotImage.foldl (fun s e => putSaved s c (slotBase (s.ctxVi c) n + e.1) e.2) s

/-- Each saved context's slot follows what becomes of it there: its slot state and HELD, its membership records, its stores and
its tiles (R33, R100, R131, R352). -/
def keepSlots (s : State) : State :=
  (s.ctxs.filter (fun e => isSlot e.1)).foldl (fun s e => writeSlot s e.2 (e.1 % 262144)) s

end Sys2Proof.Machine
end

