-- ==== Sys2Proof/Machine/Trace.lean ====
section
/-! DEFINITION. The records of trace units (R396, R397, R400) and the copies that produce them. -/

namespace Sys2Proof.Machine

/-! ### Records (R396, R397) -/

/-- What a record says, besides its number. -/
structure TraceRec where
  cycle : Dword
  info : Dword
  pass : Nat
  g : Nat
  stages : Nat
  vcn : Nat
  pen : Pen
  stream : Nat
  kind : Nat
  sub : Nat
  deriving DecidableEq, Repr

def TraceRec.word (r : TraceRec) (seq : Word) : BitVec 256 :=
  r.cycle ++ r.info ++ seq ++ BitVec.ofNat 33 r.pass ++ BitVec.ofNat 4 r.g ++ BitVec.ofNat 2 (r.stages - 1) ++ (0#9) ++
  BitVec.ofNat 16 r.vcn ++ r.pen ++ BitVec.ofNat 4 r.stream ++ BitVec.ofNat 4 r.kind ++ BitVec.ofNat 8 r.sub

/-- A record produced: it takes the next SEQ, and is dropped where the queue is full. TLOST stays at all ones, which R195 says of
TDELAY alone (DESIGN CHOICE, log entry 70). -/
def TraceCopy.emit (t : TraceCopy) (r : TraceRec) : TraceCopy :=
  let u := { t with tnext := t.tnext + 1 }
  if 16 ≤ t.queue.length then { u with tlost := satInc t.tlost } else { u with queue := t.queue ++ [r.word t.tnext] }

/-- The copy is set to report a record: loop kinds by stream and kind, ORDER by kind. -/
def TraceCopy.wants (t : TraceCopy) (r : TraceRec) : Bool :=
  tcTen t.tctl && tcKmask t.tctl r.kind && (r.kind == 4 || tcSmask t.tctl r.stream)

/-- A record of a context goes to those of the copies named that trace it; a seized guest copy produces none. -/
def traceTo (hyp guest : Bool) (s : State) (c : Ctx) (r : TraceRec) : State :=
  match clusterOfCtx s c with
  | none => s
  | some (cl, x) =>
    let y := if hyp && x.hypSees c && x.traceHyp.wants r then { x with traceHyp := x.traceHyp.emit r } else x
    let y := if guest && x.guestSees s c && !x.traceSeized && x.traceGuest.wants r then { y with traceGuest := x.traceGuest.emit r } else y
    s.setCluster c.die cl y
def traceEvent (s : State) (c : Ctx) (r : TraceRec) : State := traceTo true true s c r

/-- The record of an event of a context's stream. -/
def loopRec (s : State) (c : Ctx) (st : Stream) (kind sub : Nat) (info : Dword) (l : Loop) (pass g : Nat) : TraceRec :=
  ⟨s.cycleCsr c.pkg, info, pass, g, l.s.toNat, c.vcn.toNat, s.ctxPen c, st.code, kind, sub⟩

/-- An ORDER record (R400). -/
def orderEvent (s : State) (c : Ctx) (st : Stream) (sub : Nat) (info : Dword) : State :=
  let l := c.loop st
  traceEvent s c (loopRec s c st 4 sub info l l.p.toNat l.gbits)

end Sys2Proof.Machine
end

