-- ==== Sys2Proof/Machine/Transcendental.lean ====
section
/-! DEFINITION. The six transcendentals (R70): the exact results the rule lists, and for every other input the
implementation's own result, a free value, held to the rule's bound against a reference of 100 bits and more. -/

namespace Sys2Proof.Machine
open Sys2Proof.Config (Transcendental)

/-- ln 2 in units of 2^-192. -/
def ln2Fix : Nat := 4350955369971217654477563090224794165364344896676135745069

/-- The sum of the exponential series from term k on, in units of 2^-192. -/
def expSeries (r : Nat) : Nat → Nat → Nat → Nat
  | 0, _, _ => 0
  | n + 1, k, term => term + expSeries r n (k + 1) (term * r / 2 ^ 192 / (k + 1))

/-- 2^x, for a fraction. -/
def refExp2 (x : Q) : Q :=
  let n := x.num / (x.den : Int)
  let f := ((x.sub (Q.ofInt n)).mul (Q.pow2 192)).floorNat
  (Q.mul ⟨expSeries (f * ln2Fix / 2 ^ 192) 60 0 (2 ^ 192), 2 ^ 192⟩ (Q.pow2 n))

/-- e^x. -/
def refExp (x : Q) : Q := refExp2 (x.mul ⟨2 ^ 192, ln2Fix⟩)

/-- The bits of a binary logarithm by repeated squaring of m in [1, 2), in units of 2^-192. -/
def logBits : Nat → Nat → Nat
  | 0, _ => 0
  | n + 1, m =>
    let q := m * m / 2 ^ 192
    if 2 ^ 193 ≤ q then 2 ^ n + logBits n (q / 2) else logBits n q

/-- log2 x, for x > 0. -/
def refLog2 (x : Q) : Q :=
  let k := x.log2
  let m := (x.mul (Q.pow2 (192 - k))).floorNat
  (Q.ofInt k).add ⟨logBits 120 m, 2 ^ 120⟩

/-- The integer square root by bits, from bit n down. -/
def isqrtBits (v : Nat) : Nat → Nat → Nat
  | 0, a => a
  | n + 1, a => let b := a + 2 ^ n; isqrtBits v n (if b * b ≤ v then b else a)

/-- 1/√x, for x > 0 a normal or subnormal FP32 magnitude. -/
def refRsq (x : Q) : Q :=
  let v := ((Q.ofInt 1).div x).mul (Q.pow2 400)
  ⟨isqrtBits v.floorNat 300 0, 2 ^ 200⟩

/-- The exact result to far beyond FP32 precision, where R70 lists none. -/
def reference (f : Transcendental) (x : Q) : Q :=
  let clip := fun (b : Int) => if (Q.ofInt b).lt x then Q.ofInt b else if x.lt (Q.ofInt (-b)) then Q.ofInt (-b) else x
  match f with
  | .exp2 => refExp2 (clip 200)
  | .log2 => refLog2 x
  | .rcp => (Q.ofInt 1).div x
  | .rsq => refRsq x
  | .tanh =>
    let e := refExp ((clip 60).add (clip 60))
    (e.sub (Q.ofInt 1)).div (e.add (Q.ofInt 1))
  | .sig => (Q.ofInt 1).div ((Q.ofInt 1).add (refExp (clip 200).neg))

/-- The results R70 fixes, as FP32 patterns. -/
def exactResult (f : Transcendental) (x : Val) : Option Nat :=
  let inf := fun n => signed Fmt.f32 n Fmt.f32.infCode
  let zero := fun n => signed Fmt.f32 n 0
  let one := 0x3F800000
  match f, x with
  | _, .nan => some Fmt.f32.nan
  | .exp2, .zero _ => some one
  | .exp2, .inf n => some (if n then 0 else inf false)
  | .exp2, .fin q => if (Q.ofInt 128).le q then some (inf false) else none
  | .log2, .zero _ => some (inf true)
  | .log2, .inf n => some (if n then Fmt.f32.nan else inf false)
  | .log2, .fin q => if q.isNeg then some Fmt.f32.nan else if q.eq (Q.ofInt 1) then some 0 else none
  | .rcp, .zero n => some (inf n)
  | .rcp, .inf n => some (zero n)
  | .rcp, .fin _ => none
  | .rsq, .zero n => some (inf n)
  | .rsq, .inf n => some (if n then Fmt.f32.nan else 0)
  | .rsq, .fin q => if q.isNeg then some Fmt.f32.nan else none
  | .tanh, .zero n => some (zero n)
  | .tanh, .inf n => some (signed Fmt.f32 n one)
  | .tanh, .fin _ => none
  | .sig, .zero _ => some 0x3F000000
  | .sig, .inf n => some (if n then 0 else one)
  | .sig, .fin _ => none

/-- The distance of neighbouring FP32 magnitudes at a magnitude code. -/
def ulpAt (c : Nat) : Q :=
  let c := min c (Fmt.f32.infCode - 2)
  (Fmt.f32.mag (c + 1)).sub (Fmt.f32.mag c)

/-- The largest error R70 allows at input x, where `c` is the magnitude code of the exact result rounded to FP32. -/
def errorBound (f : Transcendental) (x : Q) (c : Nat) : Q :=
  let ulps := fun (n : Int) => (Q.ofInt n).mul (ulpAt c)
  let larger := fun (a b : Q) => if a.lt b then b else a
  match f with
  | .exp2 => ulps 2
  | .log2 => if (Q.pow2 (-1)).le x && x.le (Q.ofInt 2) then larger (ulps 2) (Q.pow2 (-21)) else ulps 2
  | .rcp => ulps 1
  | .rsq => ulps 1
  | .tanh => larger (ulps 2) (Q.pow2 (-23))
  | .sig => larger (ulps 2) (Q.pow2 (-23))

/-- Whether the pattern `y` is a finite value within the bound of the exact result at x. -/
def withinBound (f : Transcendental) (x : Q) (y : Nat) : Bool :=
  let r := Val.ofQ (reference f x) false
  let code := Fmt.f32.round .rne 0 false r
  let exact := Fmt.f32.decode code
  match Fmt.f32.decode y, exact with
  | .nan, _ => false
  | .inf _, .inf _ => y == code
  | .inf _, _ => false
  | _, .inf _ => false
  | v, e => ((v.toQ.sub e.toQ).abs).le (errorBound f x (code % Fmt.f32.signBit))

/-- The result of a transcendental on an FP32 pattern (R70). -/
def transcendental (f : Transcendental) (x : Word) : Word :=
  let v := Fmt.f32.decode x.toNat
  match exactResult f v with
  | some r => BitVec.ofNat 32 r
  | none =>
    let y := Config.transcendental f x
    if withinBound f v.toQ y.toNat then y
    else BitVec.ofNat 32 (Fmt.f32.round .rne 0 false (Val.ofQ (reference f v.toQ) v.isNegative))

end Sys2Proof.Machine
end

