-- ==== Sys2Proof/WellFormed.lean ====
section
/-! DEFINITION. The decode checks of R199 on field values: an instruction whose fields fail one raises ILLEGAL. -/

namespace Sys2Proof

/-! ### S and A words -/

/-- A stream code of an S word names A, V or M (R200). -/
def codeFromS (d : Reg) : Bool := 1 ≤ d.toNat && d.toNat ≤ 3
/-- A stream code of an A word names S, V or M (R203). -/
def codeFromA (d : Reg) : Bool := d.toNat == 0 || d.toNat == 2 || d.toNat == 3
/-- A register field names k0 to k7 (R200). -/
def isKReg (r : Reg) : Bool := r.toNat < 8
/-- A shift amount is 0 to 63 (R202). -/
def shiftOk (imm : BitVec 16) : Bool := imm.toNat ≤ 63
/-- A register field lies in a range of numbers. -/
def regIn (r : Reg) (lo hi : Nat) : Bool := lo ≤ r.toNat && r.toNat ≤ hi
/-- STG and LEN of the L form (R201). -/
def loopOk (stg : BitVec 3) (len : BitVec 16) : Bool := stg.toNat ≤ 3 && len.toNat != 0

/-! ### V words (R204 to R209, R293) -/

/-- An operand field that is all zero. -/
def VOperand.isZero (o : VOperand) : Bool := o.id == 0 && !o.pk && o.ofs == 0 && o.str == 0

/-- Bits [11:0] of the operand field (R205). -/
def VOperand.low12 (o : VOperand) : BitVec 12 :=
  BitVec.ofNat 12 ((if o.pk then 2048 else 0) + 16 * o.ofs.toNat + o.str.toNat)

/-- D names a v register, sq0, sq1 or zero, with no view (R205); only VSCAT, and always VSCAT, names xq (R318). -/
def VOperand.okD (o : VOperand) (scat : Bool) : Bool :=
  !o.pk && o.ofs == 0 && o.str == 0 &&
  (if scat then o.id == 0x28 else o.id.toNat < 16 || o.id == 0x24 || o.id == 0x25 || o.id == 0x29)

/-- X or Y names a v, c, lq or dq register, zero or the immediate; views and peeks stand on v, lq and dq only; a D8
immediate has bits [11:8] zero (R205). -/
def VOperand.okSrc (o : VOperand) (immD8 : Bool) : Bool :=
  let n := o.id.toNat
  if n < 16 || (0x20 ≤ n && n ≤ 0x23) || n == 0x26 || n == 0x27 then o.str.toNat ≤ 8
  else if n < 32 || n == 0x29 then !o.pk && o.ofs == 0 && o.str == 0
  else if n == 0x2A then !immD8 || o.low12.toNat < 256
  else false

/-- The Z operand in PA [12:6]: a source X may name, the immediate apart, and a peek on v, lq and dq only (R209). -/
def VWord.okZ (w : VWord) : Bool :=
  let n := w.pa.toNat / 128
  w.pa.toNat % 64 == 0 &&
  (n < 16 || (0x20 ≤ n && n ≤ 0x23) || n == 0x26 || n == 0x27 ||
   ((n < 32 || n == 0x29) && w.pa.toNat / 64 % 2 == 0))

/-- A token field names another stream or none (R206). -/
def tokenOk (own : Nat) (t : BitVec 3) : Bool := t == 0 || (4 ≤ t.toNat && t.toNat % 4 != own)
/-- A stage guard (R207). -/
def guardOk (g : BitVec 3) : Bool := g == 0 || 4 ≤ g.toNat

/-- TYPE codes of R204. -/
def tyIsFp (t : BitVec 3) : Bool := t.toNat ≤ 2
def tyIsD8 (t : BitVec 3) : Bool := t.toNat == 3
def tyIsInt (t : BitVec 3) : Bool := 4 ≤ t.toNat && t.toNat ≤ 6
/-- U is set for an integer TYPE only, and TYPE 111 is ILLEGAL. -/
def tyOk (t : BitVec 3) (u : Bool) : Bool := t.toNat ≤ 6 && (!u || tyIsInt t)

/-- What R209's table allows one opcode. -/
structure VForm where
  useD : Bool
  useX : Bool
  useY : Bool
  /-- TYPE and U are among the opcode's. -/
  types : Bool
  /-- RC may be other than 000. -/
  rounds : Bool
  sat : Bool
  msk : Bool
  /-- The per-opcode area is as the map says. -/
  pa : Bool

/-- The control fields every V word is checked for (R206, R207, R208). -/
def VWord.okCommon (w : VWord) : Bool :=
  tyOk w.ty w.u && tokenOk 2 w.tkw && tokenOk 2 w.tkp && guardOk w.grd

/-- The fields of a word against its form. `seeds` marks VRSEED, whose RB names its target; `intX` and `intY` mark the
operands R205 encodes as integer lanes; `immD8` says whether an immediate is a D8 code. -/
def VWord.okForm (w : VWord) (f : VForm) (seeds scat intX intY immD8 : Bool) : Bool :=
  w.okCommon && f.types &&
  (if f.useD then w.d.okD scat else w.d.isZero) &&
  (if f.useX then w.x.okSrc (immD8 && !intX) else w.x.isZero) &&
  (if f.useY then w.y.okSrc (immD8 && !intY) else w.y.isZero) &&
  (f.rounds || w.rc == 0) && (f.sat || !w.sat) && (f.msk || !w.msk) &&
  (w.rb == 0 || w.rc == 5 || seeds) && f.pa

/-- A word of the usual kind: D and X, no integer-lane operand. -/
def VWord.ok (w : VWord) (useY types rounds sat : Bool) (pa : Bool) : Bool :=
  w.okForm ⟨true, true, useY, types, rounds, sat, true, pa⟩ false false false false (tyIsD8 w.ty)

def VWord.pa0 (w : VWord) : Bool := w.pa == 0
/-- The zc base J of VQD8 and VQI8 (R61, R304). -/
def VWord.okZc (w : VWord) : Bool :=
  w.pa.toNat % 512 == 0 && (w.pa.toNat / 512 % 2 == 0 || w.pa.toNat / 1024 == 0 || w.pa.toNat / 1024 == 4)

/-- The control-flow words: TYPE 000 and no operand (R313, R314). -/
def VWord.okBare (w : VWord) (pa : Bool) : Bool :=
  w.okForm ⟨false, false, false, w.ty == 0, false, false, false, pa⟩ false false false false false

/-- VCVT (R301): PA [12:10] is the source TYPE and PA [9] the source U. -/
def VWord.srcTy (w : VWord) : BitVec 3 := BitVec.ofNat 3 (w.pa.toNat / 1024)
def VWord.srcU (w : VWord) : Bool := w.pa.toNat / 512 % 2 == 1
def VWord.okCvt (w : VWord) : Bool :=
  w.okForm ⟨true, true, false, !tyIsD8 w.ty && !(tyIsD8 w.srcTy && tyIsInt w.ty), true, true, true,
    w.pa.toNat % 512 == 0 && tyOk w.srcTy w.srcU⟩ false false false false (tyIsD8 w.srcTy)

/-! ### M words (R210, R211, R325) -/

/-- The fields every M word is checked for; the arguments say which optional fields the opcode uses. -/
def MWord.okForm (w : MWord) (rc sq step hsz slot drain pa : Bool) (acc : Bool) : Bool :=
  (w.rc == 0 || (rc && w.rc != 5)) && (!w.sq || sq) && w.mode.toNat ≤ 3 && (step || w.mode == 0) &&
  tokenOk 3 w.tkw && tokenOk 3 w.tkp && guardOk w.grd &&
  (acc || !w.acc) && (step && !hsz || !w.zi) && (step || !w.con) && (step || w.atile == 0) &&
  (step && !hsz || w.kt == 0) && (slot || w.wsrc == 0) && (if hsz then w.hsz != 0 else w.hsz == 0) &&
  (drain || (w.dfmt == 0 && !w.dq && w.row0 == 0 && w.nrow == 0)) && w.dfmt.toNat ≤ 3 &&
  w.row0.toNat + w.nrow.toNat ≤ 127 && pa

/-- A two-byte MODE. -/
def MWord.twoByte (w : MWord) : Bool := 2 ≤ w.mode.toNat
/-- The last A tile of a tile-step word (R210). -/
def MWord.lastTile (w : MWord) : Nat :=
  if w.twoByte then w.atile.toNat + 2 * w.kt.toNat + 1 else w.atile.toNat + w.kt.toNat
/-- The slots of an MMA exist, and a two-byte mode names even pairs (R211). -/
def MWord.okSlots (w : MWord) : Bool :=
  w.wsrc.toNat < 8 &&
  (if w.twoByte then w.wsrc.toNat % 2 == 0 && w.wsrc.toNat + 2 * w.kt.toNat + 1 ≤ 7
   else w.wsrc.toNat + w.kt.toNat ≤ 7)

def MWord.okMma (w : MWord) : Bool :=
  w.okForm false false true false true false (w.pa == 0) true && w.lastTile ≤ 127 && w.okSlots
def MWord.okMmaw (w : MWord) : Bool :=
  w.okForm false false true false true false (w.pa == 0) true && w.lastTile ≤ 127 && w.wsrc.toNat / 4 == 2
def MWord.okBare (w : MWord) (sq acc pa : Bool) : Bool := w.okForm false sq false false false false pa acc

/-- The low bits of PA that an opcode does not use are zero. -/
def MWord.paLow0 (w : MWord) (n : Nat) : Bool := w.pa.toNat % 2 ^ n == 0

/-- The decode checks of R199 on the fields of each instruction. An event row has no encoding and none. -/
def Instr.wf : Instr → Bool
  | .slli _ _ i | .srli _ _ i | .srai _ _ i | .slliA _ _ i | .srliA _ _ i | .sraiA _ _ i => shiftOk i
  | .strm d _ | .toks d | .tokw d | .bqsnd d _ => codeFromS d
  | .toksA d | .tokwA d => codeFromA d
  | .loop _ stg len | .aloop _ stg len => loopOk stg len
  | .bqrcv q _ => regIn q 1 2
  | .claim d _ _ _ => regIn d 1 30
  | .fulfil _ a _ _ | .abandon _ a _ => regIn a 1 29
  | .capt d _ _ | .captr d _ _ | .krel d => isKReg d
  | .apply _ a _ => isKReg a
  | .kdup d a => isKReg d && isKReg a
  | .kenv d a => regIn d 1 24 && isKReg a
  | .doorw d _ => regIn d 1 24
  | .ldv d _ _ _ | .ldvs d _ _ _ _ | .ldvg d _ _ _ _ => regIn d 0 3
  | .stv d _ _ | .stvs d _ _ _ | .stvg d _ _ _ => regIn d 0 1
  | .wdset d _ _ => regIn d 0 3
  | .cpyf _ _ b => regIn b 1 28
  | .cres d => regIn d 0 30
  | .vadd w | .vsub w | .vmul w | .vmin w | .vmax w => w.ok true true (!tyIsInt w.ty) true w.pa0
  | .vdiv w => w.ok true (tyIsFp w.ty) true true w.pa0
  | .vabs w | .vneg w => w.ok false true false true w.pa0
  | .vfma w | .vfms w => w.ok true (tyIsFp w.ty) true true w.okZ
  | .vand w | .vor w | .vxor w | .vshr w => w.ok true (tyIsInt w.ty) false false w.pa0
  | .vshl w => w.ok true (tyIsInt w.ty) false true w.pa0
  | .vmulh w => w.ok true (tyIsInt w.ty) false (!w.u) w.pa0
  | .vexp2 w | .vlog2 w | .vrcp w | .vrsq w | .vtanh w | .vsig w => w.ok false (w.ty == 0) false false w.pa0
  | .vceq w | .vcne w | .vclt w | .vcle w => w.ok true true false false w.pa0
  | .vsel w => w.ok true true false false w.okZ
  | .vcvt w => w.okCvt
  | .vqd8 w => w.ok false (w.ty == 0) true false w.okZc
  | .vqi8 w => w.ok false (w.ty == 6) true false w.okZc
  | .vsca w => w.ok true (w.ty == 0) true true w.pa0
  | .vscd w => w.okForm ⟨true, true, true, w.ty == 0, true, true, true, w.pa0⟩ false false false true false
  | .vssel w => w.okForm ⟨true, true, false, w.ty == 4 && !w.u, false, false, false, w.pa.toNat % 512 == 0⟩
      false false false false false
  | .vrsum w => w.ok false (!tyIsD8 w.ty) (tyIsFp w.ty) true w.pa0
  | .vrmax w | .vrmin w => w.ok false true false true w.pa0
  | .vrot w => w.ok false true false false (w.pa.toNat % 64 == 0)
  | .vperm w => w.okForm ⟨true, true, true, true, false, false, true, w.pa0⟩ false false false true (tyIsD8 w.ty)
  | .vpack w => w.ok true (w.ty == 1 || w.ty == 2 || w.ty == 5 || w.ty == 6) (tyIsFp w.ty) true w.pa0
  | .vunpk w => w.okForm ⟨true, true, true, w.ty != 0 && w.ty != 4, false, false, true, w.pa0⟩
      false false false true (tyIsD8 w.ty)
  | .vmov w | .vldi w => w.ok false true false false w.pa0
  | .vrseed w => w.okForm ⟨false, true, false, w.ty == 4, false, false, false, w.pa0⟩ true false false false false
  | .mpush w => w.okForm ⟨false, true, false, true, false, false, false, w.pa0⟩ false false false false (tyIsD8 w.ty)
  | .minv w | .mpop w => w.okBare w.pa0
  | .vbz w | .vbr w | .vjmp w => w.okBare true
  | .vbqsnd w => w.okBare w.pa0
  | .vloop w => w.okForm ⟨false, true, false, w.ty == 0, false, false, false, w.pa.toNat % 2048 != 0⟩
      false false true false false
  | .vapply w => w.okForm ⟨false, true, false, w.ty == 4 && w.u, false, false, true, w.pa0⟩
      false false false false false && !w.sq
  | .vscat w => w.okForm ⟨true, true, true, true, false, false, true, w.pa0⟩ false true false false (tyIsD8 w.ty)
  | .mma w => w.okMma
  | .mmaw w => w.okMmaw
  | .mmaq w => w.okBare false false (w.pa == 0)
  | .mhad w => w.okForm false false true true false false (w.pa == 0) true &&
      (!w.twoByte || w.atile.toNat ≤ 126)
  | .mwld w => w.okForm false false false false true false (w.paLow0 126) false && w.wsrc.toNat < 8
  | .mdrn w => w.okForm true true false false false true (w.pa == 0) true
  | .mzero w => w.okBare true true (w.pa == 0)
  | .mloop w => w.okBare false false (w.paLow0 80 && w.pa.toNat / 2 ^ 80 % 2 ^ 14 != 0)
  | .mbr w | .mjmp w => w.okBare false false (w.paLow0 112)
  | .mnop w => w.okBare true false (w.pa == 0)
  | _ => true

end Sys2Proof
end

