-- ==== Sys2Proof/Machine/Operands.lean ====
section
/-! DEFINITION. The operands of V words and the steps every V word passes through (R27, R28, R55, R57, R204 to R208,
R287 to R293): sources, views, pops and peeks, immediates, the mask, rounding, issue, flights and squash. -/

namespace Sys2Proof.Machine

/-! ### Element types (R48, R204, R289) -/

/-- The type of the elements of a lane. -/
inductive ElTy where
  | fp (f : Fmt)
  | d8
  | int (w : Nat) (unsigned : Bool)
  deriving DecidableEq, Repr

/-- The type a TYPE code and U name. -/
def ElTy.of (t : BitVec 3) (u : Bool) : ElTy :=
  match t.toNat with
  | 0 => .fp .f32 | 1 => .fp .bf16 | 2 => .fp .f16 | 3 => .d8 | 4 => .int 32 u | 5 => .int 16 u | _ => .int 8 u

def ElTy.width : ElTy → Nat
  | .fp f => 1 + f.ebits + f.fbits
  | .d8 => 8
  | .int w _ => w

/-- Elements in a lane. -/
def ElTy.count (t : ElTy) : Nat := 32 / t.width

def ElTy.isInt : ElTy → Bool
  | .int _ _ => true
  | _ => false

/-- An element as an integer. -/
def intOf (w : Nat) (unsigned : Bool) (x : Nat) : Int :=
  if unsigned || x < 2 ^ (w - 1) then x else (x : Int) - 2 ^ w

/-- The range of an integer type. -/
def intMin (w : Nat) (unsigned : Bool) : Int := if unsigned then 0 else -(2 ^ (w - 1))
def intMax (w : Nat) (unsigned : Bool) : Int := if unsigned then 2 ^ w - 1 else 2 ^ (w - 1) - 1

/-- An exact integer result truncated, or clamped under SAT (R50). -/
def intResult (w : Nat) (unsigned sat : Bool) (x : Int) : Nat :=
  let x := if sat then max (intMin w unsigned) (min (intMax w unsigned) x) else x
  (x % 2 ^ w).toNat

/-- The value of an element. -/
def ElTy.dec (t : ElTy) (x : Nat) : Val :=
  match t with
  | .fp f => f.decode x
  | .d8 => d8Decode x
  | .int w u => .ofInt (intOf w u x)

/-- A value rounded to an element: round(x, fmt, rc); to an integer always saturating (R54, R58 to R60). -/
def ElTy.enc (t : ElTy) (rc : Rc) (r : Nat) (sat : Bool) (x : Val) : Nat :=
  match t with
  | .fp f => f.round rc r sat x
  | .d8 => d8Round rc r x
  | .int w u => (roundInt rc r (intMin w u) (intMax w u) x % 2 ^ w).toNat

/-- An element is true (R289). -/
def ElTy.truth (t : ElTy) (x : Nat) : Bool :=
  match t with
  | .fp f => x % f.signBit != 0
  | _ => x != 0

/-- Element e of a lane. -/
def elem (t : ElTy) (x : Word) (e : Nat) : Nat := field x (t.width * e) t.width

/-- A lane of elements, the first lowest. -/
def packElems (w : Nat) : List Nat → Nat
  | [] => 0
  | x :: r => x % 2 ^ w + 2 ^ w * packElems w r

/-- A lane with `n` elements given by number. -/
def elemLane (w n : Nat) (f : Nat → Nat) : Word := BitVec.ofNat 32 (packElems w ((List.range n).map f))

/-! ### Sources (R27, R205, R209) -/

/-- What an operand's ID names. -/
inductive SrcKey where
  | v (n : Nat)
  | c (n : Nat)
  | lq (n : Nat)
  | dq (n : Nat)
  | zero
  | imm
  deriving DecidableEq, Repr

def SrcKey.of (id : Nat) : SrcKey :=
  if id < 16 then .v id
  else if id < 32 then .c (id - 16)
  else if id < 0x24 then .lq (id - 0x20)
  else if id == 0x26 then .dq 0
  else if id == 0x27 then .dq 1
  else if id == 0x2A then .imm
  else .zero

/-- The source pops or peeks a FIFO. -/
def SrcKey.isFifo : SrcKey → Bool
  | .v _ => true | .lq _ => true | .dq _ => true | _ => false
/-- It is a data queue, on which the word waits. -/
def SrcKey.isQueue : SrcKey → Bool
  | .lq _ => true | .dq _ => true | _ => false
def SrcKey.isV : SrcKey → Bool
  | .v _ => true | _ => false

/-- A source operand of a word, with the lane an immediate stands for. -/
structure Source where
  key : SrcKey
  peek : Bool
  ofs : Nat
  str : Nat
  imm : Word
  deriving DecidableEq, Repr

/-- Stride codes, modulo 128 (R205). -/
def stride (code : Nat) : Nat :=
  match code with
  | 0 => 1 | 1 => 2 | 2 => 4 | 3 => 8 | 4 => 16 | 5 => 32 | 6 => 64 | 7 => 0 | _ => 127

/-- The lane an immediate's 12 bits stand for (R205). -/
def immLane (t : ElTy) (b : BitVec 12) : Word :=
  let x := match t with
    | .fp f => if f == Fmt.f32 then b.toNat * 1048576 else b.toNat * 16
    | .d8 => b.toNat % 256
    | .int _ _ => (b.signExtend 32).toNat
  elemLane t.width t.count (fun _ => x)

/-- An operand read as elements of a type. -/
def sourceOf (o : VOperand) (t : ElTy) : Source :=
  { key := .of o.id.toNat, peek := o.pk, ofs := o.ofs.toNat, str := o.str.toNat, imm := immLane t o.low12 }

/-- The Z operand, which has no view (R209). -/
def zSource (w : VWord) : Source :=
  { key := .of (w.pa.toNat / 128), peek := w.pa.toNat / 64 % 2 == 1, ofs := 0, str := 0, imm := 0 }

/-- The FIFO a source names. -/
def Ctx.fifo (c : Ctx) : SrcKey → List Entry
  | .v n => c.v.getD n []
  | .lq n => c.lq.getD n []
  | .dq n => c.dq.getD n []
  | _ => []

def Ctx.setFifo (c : Ctx) (k : SrcKey) (q : List Entry) : Ctx :=
  match k with
  | .v n => { c with v := c.v.setIfInBounds n q }
  | .lq n => { c with lq := c.lq.setIfInBounds n q }
  | .dq n => { c with dq := c.dq.setIfInBounds n q }
  | _ => c

/-- The context without the entries that entered its load queues in this cycle (R261). -/
def Ctx.settledLq (c : Ctx) (cycle : Nat) : Ctx :=
  { c with lq := Vector.ofFn (fun (i : Fin 4) =>
      let q := c.lq.getD i.val []
      let x := c.lqNew.getD i.val (0, 0)
      if x.1 == cycle then q.take (q.length - x.2) else q) }

/-- How many earlier operands of the word pop the same FIFO. -/
def popsOf (l : List Source) (k : SrcKey) : Nat := (l.filter (fun y => !y.peek && y.key == k)).length

/-- The place in its FIFO of the entry a source reads: a peek reads the head (R27). -/
def Source.place (x : Source) (before : List Source) : Nat := if x.peek then 0 else popsOf before x.key

/-- Whether each source that `sel` selects finds the entry it reads. -/
def Ctx.available (c : Ctx) (sel : SrcKey → Bool) : List Source → List Source → Bool
  | _, [] => true
  | before, x :: r =>
    (!sel x.key || x.place before < (c.fifo x.key).length) && c.available sel (before ++ [x]) r

/-- The lanes a source delivers (R205). -/
def Source.lanes (x : Source) (before : List Source) (c : Ctx) (p : Pen) : Lanes :=
  match x.key with
  | .zero => Lanes.zero
  | .imm => Vector.replicate 128 x.imm
  | .c n => Vector.replicate 128 ((c.c.getD n .void).read p)
  | k =>
    let e := (((c.fifo k)[x.place before]?).getD .void).read p
    Vector.ofFn (fun (i : Fin 128) => e[(x.ofs + stride x.str * i.val) % 128]'(Nat.mod_lt _ (by decide)))

/-- The pops of a word's sources. -/
def Ctx.popAll (c : Ctx) (l : List Source) : Ctx :=
  l.foldl (fun c x => if x.peek then c else c.setFifo x.key ((c.fifo x.key).drop 1)) c

/-! ### Destinations (R27, R205, R288) -/

def destOf (o : VOperand) : PushDest :=
  let n := o.id.toNat
  if n < 16 then .v n else if n == 0x24 then .sq 0 else if n == 0x25 then .sq 1 else if n == 0x28 then .xq else .nothing

/-- Pushes issued and not landed. -/
def Ctx.inFlight (c : Ctx) (d : PushDest) : Nat := (c.flights.filter (fun f => f.dest == d)).length

/-- A full data queue makes the word wait; xq needs room for two. -/
def Ctx.destFull (c : Ctx) (d : PushDest) : Bool :=
  match d with
  | .sq n => 8 ≤ (c.sq.getD n []).length + c.inFlight d
  | .xq => 14 < c.xq.length + 2 * c.inFlight d
  | _ => false

/-- The push would make a v register hold more than four (R27). -/
def Ctx.destOver (c : Ctx) (d : PushDest) (srcs : List Source) : Bool :=
  match d with
  | .v n => 4 + popsOf srcs (.v n) < (c.v.getD n []).length + c.inFlight d + 1
  | _ => false

/-! ### The mask stack (R79) -/

/-- The top of the stack, all ones while it is empty. -/
def Ctx.maskTop (c : Ctx) (p : Pen) : BitVec 128 :=
  match c.mask with
  | [] => BitVec.allOnes 128
  | t :: _ => t.read p

/-! ### Rounding and random sources (R55, R57, R207) -/

/-- The rounding code of a word and its random source; none where a word that takes both from rmode names a source of
its own. -/
def roundingOf (w : VWord) (rmode : Dword) : Option (Rc × Nat) :=
  if w.rc == 7 then
    if field rmode 0 3 == 5 then (if w.rb == 0 then some (.rsr, field rmode 3 2) else none)
    else some (.ofCode (field rmode 0 3), 0)
  else some (.ofCode w.rc.toNat, w.rb.toNat)

/-- What a V word has read in its issue cycle. -/
structure VIn where
  x : Lanes
  y : Lanes
  z : Lanes
  /-- The active lanes (R290). -/
  active : BitVec 128
  /-- The top of the mask stack. -/
  top : BitVec 128
  rc : Rc
  /-- The states of its random source. -/
  rb : Lanes
  deriving DecidableEq, Repr

/-- The random number of a lane's draw. -/
def VIn.draw (v : VIn) (lane n : Nat) : Nat := if v.rc == .rsr then rbDraw n (v.rb.getD lane 0) else 0

def VIn.on (v : VIn) (lane : Nat) : Bool := v.active.getLsbD lane

/-- Every lane of a random source after n draws. -/
def Ctx.advanceRb (c : Ctx) (p : Pen) (n draws : Nat) : Ctx :=
  let e := (c.rb.getD n .void).read p
  { c with rb := c.rb.setIfInBounds n ⟨p, e.map (fun x => rbAfter draws x)⟩ }

/-! ### Issue (R199, R287 to R291) -/

/-- What is particular to a V word: its sources in the order they are read, its destination, the draws each lane makes,
its further waits, underflow, overflow and fault at issue, and what it does once it issues. -/
structure VOp where
  srcs : List Source
  dest : PushDest := .nothing
  draws : Nat := 0
  waits : Ctx → Bool := fun _ => false
  under : Ctx → Bool := fun _ => false
  overflows : Ctx → Bool := fun _ => false
  check : VIn → State → Option Nat := fun _ _ => none
  act : VIn → State → State

/-- The word posts its token and moves on; a word of latency 0 does so at issue. -/
def retireV (w : VWord) (s : State) : State :=
  let s := match postIdx 2 w.tkp with
    | none => s
    | some i => s.modCur (fun c => c.postTok s.pen i)
  s.advance .v 12

/-- The word is in flight, to land after its latency, and the stream moves on. -/
def flyV (w : VWord) (lat : Nat) (f : Flight) (s : State) : State :=
  (s.modCur (fun c => { c with flights := c.flights ++ [{ f with
    due := s.cycle + lat, squash := w.sq, pen := s.pen, post := w.tkp }] })).advance .v 12

/-- A flight that pushes one entry. -/
def Flight.push (d : PushDest) (l : Lanes) : Flight :=
  { due := 0, squash := false, dest := d, pen := 0, lanes := l, lanes2 := Lanes.zero, mask := 0, zcs := [], post := 0,
    recs := [], queue := 0 }

/-- The values a word reads. -/
def VOp.read (o : VOp) (w : VWord) (c : Ctx) (p : Pen) (rc : Rc) (rb : Nat) : VIn :=
  let src := fun (i : Nat) => match o.srcs[i]? with
    | none => Lanes.zero
    | some x => x.lanes (o.srcs.take i) c p
  let top := c.maskTop p
  { x := src 0, y := src 1, z := src 2, active := if w.msk then top else BitVec.allOnes 128, top := top, rc := rc,
    rb := (c.rb.getD rb .void).read p }

/-- Whether the word waits, without fault (R199). -/
def VOp.stalls (o : VOp) (w : VWord) (c : Ctx) (p : Pen) : Bool :=
  (match waitIdx 2 w.tkw with | none => false | some i => c.tokens p i == 0) ||
  !c.available SrcKey.isQueue [] o.srcs || o.waits c || c.destFull o.dest

/-- The fault of R199's issue checks. -/
def VOp.fault (o : VOp) (w : VWord) (c : Ctx) (p : Pen) : Option Nat :=
  if !c.available SrcKey.isV [] o.srcs || o.under c then some fFifoUnder
  else if c.destOver o.dest o.srcs || o.overflows c then some fFifoOver
  else match postIdx 2 w.tkp with
    | none => none
    | some i => if c.postFull p i then some fToken else none

/-- The token taken, the pops made and the random source advanced. -/
def VOp.consume (o : VOp) (w : VWord) (rc : Rc) (rb : Nat) (p : Pen) (c : Ctx) : Ctx :=
  let c := match waitIdx 2 w.tkw with | none => c | some i => c.takeTok p i
  let c := c.popAll o.srcs
  if rc == .rsr then c.advanceRb p rb o.draws else c

/-- A V word: nothing under a stage guard that is 0; else its waits, its issue checks, and its effects (R291). It reads c0 to
c15 and rmode as they stand when it issues: R90 does not say whether a word that no token orders after a CSRW sees it, and
here every word that issues after the CSRW does (DESIGN CHOICE, log entry 7). -/
def issueV (w : VWord) (o : VOp) (s : State) : State :=
  let c := s.cur
  let p := s.pen
  if w.grd != 0 && !c.loopV.g (w.grd.toNat % 4) then s.advance .v 12
  else if o.stalls w (c.settledLq s.cycle) p then stall s
  else match roundingOf w (c.rmode.read p) with
    | none => s.illegal .v
    | some (rc, rb) => match o.fault w c p with
      | some code => s.fault .v code 0
      | none =>
        let v := o.read w c p rc rb
        match o.check v s with
        | some code => s.fault .v code 0
        | none => o.act v (s.setCur (o.consume w rc rb p c))

/-! ### Words that push lanes -/

/-- The type of a word's elements. -/
def tyOf (w : VWord) : ElTy := .of w.ty w.u

/-- Lanes computed one by one, an inactive lane zero (R290). -/
def activeLanes (v : VIn) (f : Nat → Word) : Lanes := Vector.ofFn (fun i => if v.on i.val then f i.val else 0)

/-- A word that pushes the lanes it computes to D. -/
def pushV (w : VWord) (srcs : List Source) (lat draws : Nat) (f : VIn → Lanes) (s : State) : State :=
  issueV w { srcs := srcs, dest := destOf w.d, draws := draws,
             act := fun v s => flyV w lat (.push (destOf w.d) (f v)) s } s

def srcX (w : VWord) : Source := sourceOf w.x (tyOf w)
def srcY (w : VWord) : Source := sourceOf w.y (tyOf w)
/-- An operand that R205 reads as integer lanes. -/
def intSource (o : VOperand) : Source := sourceOf o (.int 32 false)

/-- A word computed element by element on X (R287, R289): `f` takes the random number and the element. -/
def mapX (w : VWord) (lat : Nat) (f : VIn → Nat → Nat → Nat) (s : State) : State :=
  let t := tyOf w
  pushV w [srcX w] lat t.count (fun v => activeLanes v (fun i =>
    elemLane t.width t.count (fun e => f v (v.draw i e) (elem t (v.x.getD i 0) e)))) s

/-- The same on X and Y. -/
def mapXY (w : VWord) (lat : Nat) (f : VIn → Nat → Nat → Nat → Nat) (s : State) : State :=
  let t := tyOf w
  pushV w [srcX w, srcY w] lat t.count (fun v => activeLanes v (fun i =>
    elemLane t.width t.count (fun e =>
      f v (v.draw i e) (elem t (v.x.getD i 0) e) (elem t (v.y.getD i 0) e)))) s

/-- The same on X, Y and Z. -/
def mapXYZ (w : VWord) (lat : Nat) (f : VIn → Nat → Nat → Nat → Nat → Nat) (s : State) : State :=
  let t := tyOf w
  pushV w [srcX w, srcY w, zSource w] lat t.count (fun v => activeLanes v (fun i =>
    elemLane t.width t.count (fun e =>
      f v (v.draw i e) (elem t (v.x.getD i 0) e) (elem t (v.y.getD i 0) e) (elem t (v.z.getD i 0) e)))) s

end Sys2Proof.Machine
end

