-- ==== Sys2Proof/Machine/VectorAlu.lean ====
section
/-! DEFINITION. Vector arithmetic, logic, transcendentals, compares and selection (R294 to R300). -/

namespace Sys2Proof.Machine

/-! ### Arithmetic (R294 to R296) -/

/-- A latency by type (R292): integer words the first, FP and D8 words the second. -/
def latOf (w : VWord) (int fp : Nat) : Nat := if (tyOf w).isInt then int else fp

/-- An element of x op y: exact, then R50 for integers, one rounding for the others (R294). -/
def arith (w : VWord) (fi : Int → Int → Int) (fv : Rc → Val → Val → Val) (v : VIn) (r a b : Nat) : Nat :=
  match tyOf w with
  | .int n u => intResult n u w.sat (fi (intOf n u a) (intOf n u b))
  | t => t.enc v.rc r w.sat (fv v.rc (t.dec a) (t.dec b))

def execVadd (w : VWord) (s : State) : Result :=
  .next (mapXY w (latOf w 2 4) (arith w (fun a b => a + b) (fun rc a b => a.add b (rc == .rdn))) s)
def execVsub (w : VWord) (s : State) : Result :=
  .next (mapXY w (latOf w 2 4) (arith w (fun a b => a - b) (fun rc a b => a.add b.neg (rc == .rdn))) s)
def execVmul (w : VWord) (s : State) : Result :=
  .next (mapXY w (latOf w 3 4) (arith w (fun a b => a * b) (fun _ a b => a.mul b)) s)
def execVdiv (w : VWord) (s : State) : Result :=
  .next (mapXY w 12 (arith w (fun a _ => a) (fun _ a b => a.div b)) s)

/-- The lesser element, or the greater: −0 below +0, a NaN or NaR canonical (R294). -/
def minMax (t : ElTy) (greater : Bool) (a b : Nat) : Nat :=
  match t with
  | .int n u => if (intOf n u a < intOf n u b) != greater then a else b
  | t =>
    let x := t.dec a
    let y := t.dec b
    if x.isNan || y.isNan then t.enc .rne 0 false .nan
    else if x.below y != greater then a else b

/-- An FP element with its sign replaced: a NaN canonical, an infinity ±F under SAT (R58, R295). -/
def withSign (f : Fmt) (sat neg : Bool) (a : Nat) : Nat :=
  let c := a % f.signBit
  if f.infCode < c then f.nan else signed f neg (if sat && c == f.infCode then c - 1 else c)

/-- VMIN's and VMAX's element: an FP result that is infinite becomes ±F under SAT (R58, R294). -/
def extremum (w : VWord) (greater : Bool) (a b : Nat) : Nat :=
  let r := minMax (tyOf w) greater a b
  match tyOf w with
  | .fp f => if w.sat then withSign f true (f.signBit ≤ r) r else r
  | _ => r

def execVmin (w : VWord) (s : State) : Result :=
  .next (mapXY w (latOf w 2 4) (fun _ _ a b => extremum w false a b) s)
def execVmax (w : VWord) (s : State) : Result :=
  .next (mapXY w (latOf w 2 4) (fun _ _ a b => extremum w true a b) s)

def absElem (w : VWord) (a : Nat) : Nat :=
  match tyOf w with
  | .fp f => withSign f w.sat false a
  | .d8 => if a == 0x80 then a else a % 128
  | .int n u => intResult n u w.sat ((intOf n u a).natAbs : Int)

def negElem (w : VWord) (a : Nat) : Nat :=
  match tyOf w with
  | .fp f => withSign f w.sat (a < f.signBit) a
  | .d8 => if a % 128 == 0 then a else (a + 128) % 256
  | .int n u => intResult n u w.sat (-(intOf n u a))

def execVabs (w : VWord) (s : State) : Result := .next (mapX w 2 (fun _ _ a => absElem w a) s)
def execVneg (w : VWord) (s : State) : Result := .next (mapX w 2 (fun _ _ a => negElem w a) s)

/-- x × y ± z with one rounding (R296). -/
def fused (w : VWord) (minus : Bool) (v : VIn) (r a b c : Nat) : Nat :=
  let t := tyOf w
  let z := t.dec c
  t.enc v.rc r w.sat (((t.dec a).mul (t.dec b)).add (if minus then z.neg else z) (v.rc == .rdn))

def execVfma (w : VWord) (s : State) : Result := .next (mapXYZ w 4 (fused w false) s)
def execVfms (w : VWord) (s : State) : Result := .next (mapXYZ w 4 (fused w true) s)

/-! ### Integer words (R297) -/

def execVand (w : VWord) (s : State) : Result := .next (mapXY w 2 (fun _ _ a b => a &&& b) s)
def execVor (w : VWord) (s : State) : Result := .next (mapXY w 2 (fun _ _ a b => a ||| b) s)
def execVxor (w : VWord) (s : State) : Result := .next (mapXY w 2 (fun _ _ a b => a ^^^ b) s)

def shlElem (w : VWord) (a b : Nat) : Nat :=
  let n := (tyOf w).width
  intResult n w.u w.sat (intOf n w.u a * 2 ^ (b % n))
def shrElem (w : VWord) (a b : Nat) : Nat :=
  let n := (tyOf w).width
  intResult n w.u false (intOf n w.u a / 2 ^ (b % n))
/-- The product's high half; with SAT floor(2xy / 2^w), clamped. -/
def mulhElem (w : VWord) (a b : Nat) : Nat :=
  let n := (tyOf w).width
  let p := intOf n w.u a * intOf n w.u b
  if w.sat then intResult n false true (2 * p / 2 ^ n) else intResult n w.u false (p / 2 ^ n)

def execVshl (w : VWord) (s : State) : Result := .next (mapXY w 2 (fun _ _ a b => shlElem w a b) s)
def execVshr (w : VWord) (s : State) : Result := .next (mapXY w 2 (fun _ _ a b => shrElem w a b) s)
def execVmulh (w : VWord) (s : State) : Result := .next (mapXY w 3 (fun _ _ a b => mulhElem w a b) s)

/-! ### Transcendentals (R70, R298) -/

/-- A transcendental of each lane. -/
def transV (f : Sys2Proof.Config.Transcendental) (w : VWord) (s : State) : State :=
  mapX w 10 (fun _ _ a => (transcendental f (BitVec.ofNat 32 a)).toNat) s

def execVexp2 (w : VWord) (s : State) : Result := .next (transV .exp2 w s)
def execVlog2 (w : VWord) (s : State) : Result := .next (transV .log2 w s)
def execVrcp (w : VWord) (s : State) : Result := .next (transV .rcp w s)
def execVrsq (w : VWord) (s : State) : Result := .next (transV .rsq w s)
def execVtanh (w : VWord) (s : State) : Result := .next (transV .tanh w s)
def execVsig (w : VWord) (s : State) : Result := .next (transV .sig w s)

/-! ### Compares and selection (R299, R300) -/

/-- All ones where the compare holds of the two values. -/
def compareElem (w : VWord) (f : Val → Val → Bool) (a b : Nat) : Nat :=
  let t := tyOf w
  if f (t.dec a) (t.dec b) then 2 ^ t.width - 1 else 0

def execVceq (w : VWord) (s : State) : Result := .next (mapXY w 2 (fun _ _ a b => compareElem w Val.eq a b) s)
def execVcne (w : VWord) (s : State) : Result :=
  .next (mapXY w 2 (fun _ _ a b => compareElem w (fun x y => !x.eq y) a b) s)
def execVclt (w : VWord) (s : State) : Result := .next (mapXY w 2 (fun _ _ a b => compareElem w Val.lt a b) s)
def execVcle (w : VWord) (s : State) : Result :=
  .next (mapXY w 2 (fun _ _ a b => compareElem w (fun x y => x.lt y || x.eq y) a b) s)

def execVsel (w : VWord) (s : State) : Result :=
  .next (mapXYZ w 2 (fun _ _ a b c => if (tyOf w).truth c then a else b) s)

end Sys2Proof.Machine
end

