-- ==== Sys2Proof/Machine/VectorQuant.lean ====
section
/-! DEFINITION. Conversions, packing, quantisation and scales of the V stream (R59 to R64, R301 to R306). -/

namespace Sys2Proof.Machine

/-! ### Conversions (R301 to R303) -/

/-- An element of one type converted to another (R59): between integers R50, D8 to FP32 always RNE. -/
def convElem (src dst : ElTy) (rc : Rc) (r : Nat) (sat : Bool) (a : Nat) : Nat :=
  match src, dst with
  | .int n u, .int m q => intResult m q sat (intOf n u a)
  | .d8, .fp f => if f == Fmt.f32 then d8ToF32 a else f.round rc r sat (d8Decode a)
  | t, d => d.enc rc r sat (t.dec a)

def cvtSrc (w : VWord) : ElTy := .of (BitVec.ofNat 3 (w.pa.toNat / 1024)) (w.pa.toNat / 512 % 2 == 1)

def cvtV (w : VWord) (s : State) : State :=
  let a := cvtSrc w
  let d := tyOf w
  let n := min a.count d.count
  pushV w [sourceOf w.x a] 4 n (fun v => activeLanes v (fun i =>
    elemLane d.width n (fun e => convElem a d v.rc (v.draw i e) w.sat (elem a (v.x.getD i 0) e)))) s

def execVcvt (w : VWord) (s : State) : Result := .next (cvtV w s)

/-- One of the 256 values VPACK converts, zero where its lane is inactive (R302). -/
def packElem (w : VWord) (v : VIn) (lane e : Nat) : Nat :=
  let t := tyOf w
  let j := t.count * lane + e
  let x := if j < 128 then v.x.getD j 0 else v.y.getD (j - 128) 0
  let src : ElTy := if t.isInt then .int 32 w.u else .fp Fmt.f32
  if v.on (j % 128) then convElem src t v.rc (v.draw lane e) w.sat x.toNat else 0

def packV (w : VWord) (s : State) : State :=
  let t := tyOf w
  pushV w [srcX w, srcY w] 4 t.count (fun v => Vector.ofFn (fun i =>
    if i.val < 256 / t.count then elemLane t.width t.count (fun e => packElem w v i.val e) else 0)) s

def execVpack (w : VWord) (s : State) : Result := .next (packV w s)

/-- A packed element widened to 32 bits (R303). -/
def widen (t : ElTy) (a : Nat) : Nat :=
  match t with
  | .int n u => intResult 32 false false (intOf n u a)
  | .d8 => d8ToF32 a
  | .fp f => Fmt.f32.round .rne 0 false (f.decode a)

def unpkV (w : VWord) (s : State) : State :=
  let t := tyOf w
  pushV w [srcX w, intSource w.y] 4 0 (fun v => activeLanes v (fun i =>
    let k := 128 * ((v.y.getD 0 0).toNat % t.count) + i
    BitVec.ofNat 32 (widen t (elem t (v.x.getD (k / t.count) 0) (k % t.count))))) s

def execVunpk (w : VWord) (s : State) : Result := .next (unpkV w s)

/-! ### Quantisation (R60 to R62, R304) -/

/-- The code of an FP32 lane: to D8, or to a saturating integer. -/
def quantCode (d8 : Bool) (w : VWord) (v : VIn) (lane : Nat) : Nat :=
  let x := Fmt.f32.decode (v.x.getD lane 0).toNat
  if !v.on lane then 0
  else if d8 then d8Round v.rc (v.draw lane 0) x
  else (ElTy.int 8 w.u).enc v.rc (v.draw lane 0) false x

/-- What lanes lo to lo + n − 1 count into a zc register (R61). -/
def zcOf (d8 : Bool) (w : VWord) (v : VIn) (zc lo n : Nat) : ZcUpdate :=
  let mag := fun i => (v.x.getD i 0).toNat % 2147483648
  let lanes := ((List.range n).map (fun i => lo + i)).filter (fun i => v.on i && mag i ≤ Fmt.f32.infCode)
  { zc := zc, max := BitVec.ofNat 32 (lanes.foldl (fun m i => max m (mag i)) 0),
    count := (lanes.filter (fun i => mag i != 0 && quantCode d8 w v i == 0)).length }

def quantV (d8 : Bool) (w : VWord) (s : State) : State :=
  let j := w.pa.toNat / 1024
  let b32 := w.pa.toNat / 512 % 2 == 1
  issueV w { srcs := [srcX w], dest := destOf w.d, draws := 1,
             act := fun v s =>
               let l : Lanes := Vector.ofFn (fun i =>
                 if i.val < 32 then elemLane 8 4 (fun e => quantCode d8 w v (4 * i.val + e)) else 0)
               let z := if b32 then (List.range 4).map (fun b => zcOf d8 w v (j + b) (32 * b) 32)
                 else [zcOf d8 w v j 0 128]
               flyV w 4 { Flight.push (destOf w.d) l with zcs := z } s } s

def execVqd8 (w : VWord) (s : State) : Result := .next (quantV true w s)
def execVqi8 (w : VWord) (s : State) : Result := .next (quantV false w s)

/-! ### Scales (R63, R64, R305, R306) -/

def scaElem (w : VWord) (v : VIn) (r a b : Nat) : Nat :=
  Fmt.f32.round v.rc r w.sat ((Fmt.f32.decode a).mul (Fmt.f32.decode b))

def execVsca (w : VWord) (s : State) : Result := .next (mapXY w 4 (scaElem w) s)

/-- x × 10^E. Beyond an exponent of 100 every FP32 value rounds as it does at 100, under every code. -/
def scdElem (w : VWord) (v : VIn) (r a b : Nat) : Nat :=
  let e := max (-100) (min 100 (intOf 32 false b))
  Fmt.f32.round v.rc r w.sat ((Fmt.f32.decode a).mul (.fin (Q.pow10 e)))

def scdV (w : VWord) (s : State) : State :=
  pushV w [srcX w, intSource w.y] 4 1 (fun v => activeLanes v (fun i =>
    BitVec.ofNat 32 (scdElem w v (v.draw i 0) (v.x.getD i 0).toNat (v.y.getD i 0).toNat))) s

def execVscd (w : VWord) (s : State) : Result := .next (scdV w s)

/-- The largest E of −48 to 48, counted down `n` from the top, with mx × 10^E ≤ 97.1875; −49 for none. -/
def scaleFrom (mx : Q) : Nat → Int
  | 0 => -49
  | n + 1 =>
    let e : Int := (n : Int) - 48
    if (mx.mul (Q.pow10 e)).le ⟨1555, 16⟩ then e else scaleFrom mx n

/-- VSSEL's exponent for a threshold (R63). -/
def scaleOf (z : Dword) (t : Nat) : Int :=
  let mx := z.toNat / 4294967296
  let e0 := if mx == 0 then 0 else if mx == Fmt.f32.infCode then -48 else scaleFrom (Fmt.f32.mag mx) 97
  max (-48) (min 48 (if t < z.toNat % 4294967296 then e0 + 1 else e0))

def sselV (w : VWord) (s : State) : State :=
  let n := w.pa.toNat / 1024
  let z := (s.cur.zc.getD n .void).read s.pen
  issueV w { srcs := [srcX w], dest := destOf w.d,
             act := fun v s =>
               let l : Lanes := v.x.map (fun t => BitVec.ofInt 32 (scaleOf z t.toNat))
               let s := if w.pa.toNat / 512 % 2 == 1 then
                   s.modCur (fun c => { c with zc := c.zc.setIfInBounds n ⟨s.pen, 0⟩ })
                 else s
               flyV w 2 (.push (destOf w.d) l) s } s

def execVssel (w : VWord) (s : State) : Result := .next (sselV w s)

end Sys2Proof.Machine
end

