-- ==== Sys2Proof/Machine/VectorMove.lean ====
section
/-! DEFINITION. Reductions, permutes, moves, seeds and scatters of the V stream (R307 to R311, R318). -/

namespace Sys2Proof.Machine

/-! ### Reductions (R307) -/

/-- One level of the tree: neighbours combined, an absent one passed over. -/
def treeLevel {α : Type} (f : α → α → α) : List (Option α) → List (Option α)
  | a :: b :: r =>
    (match a, b with
     | none, y => y
     | x, none => x
     | some x, some y => some (f x y)) :: treeLevel f r
  | l => l

/-- `n` levels. -/
def tree {α : Type} (f : α → α → α) : Nat → List (Option α) → Option α
  | 0, l => l.headD none
  | n + 1, l => tree f n (treeLevel f l)

/-- The elements that take part, in order. -/
def partOf (w : VWord) (v : VIn) : List (Option Nat) :=
  let t := tyOf w
  (List.range (128 * t.count)).map (fun k =>
    if v.on (k / t.count) then some (elem t (v.x.getD (k / t.count) 0) (k % t.count)) else none)

/-- An element written to every element of every active lane. -/
def broadcast (w : VWord) (v : VIn) (x : Nat) : Lanes :=
  let t := tyOf w
  activeLanes v (fun _ => elemLane t.width t.count (fun _ => x))

/-- The sum, on FP32 decodes or exact integers, with its one rounding. -/
def sumElem (w : VWord) (v : VIn) : Nat :=
  match tyOf w with
  | .fp f =>
    let l := (partOf w v).map (fun o => o.map (fun x => Fmt.f32.round .rne 0 false (f.decode x)))
    let r := (tree f32Add 9 l).getD 0
    f.round v.rc (v.draw 0 0) w.sat (Fmt.f32.decode r)
  | t =>
    let l := (partOf w v).map (fun o => o.map (fun x => intOf t.width w.u x))
    intResult t.width w.u w.sat ((tree (fun (a b : Int) => a + b) 9 l).getD 0)

/-- The greatest or least element; a NaN or NaR canonical. -/
def extremeElem (greater : Bool) (w : VWord) (v : VIn) : Nat :=
  let t := tyOf w
  match tree (minMax t greater) 9 (partOf w v) with
  | none => 0
  | some x => minMax t greater x x

def execVrsum (w : VWord) (s : State) : Result :=
  .next (pushV w [srcX w] 8 1 (fun v => broadcast w v (sumElem w v)) s)
def execVrmax (w : VWord) (s : State) : Result :=
  .next (pushV w [srcX w] 8 0 (fun v => broadcast w v (extremeElem true w v)) s)
def execVrmin (w : VWord) (s : State) : Result :=
  .next (pushV w [srcX w] 8 0 (fun v => broadcast w v (extremeElem false w v)) s)

/-! ### Permutes and moves (R308 to R310) -/

def execVrot (w : VWord) (s : State) : Result :=
  .next (pushV w [srcX w] 3 0 (fun v => activeLanes v (fun i => v.x.getD ((i + w.pa.toNat / 64) % 128) 0)) s)
def execVperm (w : VWord) (s : State) : Result :=
  .next (pushV w [srcX w, intSource w.y] 3 0
    (fun v => activeLanes v (fun i => v.x.getD ((v.y.getD i 0).toNat % 128) 0)) s)
def execVmov (w : VWord) (s : State) : Result :=
  .next (pushV w [srcX w] 2 0 (fun v => activeLanes v (fun i => v.x.getD i 0)) s)

def ldiLane (w : VWord) (v : VIn) (i : Nat) : Word :=
  let t := tyOf w
  elemLane t.width t.count (fun e => elem t (v.x.getD i 0) e + t.count * i + e)
def execVldi (w : VWord) (s : State) : Result := .next (pushV w [srcX w] 2 0 (fun v => activeLanes v (ldiLane w v)) s)

/-! ### Seeds and scatters (R311, R318) -/

/-- The lanes VRSEED gives (R57). -/
def seedLanes (q : Word) : Lanes := Vector.ofFn (fun i => rbSeed q i.val)

def rseedV (w : VWord) (s : State) : State :=
  issueV w { srcs := [srcX w],
             act := fun v s =>
               retireV w (s.modCur (fun c => { c with rb := c.rb.setIfInBounds w.rb.toNat ⟨s.pen, seedLanes (v.x.getD 0 0)⟩ })) } s

def execVrseed (w : VWord) (s : State) : Result := .next (rseedV w s)

def scatV (w : VWord) (s : State) : State :=
  issueV w { srcs := [srcX w, srcY w], dest := .xq,
             act := fun v s =>
               flyV w 2 { Flight.push .xq (activeLanes v (fun i => v.x.getD i 0)) with
                 lanes2 := activeLanes v (fun i => v.y.getD i 0), mask := v.active } s } s

def execVscat (w : VWord) (s : State) : Result := .next (scatV w s)

end Sys2Proof.Machine
end

