-- ==== Sys2Proof/Machine/Scheduler.lean ====
section
/-! DEFINITION. The events of the scheduler and of a context: landing pushes (R287), dispatch (R34 to R41, R166, R168,
R248), bank switches (R32), saving and restoring (R33, R100, R106, R169, R352), trap entry (R333, R346, R348), ends
(R347), group commits (R130) and held pushes (R149). -/

namespace Sys2Proof.Machine

/-! ### A V word's push lands (R287) -/

/-- The oldest flight that is due lands. -/
def landDue (s : State) : State :=
  match s.cur.flights.find? (fun f => f.due ≤ s.cycle) with
  | none => s
  | some f => landFlight (s.modCur (fun c => { c with flights := c.flights.erase f })) s.focus.key f

def execVPushLand (s : State) : Result := .next (landDue s)

/-! ### The queues a core serves (R168, R39) -/

/-- A queue served by a core: its VI, the lowest virtual core that binds it, its virtual and physical numbers. -/
structure Served where
  vi : Nat
  vcn : Nat
  vq : Nat
  q : Nat
  deriving DecidableEq, Repr

/-- Bindings of one core-map entry that name the core. -/
def servedBy (s : State) (ck : Nat) (e : Nat × Line) : List Served :=
  let p := pkgOf (dieOfCore ck)
  let vi := e.1 / 65536
  let vcn := e.1 % 65536
  if ceDie e.2 == dieOfCore ck && ceCore e.2 == ck % 144 then
    (ceQueues e.2).filterMap (fun vq =>
      if vq < viQcount ((s.pkg p).vi vi) then some ⟨vi, vcn, vq, viQfirst ((s.pkg p).vi vi) + vq⟩ else none)
  else []

/-- Served queues in ascending physical number, each once, under the lowest virtual core. -/
def insertServed (x : Served) : List Served → List Served
  | [] => [x]
  | y :: r =>
    if x.q < y.q then x :: y :: r
    else if x.q == y.q then (if x.vcn < y.vcn then x else y) :: r
    else y :: insertServed x r

/-- The queues a core serves; those whose virtual core is stopped are not served (R350). -/
def servedQueues (s : State) (ck : Nat) : List Served :=
  ((((s.die (dieOfCore ck)).coreMap.flatMap (servedBy s ck))).foldl (fun l x => insertServed x l) []).filter
    (fun x => !Table.has (s.pkg (pkgOf (dieOfCore ck))).stopped (65536 * x.vi + x.vcn))

/-! ### Heads of queues (R40, R150, R152) -/

/-- What stands at the head of a queue. -/
inductive QueueHead where
  /-- Nothing that can be dispatched now. -/
  | none
  /-- A barrier record not yet evaluated. -/
  | unseen
  /-- A barrier record whose evaluation has ended. -/
  | verdict (b : Barrier)
  /-- A task record, or a malformed one. -/
  | record (r : Line)
  /-- The ring's read fails. -/
  | failed (code : Nat)
  deriving DecidableEq, Repr

/-- A record's ring entry as the scheduler reads it (R422). -/
def readRecord (s : State) (p vi q : Nat) : Except Fail Line :=
  let d := (s.pkg p).queue q
  accRead s (queueAccessor s p vi q) Need.read (qBase d + 64 * (qHead d % qCap d))

/-- Reserved bits of a barrier record are zero (R151). -/
def barrierOk (r : Line) : Bool := field r 64 44 == 0 && field r 0 59 == 0

/-- A record passes R35, or is a barrier record that passes R151. -/
def recordOk (r : Line) : Bool :=
  match recKind r with
  | 0 => !recBar r && field r 0 60 == 0
  | 1 => barrierOk r
  | _ => false

/-- The head of a queue: finished side-area records first, in the order they were set aside, then the ring. -/
def queueHead (s : State) (p vi q : Nat) : QueueHead :=
  let k := s.pkg p
  let d := k.queue q
  if !qEn d || qPen d != k.pen vi then .none
  else match k.barriers.find? (fun b => b.queue == q && b.aside.isSome && b.verdict.isSome) with
    | some b => .verdict b
    | none =>
      if qTail d == qHead d then .none
      else match k.barriers.find? (fun b => b.queue == q && b.aside.isNone) with
        | some b => if b.verdict.isSome then .verdict b else .none
        | none => match readRecord s p vi q with
          | .error f => .failed f.code
          | .ok r => if recKind r == 1 && recordOk r then .unseen else .record r

/-- A queue has a head that can be dispatched. -/
def QueueHead.ready : QueueHead → Bool
  | .none => false
  | .unseen => false
  | _ => true

/-! ### Selection and ageing (R39) -/

/-- The queue served next among those of a level: the first above the one served last, else the first. -/
def roundRobin (last : Option Nat) (l : List Served) : Option Served :=
  match last with
  | none => l.head?
  | some n => match l.find? (fun x => n < x.q) with
    | some x => some x
    | none => l.head?

/-- The queue a core serves, and the other queues that had a dispatchable head. -/
def selectQueue (s : State) (ck : Nat) : Option (Nat × Served × List Served) :=
  let p := pkgOf (dieOfCore ck)
  let ready := (servedQueues s ck).filter (fun x => (queueHead s p x.vi x.q).ready)
  let cur := fun (x : Served) => qCur ((s.pkg p).queue x.q)
  let top := ready.foldl (fun m x => max m (cur x)) 0
  let last := if Table.has (s.core ck).served top then some (Table.get (s.core ck).served top 0) else none
  (roundRobin last (ready.filter (fun x => cur x == top))).map (fun x => (top, x, ready.filter (fun y => y.q != x.q)))

/-- A queue passed over: at 65,536 it rises a level, and its count restarts. -/
def passOver (d : Line) : Line :=
  if qPass d + 1 == 65536 then setField (setField d 320 32 0) 56 2 (min 3 (qCur d + 1)) else setField d 320 32 (qPass d + 1)

/-- A served queue returns to its programmed level, its count restarting. -/
def servedDesc (d : Line) : Line := setField (setField d 56 2 (qPrio d)) 320 32 0

/-- The bookkeeping of a pop. -/
def noteServed (s : State) (ck top : Nat) (x : Served) (others : List Served) : State :=
  let s := s.modCore ck (fun c => { c with served := Table.put c.served top x.q })
  s.modPkg (pkgOf (dieOfCore ck)) (fun k =>
    others.foldl (fun k y => k.setQueue y.q (passOver (k.queue y.q))) (k.setQueue x.q (servedDesc (k.queue x.q))))

/-! ### A context set up (R36) -/

/-- Every register zero under a pennant. -/
def zeroTag {n : Nat} (p : Pen) : Tag n := ⟨p, 0⟩

/-- The context a task record sets up in a bank; its first command takes SEQ 0 (R417). -/
def newContext (id ck : Nat) (x : Served) (p : Pen) (cbase finc : Nat) (cycle : Nat) (r : Line) : Ctx :=
  let z : Vector (Tag 64) 32 := Vector.replicate 32 (zeroTag p)
  let s1 := ((z.set 1 ⟨p, recFrame r⟩).set 2 ⟨p, recJoin r⟩).set 3 ⟨p, recArg r 0⟩
  { Ctx.empty with
    id := id, home := ck, status := .ready, vi := BitVec.ofNat 8 x.vi, vcn := BitVec.ofNat 16 x.vcn,
    taskq := ⟨p, BitVec.ofNat 13 x.vq⟩, cbase := ⟨p, BitVec.ofNat 64 cbase⟩, join := recJoin r, frame := recFrame r,
    finc := BitVec.ofNat 16 finc, pcS := recCode r,
    s := ((s1.set 4 ⟨p, recArg r 1⟩).set 5 ⟨p, recArg r 2⟩).set 6 ⟨p, recArg r 3⟩,
    a := z, k := Vector.replicate 8 (zeroTag p), c := Vector.replicate 16 (zeroTag p),
    rb := Vector.ofFn (fun i => ⟨p, seedLanes (BitVec.ofNat 32 i.val)⟩), zc := Vector.replicate 8 (zeroTag p),
    wd := Vector.replicate 4 (zeroTag p), acc := Vector.replicate 2 (zeroRows p), tok := Vector.replicate 12 (zeroTag p),
    rmode := zeroTag p, tvec := zeroTag p, tcause := zeroTag p, tinfo := zeroTag p, epcS := zeroTag p, epcA := zeroTag p,
    epcV := zeroTag p, epcM := zeroTag p, epcMN := zeroTag p, nextS := cycle, nextA := cycle, nextV := cycle,
    nextM := cycle }

/-- The completion of a hand-over by the record that carries it (R181). -/
def completeHandOver (s : State) (k : Nat) (r : Line) : State :=
  let c := s.ctx k
  let pen := s.ctxPen c
  let st := recArg r 3
  let v := s.ctxVi c
  if recKind r != 0 || field st 7 1 != 1 || field st 0 4 != 0 || !hasClaims v || 2 ^ viClb v * 16 ≤ field st 8 24 then s
  else
    let entry := field st 8 24
    let b := bucketOfEntry v entry
    let e := readClaim s b (entry % 8) pen
    if clState e == 1 && clPend e && clMtok e == field st 32 32 && clPen e == pen then
      let s := writeClaim s b (entry % 8) (setField (setField e 112 16 c.vcn.toNat) 109 1 0)
      let m : Maker := ⟨BitVec.ofNat 24 entry, BitVec.ofNat 32 (clMtok e), clName e 0, clName e 1, clName e 2⟩
      s.modCtx k (fun c => { c with maker := c.maker ++ [m] })
    else s

/-- A closure record routed onward: its record and its reference go to the virtual core's queue, and the bank is EMPTY
again (R248). -/
def reroute (s : State) (k : Nat) (h : Handle) (r : Line) : Option State :=
  let c := s.ctx k
  match routeOfVcn s c.die c.vi.toNat (hVcore h) with
  | none => none
  | some (p, q) =>
    let s := (pushHome s p c.vi.toNat q (s.ctxPen c) r).2
    some (emptyBank (handOverAll s k) k)

/-- The first step of a closure record's context (R248): the call branch of APPLY, with k0 holding the record's
reference; its faults are the new context's own. -/
def startClosure (s : State) (k : Nat) (r : Line) : State :=
  let c := s.ctx k
  let pen := s.ctxPen c
  let h := recCode r
  let entry := entryOf (c.cbase.read pen) h
  let s := s.modCtx k (fun c => { (c.writeK pen 0 h) with pcS := entry })
  let fail := fun (code : Nat) => trapNow s k ⟨code, .s, entry, 0, 0⟩
  match envOf s c.die c.vi.toNat h with
  | none => fail fNullK
  | some _ =>
    if hVcore h != c.vcn.toNat then
      match reroute s k h r with
      | some s => s
      | none => fail fNullK
    else match callCheck s c h with
      | .error code => fail code
      | .ok _ => s

/-- A task record enters a bank (R36, R246). FINC counts the dispatches made before it: R246 does not say whether it counts the
one being made (DESIGN CHOICE, log entry 72). `pos` is HEAD at the dispatch; the dispatch and a hand-over that it completes are
outcomes of R400, also where the context ends at once. -/
def startTask (s : State) (k : Nat) (x : Served) (pos : Nat) (r : Line) : State :=
  let ck := coreOf k
  let p := pkgOf (dieOfCore ck)
  let key := 65536 * x.vi + x.vcn
  let n := Table.get (s.pkg p).dispatches key 0
  let s := s.modPkg p (fun d => { d with dispatches := Table.put d.dispatches key (n + 1) })
  let (id, s) := s.takeFresh
  let c := newContext id ck x (s.penOf p x.vi) (viCbase ((s.pkg p).vi x.vi)) n s.cycle r
  let s := orderEvent (dropL1 (s.setCtx k c) k) c .s 1 (BitVec.ofNat 64 (4294967296 * x.vq + pos))
  let s := completeHandOver s k r
  let s := if (s.ctx k).maker.isEmpty then s else orderEvent s c .s 3 (recArg r 3)
  if recClo r then startClosure s k r else s

/-! ### Dispatch (R35, R40, R154) -/

/-- The task record of a barrier record's continuation (R40, R154). -/
def continuation (b : Barrier) : Line :=
  let r := b.record
  let t := fun (a0 a1 : Dword) => taskRecord (recClo r) (recCode r) (recFrame r) 0 a0 a1 0 0
  match b.verdict with
  | some (some (j, _)) => t 1 (BitVec.ofNat 64 j)
  | _ => t 0 0

/-- The record at the head of the ring is removed. -/
def popRing (s : State) (p q : Nat) : State :=
  s.modPkg p (fun k => { k.setQueue q (setField (k.queue q) 384 32 (qHead (k.queue q) + 1)) with
    pushed := Table.drop k.pushed (4294967296 * q + qHead (k.queue q)) })

/-- What the read of a queue's head leaves behind: an error found, or a refusal counted (R110, R191). -/
def meetHead (s : State) (p vi q : Nat) : State :=
  let d := (s.pkg p).queue q
  afterAccess s (queueAccessor s p vi q) Need.read (qBase d + 64 * (qHead d % qCap d)) false

/-- A barrier record is removed, from the ring or from the side area. -/
def removeBarrier (s : State) (p : Nat) (b : Barrier) : State :=
  let s := s.modPkg p (fun k => { k with barriers := k.barriers.erase b })
  if b.aside.isSome then
    s.modPkg p (fun k => k.setQueue b.queue (setSide (k.queue b.queue) (k.sideCount b.queue)))
  else popRing s p b.queue

/-- The record at the head of a ring whose read fails, as it was pushed: whatever check fails, its references are known
(log entry 60). -/
def slotRecord (s : State) (p q : Nat) : Option Line :=
  let n := 4294967296 * q + qHead ((s.pkg p).queue q)
  if Table.has (s.pkg p).pushed n then some (Table.get (s.pkg p).pushed n 0) else none

/-- A record removed unrun, with its KIND 4 record; its closure reference is released, and a hand-over runs again (R35,
R422). -/
def refuseRecord (s : State) (p : Nat) (x : Served) (r : Option Line) (code : Nat) : State :=
  let pen := s.penOf p x.vi
  let pos := qHead ((s.pkg p).queue x.q)
  let s := popRing s p x.q
  match r with
  | none => (report s p x.vi (queueRec 4 code pen.toNat x.vq pos) false).2
  | some r => handOverRecord (dropRecord s p x.vi x.vq pen r code pos) p x.vi pen r

/-- The head record of the selected queue is dispatched; refused records are removed on the way, at most as many as the
ring holds. -/
def dispatchFrom (s : State) (k : Nat) (x : Served) : Nat → State
  | 0 => s
  | fuel + 1 =>
    let p := pkgOf (dieOfCore (coreOf k))
    match queueHead s p x.vi x.q with
    | .none => s
    | .unseen => s.act (.barrierEvaluate p x.q 0)
    | .verdict b => startTask (removeBarrier s p b) k x (qHead ((s.pkg p).queue x.q)) (continuation b)
    | .failed code => dispatchFrom (refuseRecord (meetHead s p x.vi x.q) p x (slotRecord s p x.q) code) k x fuel
    | .record r =>
      let s := meetHead s p x.vi x.q
      if recordOk r then startTask (popRing s p x.q) k x (qHead ((s.pkg p).queue x.q)) r
      else dispatchFrom (refuseRecord s p x (some r) fIllegal) k x fuel

/-- A bank takes a dispatch while it is EMPTY (R31, R39). -/
def dispatch (k : Nat) (s : State) : State :=
  let ck := coreOf k
  if isSlot k || (s.ctx k).status != .empty then s
  else match selectQueue s ck with
    | none => s
    | some (top, x, others) => dispatchFrom (noteServed s ck top x others) k x 65537

def execDispatch (k : Nat) (s : State) : Result := .next (dispatch k s)

/-! ### Bank switches (R32) -/

/-- A core whose running bank has gone takes its READY bank; where both have become READY in the cycle, bank 0, as R32 names
neither (DESIGN CHOICE, log entry 61). -/
def bankSwitch (ck : Nat) (s : State) : State :=
  if (s.core ck).running.isSome then s
  else if (s.ctx (bankKey ck false)).status == .ready then switchTo s ck false
  else if (s.ctx (bankKey ck true)).status == .ready then switchTo s ck true
  else s

def execBankSwitch (c : Nat) (s : State) : Result := .next (bankSwitch c s)

/-- A commit, an operation at a home controller or a privileged operation of S has begun: the context stops once it has
completed (R218, R337, R351). -/
def Ctx.committing (c : Ctx) : Bool := c.begun

/-- The cycles of a slice. -/
def sliceCycles : Nat := 65536

def sliceExpiry (ck : Nat) (s : State) : State :=
  match (s.core ck).running with
  | none => s
  | some b =>
    if (s.core ck).switched + sliceCycles ≤ s.cycle && (s.ctx (bankKey ck (!b))).status == .ready &&
        !(s.ctx (bankKey ck b)).committing then switchTo s ck (!b)
    else s

def execSliceExpiry (c : Nat) (s : State) : Result := .next (sliceExpiry c s)

/-- A running context's tile wait has lasted 256 cycles without a change of the tag. -/
def tileWaitTimeout (k : Nat) (s : State) : State :=
  let c := s.ctx k
  match c.tileWait with
  | some (t, full, since) =>
    if c.status == .running && since + 256 ≤ s.cycle && !c.committing then
      enterWaiting (s.modCtx k (fun c => { c with tileWait := none })) k (.tile t full)
    else s
  | none => s

def execTileWaitTimeout (k : Nat) (s : State) : Result := .next (tileWaitTimeout k s)

/-! ### Saving (R33, R100, R352) -/

/-- The lines of tiles, by their numbers. -/
def Memory.ofTiles (m : Memory) (ts : List Nat) : Memory :=
  ⟨m.cells.filter (fun c => ts.contains (c.1 / 16384)), m.pens.filter (fun c => ts.contains (c.1 / 256))⟩

/-- What a saved tile leaves behind: its incarnation and pennant, which closures compare, and no allocation. -/
def Tile.leave (x : Tile) : Tile := { x with alloc := false, full := false, land := false, held := 0 }

/-- A context moves from its bank to a slot: its drain, its tiles, and the deliveries held for them (R100). -/
def saveContext (s : State) (k slot : Nat) (held : Bool) : State :=
  let s := drain s k
  let ck := coreOf k
  let c := s.ctx k
  let ts := (s.core ck).tilesOf (bankOf k) (s.ctxPen c)
  let tiles : Table Tile := ts.map (fun t => (t, s.tile ck t))
  let c := { c with savedTiles := tiles, savedSpad := (s.core ck).spad.ofTiles ts, held := held,
                    status := if c.status == CtxStatus.running then .ready else c.status }
  let s := { s with deliveries := s.deliveries.map (fun (d : Delivery) =>
    if d.state == DeliveryState.held && coreKey d.die d.core == ck && ts.contains d.tile then
      { d with state := .parked, vcn := c.vcn } else d) }
  let s := s.modCore ck (fun x => { x with tiles := Table.mapIf x.tiles (fun t _ => ts.contains t) Tile.leave })
  let s := writeSlot (dropL1 s k) c (slot % 262144)
  let s := { s with ctxs := Table.put (Table.drop s.ctxs k) slot c }
  leaveCore (if s.focus.key == k then { s with focus := ⟨slot, .s⟩ } else s) k

/-- The slots of a VI that hold nothing, from number lo to number hi − 1. -/
def freeSlot (s : State) (p vi lo hi : Nat) : Option Nat :=
  (List.range (hi - lo)).findSome? (fun n =>
    let k := slotKey p vi (lo + n)
    if Table.has s.ctxs k then none else some k)

/-- No delivery is landing in a context's tiles. -/
def noLanding (s : State) (k : Nat) : Bool :=
  !((s.core (coreOf k)).tiles.any (fun e => e.2.heldBy (bankOf k) (s.ctxPen (s.ctx k)) && e.2.land))

/-- The scheduler saves a WAITING context, into a free slot below 2·VCORES. -/
def contextSave (k slot : Nat) (s : State) : State :=
  let c := s.ctx k
  let key := slotKey c.pkg c.vi.toNat slot
  if isSlot k || c.status != .waiting || c.committing || Table.has s.ctxs key || 2 * viVcores (s.ctxVi c) ≤ slot || !noLanding s k then s
  else saveContext s k key false

def execContextSave (k slot : Nat) (s : State) : Result := .next (contextSave k slot s)

/-! ### Restoring (R33, R100, R106, R169) -/

/-- The core that a context's core-map entry names: the one its virtual core stands on (R166). -/
def vcnCore (s : State) (c : Ctx) : Nat :=
  let e := (s.die c.die).coreEntry c.vi.toNat c.vcn.toNat
  if ceValid e && ceDie e == c.die then coreKey c.die (ceCore e) else c.home

/-- The live environment entries made under a context's virtual core, where it stands. -/
def envOfContext (s : State) (c : Ctx) : List (Nat × Env) := liveEnvs s (vcnCore s c) (s.ctxPen c) c.vcn.toNat

/-- Another context with the same virtual core stands on a core, or is saved with tiles there (R169). -/
def sharesCore (s : State) (slot : Nat) (c : Ctx) (ck : Nat) : Bool :=
  s.ctxs.any (fun e => e.1 != slot && e.2.isOf c.pkg c.vi.toNat && e.2.vcn == c.vcn && e.2.home == ck &&
    (!isSlot e.1 || !e.2.savedTiles.isEmpty))

/-- A core of the die serves the context's task queue for its VI. -/
def servesQueue (s : State) (c : Ctx) (ck : Nat) : Bool :=
  (s.die (dieOfCore ck)).coreMap.any (fun e => e.1 / 65536 == c.vi.toNat && ceValid e.2 && ceDie e.2 == dieOfCore ck &&
    ceCore e.2 == ck % 144 && (ceQueues e.2).contains (s.taskOf c))

/-- The tile numbers and, where the virtual core moves, the environment indices a context brings are free on a core. -/
def roomOn (s : State) (c : Ctx) (ck : Nat) : Bool :=
  c.savedTiles.all (fun e => let t := s.tile ck e.1; !t.land && (!t.alloc || !(s.pkg c.pkg).current t.pen)) &&
  (ck == vcnCore s c || envRoom s ck (envOfContext s c))

/-- A core may take a saved context (R33, R169); one stopped in a word that reads slots, only the core it left (R324). -/
def mayRestore (s : State) (slot : Nat) (c : Ctx) (ck : Nat) : Bool :=
  dieOfCore ck == c.die && servesQueue s c ck && roomOn s c ck && (ck == c.home || !c.mslot) &&
  (ck == vcnCore s c || !sharesCore s slot c (vcnCore s c))

/-- The virtual core moves: its entry names the new core, and its environments go along. -/
def moveVcn (s : State) (c : Ctx) (ck : Nat) : State :=
  let es := envOfContext s c
  let src := vcnCore s c
  let key := 65536 * c.vi.toNat + c.vcn.toNat
  let s := s.modDie c.die (fun d =>
    { d with coreMap := Table.put d.coreMap key (setField (Table.get d.coreMap key 0) 490 8 (ck % 144)) })
  moveEnvs s src ck es

/-- Lines put into a scratchpad as they are. -/
def Memory.putAll (m n : Memory) : Memory :=
  n.pens.foldl (fun m e => m.putLine e.1 e.2 (n.raw e.1)) m

/-- Deliveries parked for a context's tiles go to its core in order, and what can be admitted is (R100). They enter its hold
queue whatever it holds: neither R98 nor R100 says what becomes of them where it has too little room (DESIGN CHOICE, log entry
73). -/
def forwardHeld (s : State) (c : Ctx) (ck : Nat) : State :=
  let mine := fun (d : Delivery) => d.state == .parked && coreKey d.die d.core == c.home && d.vcn == c.vcn &&
    d.vi == c.vi && Table.has c.savedTiles d.tile
  let ns := (s.core c.home).holdq.filter (fun n => match s.delivery n with | some d => mine d | none => false)
  let s := s.modCore c.home (fun x => { x with holdq := x.holdq.filter (fun n => !ns.contains n) })
  let s := { s with deliveries := s.deliveries.map (fun (d : Delivery) =>
    if ns.contains d.n then { d with state := .held, core := ck % 144 } else d) }
  let s := s.modCore ck (fun x => { x with holdq := x.holdq ++ ns })
  (c.savedTiles.map Prod.fst).foldl (fun s t =>
    let n := ((s.core ck).holdq.filter (fun n => match s.delivery n with | some d => d.tile == t && d.state == .held | none => false)).length
    admitHeld (s.setTile ck t { s.tile ck t with held := n }) ck t) s

/-- Deliveries that land in a saved context's tiles go on landing in them on its new core (R100). -/
def landHere (s : State) (slot ck : Nat) : State :=
  { s with deliveries := s.deliveries.map (fun (d : Delivery) =>
    if d.state == .admitted && landPlace s d == some (Place.slot slot) then { d with core := ck % 144 } else d) }

/-- A saved context goes into a bank. -/
def restoreContext (s : State) (slot k : Nat) : State :=
  let ck := coreOf k
  let c := s.ctx slot
  let s := landHere (freeHeader s slot) slot ck
  let s := if ck == vcnCore s c then s else moveVcn s c ck
  let s := s.modCore ck (fun x =>
    { x with tiles := c.savedTiles.foldl (fun ts e => Table.put ts e.1 { e.2 with bank := bankOf k }) x.tiles,
             spad := x.spad.putAll c.savedSpad })
  let c' := { c.setEv with home := ck, status := .ready, held := false, savedTiles := [], savedSpad := .empty,
                           nextS := s.cycle, nextA := s.cycle, nextV := s.cycle, nextM := s.cycle }
  let s := dropL1 { s with ctxs := Table.put (Table.drop s.ctxs slot) k c' } k
  let s := if s.focus.key == slot then { s with focus := ⟨k, .s⟩ } else s
  forwardHeld s c ck

/-- A saved context whose event has occurred is restored into an EMPTY bank of an eligible core. -/
def contextRestore (slot k : Nat) (s : State) : State :=
  let c := s.ctx slot
  if !isSlot slot || isSlot k || c.status != .ready || c.held || (s.ctx k).status != .empty ||
      !mayRestore s slot c (coreOf k) then s
  else restoreContext s slot k

def execContextRestore (slot k : Nat) (s : State) : Result := .next (contextRestore slot k s)

/-! ### Traps and ends -/

/-- The failed wait of the lowest stream (R346, R348). -/
def Ctx.failedWait (c : Ctx) : Option PageWait :=
  (List.range 4).findSome? (fun i => c.waits.find? (fun w => w.state == .failed && w.kind != .engine && w.stream.code == i))

/-- A breakpoint stop holds a stream at its next word (R401). -/
def Ctx.heldAt (c : Ctx) (st : Stream) : Option Stop :=
  if c.ended st || (st != .s && c.handler) then none else c.stops.find? (fun x => x.stream == st && x.start == c.pc st)

/-- The breakpoint stop that is due, of the lowest stream (R346, R401). -/
def Ctx.dueStop (c : Ctx) : Option Stop := [Stream.s, .a, .v, .m].findSome? c.heldAt

/-- The trap a context enters when it next runs: one it was left with, one of a wait that has failed, or that of a
breakpoint. -/
def Ctx.dueTrap (c : Ctx) : Option Trap :=
  match c.pend with
  | some t => some t
  | none => match c.failedWait with
    | some w => some ⟨w.code, w.stream, w.pc, w.va, 0⟩
    | none => match c.dueStop with
      | some x => if x.halt then none else some ⟨fBrk, x.stream, x.start, 0, 0⟩
      | none => none

/-- A breakpoint stop taken, which does not fire again. -/
def Ctx.takeStop (c : Ctx) : Ctx :=
  match c.dueStop with
  | some x => { c with stops := c.stops.filter (fun y => y != x) }
  | none => c

/-- The cause of the trap that is due taken from the context; a breakpoint stop beside another cause stays (R401). -/
def Ctx.takeTrap (c : Ctx) : Ctx :=
  if c.pend.isSome || c.failedWait.isSome then { c with pend := none, waits := c.waits.filter (fun w => w.state != .failed) }
  else c.takeStop

/-- Trap entry at the head of the issuing context, for a fault that VIMAP FAIL or a stream left (R333, R348). Faults met in the
cycle that do not trap at once are taken here when every stream has issued: one that traps before those that await an
answer (R346), and these once a commit that has begun has completed (R218). -/
def trapEntry (s : State) : State :=
  match s.cur.dueTrap with
  | some t => trapNow (s.modCur Ctx.takeTrap) s.focus.key t
  | none =>
    match s.cur.soft.find? (fun f => !f.awaits) with
    | some f => trapNow s s.focus.key ⟨f.code, f.stream, f.pc, BitVec.ofNat 64 f.va, 0⟩
    | none => if s.cur.soft.isEmpty || s.cur.committing then s else pageWaits s s.focus.key s.cur.soft

def execTrapEntry (s : State) : Result := .next (trapEntry s)

/-- A context ends without TEND, for a cause of R344. -/
def contextEnd (k : Nat) (cause : BitVec 8) (s : State) : State :=
  let c := s.ctx k
  if c.status == .empty then s
  else
    let r := match c.dueTrap with
      | some t => endRec s k cause.toNat t.code t.stream.code t.pc.toNat t.addr.toNat
      | none => endRec s k cause.toNat (if cause == 1 then fRemote else fNone) 0 c.pcS.toNat 0
    endContext s k r (cause == 1)

def execContextEnd (k : Nat) (cause : BitVec 8) (s : State) : Result := .next (contextEnd k cause s)

/-! ### Group commits and held pushes -/

/-- The commit of a group goes on: once every line is settled the boundary completes (R130, R131). -/
def commitComplete (n : Nat) (s : State) : State :=
  match s.groups.find? (fun g => g.n == n) with
  | none => s
  | some g => match g.commit with
    | none => s
    | some lines =>
      let (rest, pz, s) := commitGroup s g.vi.toNat g.paused lines
      if rest.isEmpty then progress (boundary s { g with commit := none, paused := [] }) n 4
      else s.setGroup { g with commit := some rest, paused := pz }

def execCommitComplete (g : Nat) (s : State) : Result := .next (commitComplete g s)

/-- The oldest push held for a queue enters it once EN is 1 and there is space; a stale one is dropped (R149, R422). -/
def heldPushEnter (p q : Nat) (s : State) : State :=
  let k := s.pkg p
  match k.heldPushes.find? (fun h => h.queue == q) with
  | none => s
  | some h =>
    let vi := penVi h.pen
    let gone := s.setPkg p { k with heldPushes := k.heldPushes.erase h }
    if k.pen vi != h.pen then gone
    else if !queueOpen k q h.pen then s
    else match queueWrite gone p vi q h.pen h.record with
      | .ok s => s
      | .error f =>
        handOverRecord (dropRecord gone p vi (q - viQfirst (k.vi vi)) h.pen h.record f.code 0xFFFFFFFF) p vi h.pen h.record

def execHeldPushEnter (p q : Nat) (s : State) : Result := .next (heldPushEnter p q s)

end Sys2Proof.Machine
end

