-- ==== Sys2Proof/Machine/Barriers.lean ====
section
/-! DEFINITION. The evaluation of barrier records (R151 to R154, R420, R422). -/

namespace Sys2Proof.Machine

/-! ### What an evaluation decides (R152) -/

/-- The outcome of an evaluation. -/
inductive Judgement where
  /-- Aborted: the lowest failing signal, and SIGNEG or the code of the check it failed. -/
  | abort (j code : Nat)
  | satisfied
  | waits
  deriving DecidableEq, Repr

/-- Signal j fails: it is unreachable, or the value its queue has been notified of is negative. -/
def signalFails (s : State) (a : Accessor) (va : Nat) (known : Option Dword) : Option Nat :=
  if va == 0 then none
  else match checkAll s a Need.read va false with
    | .error f => some f.code
    | .ok _ => match known with
      | some v => if v.toInt < 0 then some fSigNeg else none
      | none => none

/-- The decision on a record, from the signal values its queue has been notified of. -/
def judge (s : State) (a : Accessor) (r : Line) (known : List (Option Dword)) : Judgement :=
  let sigs := (barrierSignals r).zip known
  match sigs.zipIdx.findSome? (fun (x, j) => (signalFails s a x.1 x.2).map (fun code => (j, code))) with
  | some (j, code) => .abort j code
  | none => if sigs.all (fun x => x.1 == 0 || x.2 == some 0) then .satisfied else .waits

/-- What the reads of a record's signals leave at their controllers (R110, R191). -/
def meetSignals (s : State) (a : Accessor) (r : Line) : State :=
  ((barrierSignals r).filter (fun va => va != 0)).foldl (fun s va => afterAccess s a Need.read va false) s

/-- The value of a signal as its home controller holds it for a reader, none where it is unreachable (R196). -/
def signalValue (s : State) (a : Accessor) (va : Nat) : Option Dword :=
  match accRead s a Need.read va with
  | .ok l => some (lineDword l 0)
  | .error _ => none

/-! ### Effects (R152, R154) -/

/-- A barrier record of a package changed, by its queue and position. -/
def State.setBarrier (s : State) (p : Nat) (b : Barrier) : State :=
  s.modPkg p (fun k => { k with barriers := k.barriers.map (fun x => if x.queue == b.queue && x.pos == b.pos then b else x) })

/-- A signal set to −1 where its count is 0 or more (R154). -/
def propagate (a : Accessor) (s : State) (va : Nat) : State :=
  match signalValue s a va, checkAll s a Need.write va false with
  | some v, .ok w =>
    if v.toInt < 0 then s
    else match accDword s a va (fun _ => -1) with
      | .ok (_, s) => signalChanged s w.gpa (-1)
      | .error _ => s
  | _, _ => s

/-- An abort: the verdict, the propagation and the abort record (R154). -/
def abortBarrier (s : State) (p vi : Nat) (b : Barrier) (j code : Nat) : State :=
  let a := queueAccessor s p vi b.queue
  let s := s.setBarrier p { b with verdict := some (some (j, code)) }
  let others := ((barrierSignals b.record).zipIdx.filter (fun (va, i) => va != 0 && i != j)).map Prod.fst
  let s := if field b.record 59 1 == 1 then others.foldl (propagate a) s else s
  (report s p vi (queueRec 3 code a.pen.toNat (b.queue - viQfirst ((s.pkg p).vi vi)) b.pos) false).2

/-- The lowest free place of a queue's side area. -/
def freeSide (k : Pkg) (q : Nat) : Option Nat :=
  (List.range 8).find? (fun i => !k.barriers.any (fun b => b.queue == q && b.aside == some i))

/-- A waiting record with BAR = 0 is copied into the side area where it has room; a failing copy removes it (R152,
R422). -/
def moveAside (s : State) (p vi : Nat) (b : Barrier) : State :=
  let d := (s.pkg p).queue b.queue
  match freeSide (s.pkg p) b.queue with
  | none => s
  | some i =>
    let a := queueAccessor s p vi b.queue
    let va := qBase d + 64 * qCap d + 64 * i
    let s := afterAccess s a Need.write va true
    match accWrite s a Need.write va maskAll b.record with
    | .ok s =>
      let s := popRing (s.setBarrier p { b with aside := some i }) p b.queue
      s.modPkg p (fun k => k.setQueue b.queue (setSide (k.queue b.queue) (k.sideCount b.queue)))
    | .error f =>
      let s := s.modPkg p (fun k => { k with barriers := k.barriers.erase b })
      dropRecord (popRing s p b.queue) p vi (b.queue - viQfirst ((s.pkg p).vi vi)) a.pen b.record f.code b.pos

/-- A record that waits steps aside where it may. -/
def stepAside (s : State) (p vi : Nat) (b : Barrier) : State :=
  if b.aside.isNone && !recBar b.record then moveAside s p vi b else s

/-- One evaluation of a record. -/
def settleBarrier (s : State) (p vi : Nat) (b : Barrier) : State :=
  match judge s (queueAccessor s p vi b.queue) b.record b.known with
  | .abort j code => abortBarrier s p vi b j code
  | .satisfied => s.setBarrier p { b with verdict := some none }
  | .waits => stepAside s p vi b

/-- A record's values with that of one signal replaced, and its places as its tables give them now. -/
def learn (s : State) (a : Accessor) (b : Barrier) (gpa : Nat) (v : Dword) : Barrier :=
  let xs := (barrierSignals b.record).zip b.places
  { b with
    known := (xs.zip b.known).map (fun (x, y) => if signalAt s a gpa x then some v else y),
    places := xs.map (fun x => match signalPlace s a x.1 with | some g => some g | none => x.2) }

/-- A record learns a notified value and is evaluated, if one of its signals has it, reachable or not. -/
def notice (p vi gpa : Nat) (v : Dword) (s : State) (b : Barrier) : State :=
  let a := queueAccessor s p vi b.queue
  if b.names s a gpa then
    let b := learn s a b gpa v
    settleBarrier (s.setBarrier p b) p vi b
  else s

/-- The barrier record that has reached the head of a queue's ring and has not been evaluated, whether or not a core serves
the queue now (R152). -/
def unseenHead (s : State) (p vi q : Nat) : Option Line :=
  let k := s.pkg p
  let d := k.queue q
  if qPen d != k.pen vi || qTail d == qHead d || k.barriers.any (fun b => b.queue == q && b.aside.isNone) then none
  else match readRecord s p vi q with
    | .ok r => if recKind r == 1 && recordOk r then some r else none
    | .error _ => none

/-- The first evaluation of the barrier record at the head of a queue. -/
def firstEvaluation (s : State) (p vi q : Nat) : State :=
  match unseenHead s p vi q with
  | some r =>
    let a := queueAccessor s p vi q
    let s := meetSignals (meetHead s p vi q) a r
    let b : Barrier := ⟨q, qHead ((s.pkg p).queue q), r,
      (barrierSignals r).map (fun va => if va == 0 then none else signalValue s a va),
      (barrierSignals r).map (fun va => if va == 0 then none else signalPlace s a va), none, none⟩
    settleBarrier (s.modPkg p (fun k => { k with barriers := k.barriers ++ [b] })) p vi b
  | none => s

/-- BARRIER_EVALUATE of a queue: the oldest notification of a signal where one stands, else the record at the head, which is
evaluated when it comes there and not again until a signal of it changes; while it waits it steps aside once the side area
has room (R152). -/
def barrierEvaluate (p q : Nat) (sig : Dword) (s : State) : State :=
  let k := s.pkg p
  match ownerOf k viQfirst viQcount q with
  | none => s
  | some vi => match k.notices.find? (fun n => n.queue == q && n.sig == sig) with
    | some n =>
      let s := s.setPkg p { k with notices := k.notices.erase n }
      (k.barriers.filter (fun b => b.queue == q && b.verdict.isNone)).foldl (notice p vi sig.toNat n.value) s
    | none => match k.barriers.find? (fun b => b.queue == q && b.aside.isNone && b.verdict.isNone) with
      | some b => stepAside s p vi b
      | none => firstEvaluation s p vi q

def execBarrierEvaluate (p q : Nat) (sig : Dword) (s : State) : Result := .next (barrierEvaluate p q sig s)

end Sys2Proof.Machine
end

