-- ==== Sys2Proof/Machine/Routers.lean ====
section
/-! DEFINITION. Packets and the state of routers (R365 to R377): forming and sending a request, routing by dimension order
(R368 to R370), the checks of a target (R371, R372) and performing at most once (R373, R374). -/

namespace Sys2Proof.Machine

/-! ### Responses -/

/-- Response codes (R367). -/
def rspDone : Nat := 0
def rspHeld : Nat := 1
def rspAdmit : Nat := 2
def rspBusy : Nat := 3
def rspFault : Nat := 4

/-- A response to a request: its code, a fault code, and for a home-controller operation its value (R367). -/
def sendResponse (s : State) (own src : Nat) (seq : BitVec 16) (pen : Pen) (home : Bool) (code fault : Nat) (value : Dword) :
    State :=
  let (p, s) := formPacket s ⟨.rsp, own, src, pen, BitVec.ofNat 40 fault, BitVec.ofNat 8 code,
    if home then [value.setWidth 512] else [], false, 0, .none, maskAll, seq, none⟩
  launch s p

/-! ### Forwarding (R368 to R370) -/

/-- The link crosses its ring's wrap. -/
def crossesDateline (d link : Nat) : Bool :=
  match link with
  | 0 => dieX d == 15
  | 1 => dieX d == 0
  | 2 => dieY d == 23
  | 3 => dieY d == 0
  | 4 => dieZ d == 23
  | _ => dieZ d == 0

/-- A packet after a hop on a link: HOPS rises, and VC[0] is its dateline channel in the ring (R364, R369, R370). -/
def Packet.hop (p : Packet) (link cycle : Nat) : Packet :=
  let line := (p.dim == link / 2 && p.vc % 2 == 1) || crossesDateline p.here link
  { p with header := setField (setField p.header 8 6 (p.hops + 1)) 130 1 line.toNat,
           here := neighbour p.here link, since := cycle, dim := link / 2 }

/-- A packet dropped at a router, counted in FABDROP. -/
def fabDrop (s : State) (p : Packet) : State := (s.dropPacket p.n).count p.here Counters.incFabDrop

/-- A request whose packet has left its source die. -/
def Router.noteLeft (r : Router) (p : Packet) : Router :=
  { r with requests := r.requests.map (fun (q : Request) =>
      if q.msg.seq == p.seq && q.msg.dst == p.dst then { q with left := true } else q) }

/-- A router forwards a transit packet, or drops it. The links carry none until the secret is accepted (R410). -/
def packetForward (n : Nat) (s : State) : State :=
  match s.packet n with
  | none => s
  | some p =>
    if p.here == p.dst || (s.secretOf p.here).isNone then s
    else
      let r := routeOf (s.die p.here) p.dst
      let link := linkOf r
      if !routeP r || 48 ≤ p.hops + 1 || p.since + cycles50us < s.cycle || 6 ≤ link ||
          (s.router p.here).dead.contains link then fabDrop s p
      else
        let q := p.hop link s.cycle
        let s := { s with packets := s.packets.map (fun (x : Packet) => if x.n == n then q else x) }
        if p.vc / 2 == 1 then s else s.modRouter p.src (fun x => x.noteLeft p)

def execPacketForward (n : Nat) (s : State) : Result := .next (packetForward n s)

/-- A packet that has waited more than 50 µs in one router is dropped. -/
def packetWaitExpiry (n : Nat) (s : State) : State :=
  match s.packet n with
  | none => s
  | some p => if p.here != p.dst && p.since + cycles50us < s.cycle then fabDrop s p else s

def execPacketWaitExpiry (n : Nat) (s : State) : Result := .next (packetWaitExpiry n s)

/-! ### The checks of a target (R371, R372) -/

/-- What a packet says, and the epoch it is accepted under: its tag verifies under the key its receiver forms, and nothing in
it is reserved. -/
def authentic (s : State) (p : Packet) : Option (Nat × Msg) :=
  match s.secretOf p.dst, epochFor ((s.router p.dst).source p.src).epoch p.ep with
  | some secret, some e => (p.openWith (linkKey secret p.src e)).map (fun m => (e, m))
  | _, _ => none

/-- A packet that arrives: taken out of flight, with its epoch accepted; or dropped and counted in AUTHFAIL. -/
def arrivePacket (s : State) (n : Nat) (type : PacketType) : Option Msg × State :=
  match s.packet n with
  | none => (none, s)
  | some p =>
    if p.here != p.dst || p.type != some type then (none, s)
    else
      let s := s.dropPacket n
      match authentic s p with
      | none => (none, s.count p.dst Counters.incAuthFail)
      | some (e, m) => (some m, s.modReceive m.dst m.src (fun x => { x with epoch := max x.epoch e }))

/-! ### Performing at most once (R374) -/

/-- A response cached and sent. -/
def respond (s : State) (m : Msg) (code fault : Nat) (value : Dword) : State :=
  sendResponse (s.modReceive m.dst m.src (fun x => x.remember m.seq code fault value)) m.dst m.src m.seq m.pen (m.type == .hop)
    code fault value

/-- A repeat: discarded, counted, and answered from the cache, or with DONE where it has left it. -/
def answerRepeat (s : State) (m : Msg) : State :=
  let s := s.count m.dst Counters.incDedup
  let (code, fault, value) := match ((s.router m.dst).source m.src).cache.find? (fun e => e.1 == m.seq.toNat) with
    | some (_, x) => x
    | none => (rspDone, 0, 0)
  sendResponse s m.dst m.src m.seq m.pen (m.type == .hop) code fault value

/-- A request performed at its target at most once: `f` gives the response code, fault code, value and state. -/
def performOnce (s : State) (m : Msg) (f : State → (Nat × Nat × Dword) × State) : State :=
  match ((s.router m.dst).source m.src).judge m.seq with
  | .repeated => answerRepeat s m
  | .fresh =>
    let ((code, fault, value), s) := f (s.modReceive m.dst m.src (fun x => x.perform m.seq))
    respond s m code fault value

end Sys2Proof.Machine
end

