-- ==== Sys2Proof/Machine/Copies.lean ====
section
/-! DEFINITION. The engines (R137, R146, R147, R274 to R286, R381, R391): taking and performing commands, deliveries into
tiles (R98, R100, R275) and the posting of result elements. -/

namespace Sys2Proof.Machine

/-! ### Combining (R280) -/

def f32Extreme (greater : Bool) (d x : Nat) : Nat :=
  let a := Fmt.f32.decode d
  let b := Fmt.f32.decode x
  if a.isNan || b.isNan then Fmt.f32.nan
  else if (if greater then a.below b else b.below a) then x else d

def bf16Add (d x : Nat) : Nat := Fmt.bf16.round .rne 0 false ((Fmt.bf16.decode d).add (Fmt.bf16.decode x) false)

/-- One 32-bit word of a line combined under ROP. -/
def ropWord (rop d x : Nat) : Nat :=
  match rop with
  | 0 => f32Add d x
  | 1 => bf16Add (d % 65536) (x % 65536) + 65536 * bf16Add (d / 65536) (x / 65536)
  | 2 => (d + x) % 4294967296
  | 3 => f32Extreme true d x
  | _ => f32Extreme false d x

/-- A line combined word by word. -/
def ropLine (rop : Nat) (d x : Line) : Line :=
  BitVec.ofNat 512 (((List.range 16).map (fun i =>
    ropWord rop (field d (32 * i) 32) (field x (32 * i) 32) * 2 ^ (32 * i))).foldl (fun a b => a + b) 0)

/-- An atomic combine of the masked words of a line whose checks have passed. A weight page takes none (R280), nor does a group
descriptor (R42). -/
def combineLine (s : State) (a : Accessor) (w : Where) (rop : Nat) (mask : BitVec 64) (x : Line) : Except Fail State :=
  if w.leaf.wct || isDescriptor s w.gpa a.pen then .error ⟨12, fPerm⟩
  else match readLine s a w with
    | .error f => .error f
    | .ok old => writeLine s a w mask (ropLine rop old x)

/-- A copied line written whose checks have passed; a group descriptor takes none (R42). -/
def copyLine (s : State) (a : Accessor) (w : Where) (mask : BitVec 64) (x : Line) : Except Fail State :=
  if isDescriptor s w.gpa a.pen then .error ⟨12, fPerm⟩ else writeLine s a w mask x

/-! ### Commands and their engines (R18, R120, R121) -/

def State.modCmd (s : State) (k : Nat) (seq : BitVec 16) (f : Cmd → Cmd) : State := s.modCtx k (fun c => c.modCmd seq f)

/-- A command is at an engine: taken, held there or about to fail. -/
def CmdState.atEngine : CmdState → Bool
  | .taken _ => true
  | .held _ _ => true
  | .failing _ _ => true
  | _ => false

/-- A command by its context's number and its SEQ is at an engine. -/
def stillServed (s : State) (e : Nat × BitVec 16) : Bool :=
  match s.keyOfId e.1 with
  | none => false
  | some k => match (s.ctx k).cmd e.2 with
    | none => false
    | some m => m.state.atEngine

/-- The engine of a cluster that takes the next command: the one with the fewest, the lowest of these (DESIGN CHOICE, log
entry 62: R18 leaves it to the device). -/
def Units.nextEngine (u : Units) : Nat :=
  (List.range 4).foldl (fun b e => if (u.engine e).serves.length < (u.engine b).serves.length then e else b) 0

/-- A command taken by an engine of its context's cluster; commands that have left the engines are forgotten. -/
def assignEngine (s : State) (c : Ctx) (seq : BitVec 16) : State :=
  s.modUnits c.die (clusterOf c.home) (fun (u : Units) =>
    let u : Units := { u with engines := u.engines.map (fun (g : Engine) => { g with serves := g.serves.filter (stillServed s) }) }
    u.modEngine u.nextEngine (fun (g : Engine) => { g with serves := g.serves ++ [(c.id, seq)] }))

/-- The stream TLB of the engine that serves a command, which stays with it when its context moves (R147). -/
def engineTlb (s : State) (c : Ctx) (seq : BitVec 16) : Tlb :=
  match (s.die c.die).units.findSome? (fun (cl, u) =>
      ((List.range 4).find? (fun e => (u.engine e).serves.contains (c.id, seq))).map (fun e => (cl, e))) with
  | some (cl, e) => .engine c.die cl e
  | none => .engine c.die (clusterOf c.home) 0

def engineAccessor (c : Ctx) (m : Cmd) : Accessor := ⟨c.die, c.vi.toNat, cmdPen m.words⟩

/-- The address by which a command comes to its next page, from its line i on: that of the first later line of its `fuel` lines
that lies on another page (R121). -/
def pageAhead (va : Nat → Nat) (page : Nat) : Nat → Nat → Option Nat
  | 0, _ => none
  | fuel + 1, i => if va i / 65536 == page then pageAhead va page fuel (i + 1) else some (va i)

/-- Line i of a command's `total` is the first of its page in the command's order: the next page the command comes to, if any,
is prefetched (R121). -/
def nextPage (va : Nat → Nat) (total i : Nat) : Option Nat :=
  if i != 0 && va (i - 1) / 65536 == va i / 65536 then none else pageAhead va (va i / 65536) (total - i) i

/-- What an engine's access by a virtual address leaves in its stream TLB: its translation, and that of the page it is to
prefetch (R121); and at the controller of the die itself, an error that it finds. -/
def engineUse (s : State) (c : Ctx) (m : Cmd) (n : Need) (va : Nat) (ahead : Option Nat) (whole : Bool) : State :=
  let a := engineAccessor c m
  let u := engineTlb s c m.seq
  let s := translate s u c a va
  let s := match ahead with
    | some x => prefetch s u c a n x
    | none => s
  match checkSource s a n va with
  | .error _ => s
  | .ok w => if dieOfGpa w.gpa == c.die then meetTarget s c.die a.pen w whole else s

/-! ### Commands and their places -/

/-- The requests of a command that await a response are forgotten, and its reduction ends. -/
def dropRequests (s : State) (id : Nat) (seq : BitVec 16) : State := forgetRequests s (fun i q => i == id && q == seq)

/-- A command ends with a status and a value; its element is posted next. -/
def endCmd (s : State) (k : Nat) (seq : BitVec 16) (status value : Nat) : State :=
  ((dropRequests s (s.ctx k).id seq).modCmd k seq (fun m =>
      { m with state := .ended (BitVec.ofNat 8 status) (BitVec.ofNat 64 value), got := [], lens := [], far := [], pair := none })).act
    (.engineCommandComplete k seq)

/-- A command held at its engine by a fault that awaits an answer, with its record at both doors (R126). -/
def holdCmd (s : State) (k : Nat) (m : Cmd) (done : Nat) (f : Fail) (va : Nat) : State :=
  let c := s.ctx k
  let pos := stopPositions c c
  let r : FaultRec := ⟨va, m.pc.toNat, 4 + 65536 * m.seq.toNat, pos.1, pos.2, cmdPen m.words, c.vcn.toNat, f.code, 4, 1,
    s.taskOf c⟩
  let ((n, _), s) := report s c.pkg c.vi.toNat r true
  let w : PageWait := ⟨.a, .engine, f.code, BitVec.ofNat 64 va, m.pc, n, .waiting, m.seq, c.die⟩
  (s.modCtx k (fun c => { c with waits := c.waits ++ [w] })).modCmd k m.seq (fun m => { m with state := .held done n })

/-- FULL cleared after the last read of a source tile (R275, R99). -/
def clearPlace (s : State) (p : Place) (t : Nat) : State :=
  match p with
  | .core ck => clearFull s ck t
  | .slot _ => s.setPlaceTile p t { s.placeTile p t with full := false }

/-! ### A copy's operands -/

/-- A copy command's operands (R270 to R272). -/
structure Copy where
  fn : Nat
  dst : Endpoint
  src : Endpoint
  len : LenWord
  deriving DecidableEq, Repr

def copyOf (m : Cmd) : Option Copy :=
  match endpoint (cmdOpd m.words), endpoint (cmdOpa m.words) with
  | some d, some x => some ⟨cmdFn m.words, d, x, lenWord (cmdOpb m.words)⟩
  | _, _ => none

/-- Lines of the result: 2T for a CPYLR of BF16 inputs (R279). -/
def Copy.outLines (x : Copy) : Nat := if x.len.bf then 2 * x.len.lines else x.len.lines

/-- The address of line i of a memory source, and of a memory destination. -/
def Copy.srcVa (x : Copy) (i : Nat) : Nat :=
  match x.src with
  | .mem va => x.len.pitched va i
  | _ => 0
def Copy.dstVa (x : Copy) (i : Nat) : Nat :=
  match x.dst with
  | .mem va => if x.src.kind == 0 then va + 64 * i else x.len.pitched va i
  | _ => 0

/-- A tile named by virtual core: its die and core (R168). -/
structure TileRef where
  die : Nat
  ck : Nat
  vcn : Nat
  tile : Nat
  line : Nat
  deriving DecidableEq, Repr

/-- The tile that an endpoint names. Where bits [5:0] of its offset are not zero, which R270 refuses for kinds 00 and 10 and not
for kind 11, it names the line that holds the byte (DESIGN CHOICE, log entry 75). -/
def tileRef (s : State) (c : Ctx) (vcn tile ofs : Nat) : Option TileRef :=
  (resolveVcn s c.die c.vi.toNat vcn).map (fun (d, core) => ⟨d, coreKey d core, vcn, tile, ofs / 64⟩)

def TileRef.place (x : TileRef) (s : State) (c : Ctx) (pen : Pen) : Option Place :=
  findPlace s x.ck c.vi (BitVec.ofNat 16 x.vcn) pen x.tile

/-- The members of a multicast group, in slot order; none where the entry is invalid or stale (R174, R278). -/
def groupMembers (s : State) (c : Ctx) (pen : Pen) (g : Nat) : Option (List Nat) :=
  let k := s.pkg c.pkg
  let key := 64 * c.vi.toNat + g
  let e := Table.get k.mcast key 0
  if Table.has k.mcast key && mcValid e && mcPen e == pen && k.pen c.vi.toNat == pen then some (mcMembers e) else none

/-- The part that the one destination tile of a command is: 0, or for a CPYLR, whose parts 0 to 31 are the members it reads, 32,
for which VALUE has no bit (R279, R379). -/
def Copy.part (x : Copy) : Nat := if x.fn == 3 then 32 else 0

/-- The tiles a command delivers to, by part: one, or each member's. -/
def targets (s : State) (c : Ctx) (pen : Pen) (x : Copy) : Option (List (Nat × Option TileRef)) :=
  match x.dst with
  | .mem _ => some []
  | .tile v t o => some [(x.part, tileRef s c v t o)]
  | .group g t o => (groupMembers s c pen g).map (fun ms => ms.zipIdx.map (fun (v, i) => (i, tileRef s c v t o)))

def State.reduction (s : State) (id : Nat) (seq : BitVec 16) : Option Reduction :=
  s.reductions.find? (fun r => r.ctx == id && r.cmd == seq)
def State.setReduction (s : State) (r : Reduction) : State :=
  { s with reductions := s.reductions.map (fun (x : Reduction) => if x.n == r.n then r else x) }
def State.dropReduction (s : State) (n : Nat) : State := { s with reductions := s.reductions.filter (fun x => x.n != n) }

/-- The tiles a command reads: one, or each member's, as the group stood when the reduction began. -/
def sources (s : State) (c : Ctx) (m : Cmd) (x : Copy) : Option (List (Option TileRef)) :=
  match x.src with
  | .mem _ => some []
  | .tile v t o => some [tileRef s c v t o]
  | .group g t o =>
    let ms := match s.reduction c.id m.seq with
      | some r => some r.members
      | none => groupMembers s c (cmdPen m.words) g
    ms.map (fun l => l.map (fun v => tileRef s c v t o))

/-- Source tiles that are not allocated to the command's tenancy, by part. -/
def deadSources (s : State) (c : Ctx) (pen : Pen) (l : List (Option TileRef)) : List Nat :=
  (l.zipIdx.filter (fun (r, _) => match r with | some r => (r.place s c pen).isNone | none => true)).map Prod.snd

/-- Some source tile is still empty under SW (R275). -/
def awaitsSource (s : State) (c : Ctx) (pen : Pen) (l : List (Option TileRef)) : Bool :=
  l.any (fun r => match r with
    | some r => (match r.place s c pen with | some p => !(s.placeTile p r.tile).full | none => false)
    | none => false)

/-- FULL cleared on every source tile, for SC. -/
def clearSources (s : State) (c : Ctx) (pen : Pen) (l : List (Option TileRef)) : State :=
  l.foldl (fun s r => match r with
    | some r => (match r.place s c pen with | some p => clearPlace s p r.tile | none => s)
    | none => s) s

/-! ### Reading the source -/

/-- One line of a source. -/
inductive SrcLine where
  | line (x : Line) (len : Option Carried)
  | fail (f : Fail) (va : Nat)
  /-- It lies on another die, and is asked for. -/
  | ask (dst : Nat) (a : Ask)
  deriving DecidableEq, Repr

/-- A read of n lines, one to four (R367). -/
def rdAsk (tgt n : Nat) (tile : Bool) (leaf : Leaf) : Ask := ⟨.rd, tgt, n - 1, [], tile, leaf, .none, maskAll, none⟩

/-- TGT of a memory line, and of a tile line (R366). -/
def memTgt (gpa : Nat) : Nat := offOfGpa gpa / 64
def tileTgt (vcn tile line : Nat) : Nat := 16777216 * vcn + 131072 * tile + 512 * line

/-- The stored length that goes with a line of a page with WCT = 1 (R391). -/
def carriedOf (s : State) (vi : Nat) (w : Where) : Option Carried :=
  if w.leaf.wct then
    some ⟨Table.get s.len (w.gpa / 64) 0, if w.leaf.cmp == 5 || w.leaf.cmp == 6 then
      some (BitVec.ofNat 6 (field (s.raw128 (sideEntry s vi w.gpa)) (6 * (w.gpa / 4096 % 16)) 6)) else none⟩
  else none

def memLine (s : State) (c : Ctx) (m : Cmd) (va : Nat) : SrcLine :=
  let a := engineAccessor c m
  match checkSource s a Need.read va with
  | .error f => .fail f va
  | .ok w =>
    if dieOfGpa w.gpa != c.die then .ask (dieOfGpa w.gpa) (rdAsk (memTgt w.gpa) 1 false w.leaf)
    else match checkTarget s a.pen w.leaf w.gpa false with
      | some f => .fail f va
      | none => match readLine s a w with
        | .error f => .fail f va
        | .ok x => .line x (carriedOf s c.vi.toNat w)

def tileSrcLine (s : State) (c : Ctx) (m : Cmd) (r : Option TileRef) (i : Nat) : SrcLine :=
  let pen := cmdPen m.words
  match r with
  | none => .fail ⟨9, fOwner⟩ 0
  | some r => match r.place s c pen with
    | none => .fail ⟨9, fOwner⟩ 0
    | some p =>
      if r.die != c.die then .ask r.die (rdAsk (tileTgt r.vcn r.tile (r.line + i)) 1 true 0)
      else .line ((s.placeMem p).read pen (tileLine r.tile (r.line + i))) none

/-- Line i of a command's source; what has been read already stands in `got`. -/
def sourceLine (s : State) (c : Ctx) (m : Cmd) (x : Copy) (i : Nat) : SrcLine :=
  if Table.has m.got i then .line (Table.get m.got i 0) ((m.lens.find? (fun e => e.1 == i)).map Prod.snd)
  else match x.src with
    | .mem _ => memLine s c m (x.srcVa i)
    | .tile v t o => tileSrcLine s c m (tileRef s c v t o) i
    | .group _ _ _ => .fail ⟨9, fOwner⟩ 0

/-- SC: the source tiles are emptied after the last read. -/
def afterLastRead (s : State) (c : Ctx) (m : Cmd) (x : Copy) : State :=
  if x.len.sc then
    match sources s c m x with
    | some l => clearSources s c (cmdPen m.words) l
    | none => s
  else s

/-! ### Memory destinations (R276, R280, R391) -/

/-- A copied line keeps its stored length between weight pages: what came with it when it was read (R391). -/
def carryLen (s : State) (vi : Nat) (len : Option Carried) (dst : Where) : State :=
  match len with
  | none => s
  | some f =>
    if !dst.leaf.wct then s
    else
      let s := s.setLen (dst.gpa / 64) f.len
      match f.side with
      | none => s
      | some v =>
        if dst.leaf.cmp == 5 || dst.leaf.cmp == 6 then
          let e := sideEntry s vi dst.gpa
          pokeEntry s e (setField (s.raw128 e) (6 * (dst.gpa / 4096 % 16)) 6 v.toNat)
        else s

/-- What became of a line at its destination. -/
inductive Put where
  | done (s : State)
  | fail (f : Fail) (va : Nat)
  | ask (dst : Nat) (a : Ask)

/-- Line i written, or combined, at a memory destination. -/
def putLine (s : State) (c : Ctx) (m : Cmd) (x : Copy) (i : Nat) (l : Line) (len : Option Carried) : Put :=
  let a := engineAccessor c m
  let va := x.dstVa i
  let rd := x.fn == 4
  match checkSource s a (if rd then Need.combine else Need.write) va with
  | .error f => .fail f va
  | .ok t =>
    if dieOfGpa t.gpa != c.die then
      .ask (dieOfGpa t.gpa) ⟨if rd then .red else .wr, memTgt t.gpa, if rd then x.len.rop else 0, [l], false, t.leaf, .none,
        maskAll, if rd then none else len⟩
    else match checkTarget s a.pen t.leaf t.gpa (!rd) with
      | some f => .fail f va
      | none => match (if rd then combineLine s a t x.len.rop maskAll l else copyLine s a t maskAll l) with
        | .error f => .fail f va
        | .ok s => .done (if rd then s else carryLen s c.vi.toNat len t)

/-- What the access of line i of a memory source, and of a memory destination, leaves behind. -/
def useSource (s : State) (c : Ctx) (m : Cmd) (x : Copy) (i : Nat) : State :=
  if x.src.kind != 0 || Table.has m.got i then s
  else engineUse s c m Need.read (x.srcVa i) (nextPage x.srcVa x.len.lines i) false
def useDest (s : State) (c : Ctx) (m : Cmd) (x : Copy) (i : Nat) : State :=
  engineUse s c m (if x.fn == 4 then Need.combine else Need.write) (x.dstVa i) (nextPage x.dstVa x.outLines i) (x.fn != 4)

/-- A command stops at a fault on line i: it is held where an answer is awaited, else it ends with i lines completed
(R274). -/
def stopCmd (s : State) (k : Nat) (m : Cmd) (i : Nat) (f : Fail) (va : Nat) : State :=
  if f.awaits then holdCmd s k m i f va else endCmd s k m.seq f.code i

/-- What stays in an engine of the lines it has read, once line i has been asked of a target or is held: a reduction's result,
else that line alone. -/
def keepLine (s : State) (k : Nat) (m : Cmd) (x : Copy) (i : Nat) (l : Line) (len : Option Carried) : State :=
  if x.fn == 3 then s
  else s.modCmd k m.seq (fun m => { m with got := [(i, l)], lens := len.toList.map (fun e => (i, e)) })

/-- Lines from number `done` on, one after another; a request to another die is answered before the next. -/
def memLoop (s : State) (k : Nat) (m : Cmd) (x : Copy) : Nat → Nat → State
  | 0, _ => endCmd s k m.seq 0 0
  | fuel + 1, i =>
    let c := s.ctx k
    let s := s.modCmd k m.seq (fun m => { m with state := .taken i })
    let src := sourceLine s c m x i
    let s := useSource s c m x i
    match src with
    | .fail f va => stopCmd s k m i f va
    | .ask dst a => askRoom s c.die dst (cmdPen m.words) a c.id m.seq i
    | .line l len =>
      let s := if i + 1 == x.len.lines && !Table.has m.got i then afterLastRead s c m x else s
      let put := putLine (useDest s c m x i) c m x i l len
      match put with
      | .done s => memLoop s k m x fuel (i + 1)
      | .fail f va =>
        let s := useDest s c m x i
        stopCmd (if f.awaits then keepLine s k m x i l len else s) k m i f va
      | .ask dst a => askRoom (keepLine (useDest s c m x i) k m x i l len) c.die dst (cmdPen m.words) a c.id m.seq i

/-! ### Tile destinations: presentation and landing (R98, R275, R278, R377) -/

/-- Deliveries of a command. -/
def deliveriesOf (s : State) (id : Nat) (seq : BitVec 16) : List Delivery :=
  s.deliveries.filter (fun d => d.ctx == id && d.cmd == seq && d.state != .complete && d.state != .ended)

/-- One part of a command presented: a delivery on its own die, or one over the fabric; a virtual core that does not
exist drops it, with OWNER (R168). -/
def presentPart (k : Nat) (m : Cmd) (lines : Nat) (s : State) (p : Nat × Option TileRef) : State :=
  let c := s.ctx k
  match p.2 with
  | none => (s.count c.die Counters.incDropTile).modCmd k m.seq (fun m => m.fail p.1 fOwner false)
  | some r =>
    if r.die == c.die then
      let (n, s) := s.takeFresh
      let d : Delivery := ⟨n, r.die, r.ck % 144, r.tile, c.vi, BitVec.ofNat 16 r.vcn, r.line, lines, cmdPen m.words,
        .presented, [], c.id, m.seq, p.1, none, s.cycle, [], false, false⟩
      { s with deliveries := s.deliveries ++ [d] }.act (.deliveryArrive n)
    else s.modCmd k m.seq (fun m => { m with far := m.far ++ [⟨p.1, r.die, r.vcn, r.tile, r.line, 0, .unsent⟩] })

def presentAll (s : State) (k : Nat) (m : Cmd) (lines : Nat) (ts : List (Nat × Option TileRef)) : State :=
  ts.foldl (presentPart k m lines) (s.modCmd k m.seq (fun m => { m with sent := true, parts := ts.map Prod.fst, count := ts.length }))

/-- VALUE of a multicast or reduction (R278). -/
def Cmd.masks (m : Cmd) : Nat := m.unknown.toNat * 4294967296 + m.failed.toNat

/-- A command whose parts are all settled ends: with 0, or the code of the failed part of the lowest slot. One held on its
source ends too, with no line done that any part could take, and no one waits for its fault any more. -/
def finishParts (s : State) (k : Nat) (seq : BitVec 16) : State :=
  match (s.ctx k).cmd seq with
  | none => s
  | some m =>
    if m.sent && m.parts.isEmpty then
      let fin := endCmd s k seq m.code.toNat (if cmdFn m.words == 2 then m.masks else 0)
      match m.state with
      | .taken _ => fin
      | .held _ n => fin.modCtx k (fun c => { c with waits := c.waits.filter (fun w => w.seq != n) })
      | _ => s
    else s

/-- Every delivery of a command ends before its last line (R275): LAND 0, FULL 0, and the next is admitted. -/
def endDeliveries (s : State) (k : Nat) (m : Cmd) : State :=
  (deliveriesOf s (s.ctx k).id m.seq).foldl (cutDelivery false) s

/-- Lines put into a delivery's tile, each once. They land whatever has become of the tile's context; where the tile itself
has gone they are of no effect. -/
def landLines (s : State) (d : Delivery) (ls : List (Nat × Line)) : State :=
  let ls := ls.filter (fun e => !d.landed.contains e.1)
  let s := match landPlace s d with
    | none => s
    | some p =>
      let s := match p with
        | .core ck => ls.foldl (fun s (e : Nat × Line) =>
            bankAccess s ck (bankOfLine (tileLine d.tile (d.line + e.1))) reqEngine d.pen d.vcn) s
        | .slot _ => s
      s.setPlaceMem p (ls.foldl (fun (m : Memory) (e : Nat × Line) => m.putLine (tileLine d.tile (d.line + e.1)) d.pen e.2) (s.placeMem p))
  s.setDelivery { d with landed := d.landed ++ ls.map Prod.fst }

/-- What has been read lands at every admitted delivery of the command's own die, and a complete one is landed. -/
def landLocal (s : State) (k : Nat) (m : Cmd) (got : Table Line) (total : Nat) : State :=
  ((deliveriesOf s (s.ctx k).id m.seq).filter (fun d => d.state == .admitted && d.remote.isNone)).foldl (fun s d =>
    let s := landLines s d got
    match s.delivery d.n with
    | some d => if d.landed.length == total then s.act (.deliveryLanded d.n) else s
    | none => s) s

/-- n lines of a transfer, from number i on. -/
def nextLines (got : Table Line) (n i : Nat) : List Line := (List.range n).map (fun j => Table.get got (i + j) 0)

/-- The packets of a delivery over the fabric that can leave, with the first `limit` of its `total` lines: FIRST alone, which
presents it, with the lines that have been read already (R275, R377; log entry 65), and after ADMIT the lines within the window,
four to a packet (R373). -/
def sendFar (s : State) (k : Nat) (m : Cmd) (got : Table Line) (total limit : Nat) (f : FarPart) : Nat → State
  | 0 => s
  | fuel + 1 =>
    let c := s.ctx k
    let i := f.next
    let first := f.state == .unsent
    let n := if first then min 4 got.length else min 4 (limit - i)
    if f.state == .waiting || limit ≤ i || got.length < i + n || !s.room c.die f.die then s
    else
      let aux := (if first then 128 else 0) + (if i + n == total then 64 else 0)
      let a : Ask := ⟨.dlv, tileTgt f.vcn f.tile (f.line + i), aux, nextLines got n i, true, 0, .none, maskAll, none⟩
      let s := sendRequest s c.die f.die (cmdPen m.words) a c.id m.seq f.part false
      let f := { f with next := i + n, state := if first then .waiting else f.state }
      let s := s.modCmd k m.seq (fun m => { m with far := m.far.map (fun (x : FarPart) => if x.part == f.part then f else x) })
      sendFar s k m got total limit f fuel

def sendAllFar (s : State) (k : Nat) (m : Cmd) (got : Table Line) (total limit : Nat) : State :=
  m.far.foldl (fun s f => sendFar s k m got total limit f 64) s

/-- Lines read in order from number i on, until one faults or is asked for. -/
def gather (s : State) (c : Ctx) (m : Cmd) (x : Copy) : Nat → Nat → Table Line → Table Line × Option SrcLine
  | 0, _, got => (got, none)
  | fuel + 1, i, got => match sourceLine s c m x i with
    | .line l _ => gather s c m x fuel (i + 1) (if Table.has got i then got else got ++ [(i, l)])
    | e => (got, some e)

/-- A delivering command may read its source: every delivery of it has been presented, and one has been admitted, as its engine
knows (R275, R278). -/
def mayRead (s : State) (k : Nat) (m : Cmd) : Bool :=
  !m.far.any (fun f => f.state == .unsent) && (m.far.any (fun f => f.state == .admitted) ||
  (deliveriesOf s (s.ctx k).id m.seq).any (fun d => d.state == .admitted && d.remote.isNone))

/-- Requests of a command without a response, at any router. -/
def outstanding (s : State) (id : Nat) (seq : BitVec 16) : List Request :=
  s.dies.flatMap (fun (_, d) => d.router.requests.filter (fun r => r.ctx == id && r.cmd == seq && r.msg.op != .push))

/-- Packets of a part that await a response. -/
def partOutstanding (s : State) (id : Nat) (seq : BitVec 16) (part : Nat) : List Request :=
  (outstanding s id seq).filter (fun q => q.msg.type == .dlv && q.part == part)

/-- The lines before a failing one have landed at every part on another die that has been admitted (R274). -/
def farLanded (s : State) (k : Nat) (m : Cmd) (limit : Nat) : Bool :=
  m.far.all (fun f => f.state != .admitted || (limit ≤ f.next && (partOutstanding s (s.ctx k).id m.seq f.part).isEmpty))

/-- A source fault that no answer is awaited for ends a delivering command: its deliveries end, and for a multicast every
member has failed (R275, R278). -/
def endSource (s : State) (k : Nat) (m : Cmd) (x : Copy) (i code : Nat) : State :=
  let n := match x.dst with
    | .group g _ _ => if m.sent then m.count else ((groupMembers s (s.ctx k) (cmdPen m.words) g).getD []).length
    | _ => 0
  endCmd (endDeliveries s k m) k m.seq code (if x.fn == 2 then 2 ^ n - 1 else i)

/-- A source fault at line i: the lines before it take effect first, those that parts on other dies have still to be sent too
(R274). -/
def failSource (s : State) (k : Nat) (m : Cmd) (x : Copy) (i code : Nat) : State :=
  match (s.ctx k).cmd m.seq with
  | none => s
  | some m =>
    let open_ := m.far.filter (fun f => f.state == .admitted)
    let s := (open_.foldl (fun s f => sendFar s k m m.got x.outLines (min i m.got.length) f 64) s).modCmd k m.seq
      (fun m => { m with state := .failing i code })
    match (s.ctx k).cmd m.seq with
    | none => s
    | some m => if farLanded s k m (min i m.got.length) then endSource s k m x i code else s

/-- The lines that have been read go to every part that can take them. -/
def distribute (s : State) (k : Nat) (m : Cmd) (got : Table Line) (total : Nat) : State :=
  let s := s.modCmd k m.seq (fun m => { m with got := got })
  finishParts (sendAllFar (landLocal s k m got total) k m got total total) k m.seq

/-- The accesses by which lines lo to hi − 1 of a source have been read. -/
def useSources (s : State) (c : Ctx) (m : Cmd) (x : Copy) (lo hi : Nat) : State :=
  (List.range (hi - lo)).foldl (fun s i => useSource s c m x (lo + i)) s

/-- A command whose destination is one tile or a group of tiles, with its source in memory or a tile. -/
def deliverStep (s : State) (k : Nat) (m : Cmd) (x : Copy) : State :=
  let c := s.ctx k
  let total := x.outLines
  if !mayRead s k m then finishParts (sendAllFar s k m m.got total total) k m.seq
  else if m.got.length == total then distribute s k m m.got total
  else
    let (got, stop) := gather s c m x (total - m.got.length) m.got.length m.got
    let s := useSources s c m x m.got.length (got.length + if stop.isSome then 1 else 0)
    let s := if stop.isNone then afterLastRead s c m x else s
    let s := distribute s k m got total
    match stop with
    | some (.fail f va) =>
      if f.awaits then holdCmd s k m got.length f va else failSource s k m x got.length f.code
    | some (.ask dst a) =>
      if (outstanding s c.id m.seq).any (fun r => r.msg.type == .rd) then s
      else askRoom s c.die dst (cmdPen m.words) a c.id m.seq got.length
    | _ => s

/-! ### CPYLR (R279, R381) -/

/-- A line of inputs as lines of FP32 words. A group of one member delivers these as they are, NaNs too, since R279 says
both that its values are unchanged and that every NaN is canonical (DESIGN CHOICE, log entry 63). -/
def widenLine (bf : Bool) (l : Line) : List Line :=
  if !bf then [l]
  else
    let half := fun (h : Nat) => BitVec.ofNat 512 (((List.range 16).map (fun i =>
      field l (16 * (16 * h + i)) 16 * 65536 * 2 ^ (32 * i))).foldl (fun a b => a + b) 0)
    [half 0, half 1]

def addLines (x y : List Line) : List Line := x.zipWith (ropLine 0) y

/-- The lines of a member's tile on the command's die. -/
def memberLines (s : State) (pen : Pen) (x : Copy) (r : TileRef) (p : Place) : List Line :=
  (List.range x.len.lines).map (fun i => (s.placeMem p).read pen (tileLine r.tile (r.line + i)))

/-- A value put at its die's place, in ascending die index; members of one die are added in slot order. -/
def addPartial (d : Nat) (v : List Line) : List (Nat × List Line) → List (Nat × List Line)
  | [] => [(d, v)]
  | (e, w) :: r => if d < e then (d, v) :: (e, w) :: r else if d == e then (e, addLines w v) :: r else (e, w) :: addPartial d v r

/-- The partials of the dies, from the members in slot order. -/
def partials (l : List (TileRef × List Line)) : List (Nat × List Line) :=
  l.foldl (fun ps e => addPartial e.1.die e.2 ps) []

/-- A member of a reduction fails: its destination's part is another's. -/
def Cmd.failMember (m : Cmd) (i code : Nat) : Cmd := { m.fail i code false with parts := m.parts }

/-- A reduction begins: its members are named, and none has been read. -/
def startReduction (s : State) (k : Nat) (m : Cmd) (members : List Nat) : State :=
  let (n, s) := s.takeFresh
  { s with reductions := s.reductions ++ [⟨n, (s.ctx k).id, m.seq, members, [], [], [], 0⟩] }

/-- The lines of member i that have been read; whether they are all. -/
def Reduction.lines (d : Reduction) (i : Nat) : List Line := Table.get d.reads i []
def Reduction.whole (d : Reduction) (x : Copy) (i : Nat) : Bool := (d.lines i).length == x.len.lines

/-- More lines of member i of a reduction have been read; under SC its tile is emptied after the last (R279). -/
def readMember (s : State) (k : Nat) (m : Cmd) (x : Copy) (i : Nat) (r : TileRef) (ls : List Line) : State :=
  let c := s.ctx k
  match s.reduction c.id m.seq with
  | none => s
  | some d =>
    let d := { d with reads := Table.put d.reads i (d.lines i ++ ls) }
    let s := s.setReduction d
    if x.len.sc && d.whole x i then clearSources s c (cmdPen m.words) [some r] else s

/-- Member i is read, or its next lines are asked for on its die, four to a request (R367); one whose tile is not there has
failed. -/
def askMember (k : Nat) (m : Cmd) (x : Copy) (s : State) (e : Option TileRef × Nat) : State :=
  let c := s.ctx k
  let i := e.2
  match s.reduction c.id m.seq, c.cmd m.seq with
  | some d, some now =>
    if d.whole x i || now.failed.getLsbD i then s
    else match e.1 with
      | none => s.modCmd k m.seq (fun m => m.failMember i fOwner)
      | some r =>
        if r.die == c.die then
          match r.place s c (cmdPen m.words) with
          | none => s.modCmd k m.seq (fun m => m.failMember i fOwner)
          | some p => readMember s k m x i r (memberLines s (cmdPen m.words) x r p)
        else if (outstanding s c.id m.seq).any (fun q => q.msg.type == .rd && q.part == i) then s
        else
          let n := (d.lines i).length
          askRoom s c.die r.die (cmdPen m.words)
            (rdAsk (tileTgt r.vcn r.tile (r.line + n)) (min 4 (x.len.lines - n)) true 0) c.id m.seq i
  | _, _ => s

/-- Once every member has been read, each die's partial of its inputs stands at its place (R381). -/
def formPartials (s : State) (r : Reduction) (bf : Bool) (l : List TileRef) : State :=
  let ps := partials (l.zipIdx.map (fun (t, i) => (t, (r.lines i).flatMap (widenLine bf))))
  s.setReduction { r with dies := ps.map Prod.fst, level := ps.map Prod.snd }

/-- Packets a level needs: one for four lines of each odd place. -/
def Reduction.chunks (r : Reduction) : Nat := ((r.level.headD []).length + 3) / 4
def Reduction.packets (r : Reduction) : Nat := r.level.length / 2 * r.chunks

/-- Packets of the present level sent while the windows have room, by number. -/
def sendPartials (s : State) (c : Ctx) (m : Cmd) (r : Reduction) : Nat → State
  | 0 => s.setReduction r
  | fuel + 1 =>
    if r.packets ≤ r.sent then s.setReduction r
    else
      let j := r.sent / r.chunks
      let q := r.sent % r.chunks
      let src := r.dies.getD (2 * j + 1) 0
      let dst := r.dies.getD (2 * j) 0
      if !s.room src dst then s.setReduction r
      else
        let data := ((r.level.getD (2 * j + 1) []).drop (4 * q)).take 4
        let a : Ask := ⟨.lrp, q, if (lenWord (cmdOpb m.words)).bf then 1 else 0, data, false, 0, .none, maskAll, none⟩
        sendPartials (sendRequest s src dst (cmdPen m.words) a c.id m.seq (65536 * j + q) false) c m { r with sent := r.sent + 1 } fuel

/-- The next level: each pair's sum stands at its left place, and an odd last one passes up. -/
def everyOther {α : Type} : List α → List α
  | [] => []
  | [x] => [x]
  | x :: _ :: r => x :: everyOther r
def Reduction.up (r : Reduction) : Reduction := { r with dies := everyOther r.dies, level := everyOther r.level, sent := 0 }

/-- An LRP packet's lines combined at its target: those of the right place into the left one's. -/
def Reduction.combine (r : Reduction) (part : Nat) (data : List Line) : Reduction :=
  let j := part / 65536
  let q := part % 65536
  let l := r.level.getD (2 * j) []
  let sum := addLines ((l.drop (4 * q)).take 4) data
  { r with level := r.level.set (2 * j) (l.take (4 * q) ++ sum ++ l.drop (4 * q + 4)) }

/-- The result is read by the issuing engine. -/
def takeResult (s : State) (k : Nat) (m : Cmd) (r : Reduction) : State :=
  let got : Table Line := (r.level.headD []).zipIdx.map (fun (l, i) => (i, l))
  (s.dropReduction r.n).modCmd k m.seq (fun m => { m with got := got })

/-- How many members have failed. -/
def Cmd.failures (m : Cmd) : Nat := ((List.range 32).filter (fun i => m.failed.getLsbD i)).length

/-- A reduction some of whose members cannot be read ends: the destination receives nothing (R279). -/
def failMembers (s : State) (k : Nat) (m : Cmd) : State := endCmd (endDeliveries s k m) k m.seq m.code.toNat m.masks

/-- One step of a reduction: whether its result stands in `got`. -/
def reduceStep (s : State) (k : Nat) (m : Cmd) (x : Copy) : Nat → Bool × State
  | 0 => (false, s)
  | fuel + 1 =>
    let c := s.ctx k
    if !m.got.isEmpty then (true, s)
    else match sources s c m x, s.reduction c.id m.seq with
      | some refs, some r =>
        if r.level.isEmpty then
          let s := refs.zipIdx.foldl (askMember k m x) s
          match s.reduction c.id m.seq, (s.ctx k).cmd m.seq with
          | some r, some m =>
            let read := ((List.range refs.length).filter (r.whole x)).length
            if (outstanding s c.id m.seq).any (fun q => q.msg.type == .rd) then (false, s)
            else if m.failed != 0 then (false, if read + m.failures < refs.length then s else failMembers s k m)
            else if read < refs.length then (false, s)
            else reduceStep (formPartials s r x.len.bf (refs.filterMap id)) k m x fuel
          | _, _ => (false, s)
        else if r.level.length ≤ 1 then (true, takeResult s k m r)
        else if r.sent < r.packets then (false, sendPartials s c m r 64)
        else if (outstanding s c.id m.seq).any (fun q => q.msg.type == .lrp) then (false, s)
        else reduceStep (s.setReduction r.up) k m x fuel
      | _, _ => (false, s)

/-! ### Copies (R276 to R280) -/

/-- A command has read something, or its reduction has. -/
def hasRead (s : State) (c : Ctx) (m : Cmd) (done : Nat) : Bool :=
  done != 0 || !m.got.isEmpty || (match s.reduction c.id m.seq with | some r => !r.reads.isEmpty || !r.level.isEmpty | none => false)

/-- The members of the group a reduction reads, named once. -/
def nameMembers (s : State) (k : Nat) (m : Cmd) (x : Copy) : State :=
  let c := s.ctx k
  match x.src with
  | .group g _ _ =>
    if (s.reduction c.id m.seq).isSome || !m.got.isEmpty then s
    else match groupMembers s c (cmdPen m.words) g with
      | some l => startReduction s k m l
      | none => s
  | _ => s

/-- A copy command that has presented its deliveries, if it has any: its reduction, and then its lines. -/
def transferStep (s : State) (k : Nat) (m : Cmd) (x : Copy) (done : Nat) (toMem : Bool) : State :=
  let go := fun (s : State) (m : Cmd) =>
    if toMem then
      if (outstanding s (s.ctx k).id m.seq).isEmpty then memLoop s k m x (x.outLines - done) done else s
    else deliverStep s k m x
  if x.fn == 3 && (toMem || mayRead s k m) then
    match reduceStep s k m x 32 with
    | (false, s) => s
    | (true, s) => match (s.ctx k).cmd m.seq with
      | none => s
      | some m => go s m
  else go s m

/-- Dead source tiles of a command that has read nothing yet. -/
def deadNow (s : State) (c : Ctx) (m : Cmd) (done : Nat) (l : List (Option TileRef)) : List Nat :=
  if m.sent || hasRead s c m done then [] else deadSources s c (cmdPen m.words) l

/-- The lines of a tile source on the command's own die that go with the FIRST packets, up to four, are read as these are made
(R377; log entry 65). -/
def readFirst (s : State) (k : Nat) (seq : BitVec 16) (x : Copy) : State :=
  let c := s.ctx k
  match c.cmd seq with
  | none => s
  | some m =>
    if m.far.isEmpty || x.src.kind != 2 then s
    else
      let (got, stop) := gather s c m x (min 4 x.outLines) 0 []
      let s := if stop.isNone && x.outLines ≤ 4 then afterLastRead s c m x else s
      s.modCmd k seq (fun m => { m with got := got })

/-- The next step of a copy command that has been taken. A source tile that is not there, and an SW wait, come before the
deliveries are presented (R275); what a group's entry names then stays the command's (R278). -/
def copyStep (s : State) (k : Nat) (m : Cmd) (x : Copy) (done : Nat) : State :=
  let s := nameMembers s k m x
  let c := s.ctx k
  let pen := cmdPen m.words
  let toMem := x.dst.kind == 0
  match sources s c m x with
  | none => if m.sent || !m.got.isEmpty then transferStep s k m x done toMem else endCmd s k m.seq fOwner 0
  | some ss =>
    let dead := deadNow s c m done ss
    if !dead.isEmpty then
      if x.fn == 3 then
        failMembers s k (dead.foldl (fun m i => m.failMember i fOwner) m)
      else failSource s k m x 0 fOwner
    else if x.len.sw && !m.sent && !hasRead s c m done && awaitsSource s c pen ss then s
    else if m.sent || toMem then transferStep s k m x done toMem
    else match targets s c pen x with
      | none => endCmd s k m.seq fOwner 0
      | some ts =>
        let s := readFirst (presentAll s k m x.outLines ts) k m.seq x
        match (s.ctx k).cmd m.seq with
        | none => s
        | some m => transferStep s k m x done toMem

/-! ### PREF (R281) -/

/-- The pages a region touches, in address order, each once. -/
def insertNat (x : Nat) : List Nat → List Nat
  | [] => [x]
  | y :: r => if x < y then x :: y :: r else if x == y then y :: r else y :: insertNat x r
def pagesOf (len : LenWord) (base : Nat) : List Nat :=
  ((List.range len.rows).flatMap (fun r =>
    let first := len.pitched base (r * len.rowlen) / 65536
    let last := (len.pitched base (r * len.rowlen) + 64 * len.rowlen - 1) / 65536
    (List.range (last + 1 - first)).map (fun i => first + i))).foldl (fun l x => insertNat x l) []

/-- A page of a PREF looked up. The record of one that is not present names the positions of an array word that is interrupted
(R343). -/
def prefPage (k : Nat) (m : Cmd) (x : Nat × State) (page : Nat) : Nat × State :=
  let (n, s) := x
  let c := s.ctx k
  let pos := stopPositions c c
  let s := translate s (engineTlb s c m.seq) c (engineAccessor c m) (65536 * page)
  match checkAll s (engineAccessor c m) Need.read (65536 * page) true with
  | .ok _ => (n, s)
  | .error f =>
    if f.code == fPage then
      let r : FaultRec := ⟨65536 * page, m.pc.toNat, 4 + 65536 * m.seq.toNat, pos.1, pos.2, cmdPen m.words, c.vcn.toNat, fPage, 4, 1,
        s.taskOf c⟩
      (n + 1, (reportPager s c.pkg c.vi.toNat r).2)
    else (n, s)

def prefCmd (s : State) (k : Nat) (m : Cmd) : State :=
  match endpoint (cmdOpa m.words) with
  | some (.mem va) =>
    let (n, s) := (pagesOf (lenWord (cmdOpb m.words)) va).foldl (prefPage k m) (0, s)
    endCmd s k m.seq 0 n
  | _ => endCmd s k m.seq 0 0

/-! ### SACC (R145, R282) -/

def XEntry.lanesFor (e : XEntry) (p : Pen) : Lanes := if e.pen == p then e.lanes else Lanes.zero
def XEntry.maskFor (e : XEntry) (p : Pen) : BitVec 128 := if e.pen == p then e.mask else 0

/-- One lane's update: performed here, asked of another die, or failing. -/
def laneUpdate (s : State) (c : Ctx) (m : Cmd) (addr : Nat) (v : Word) : Put :=
  let a := engineAccessor c m
  let rop := field (cmdOpa m.words) 24 4
  let x : Line := BitVec.ofNat 512 (v.toNat * 2 ^ (8 * (addr % 64)))
  let mask := maskRange (addr % 64) 4
  match checkSource s a Need.scatter addr with
  | .error f => .fail f addr
  | .ok t =>
    if dieOfGpa t.gpa != c.die then .ask (dieOfGpa t.gpa) ⟨.red, memTgt t.gpa, rop, [x], false, t.leaf, .none, mask, none⟩
    else match checkTarget s a.pen t.leaf t.gpa false with
      | some f => .fail f addr
      | none => match combineLine s a t rop mask x with
        | .error f => .fail f addr
        | .ok s => .done s

/-- Lanes of the command's pair from lane i on; `base` is 128·pairs finished. Whether the pair is finished. A WINDOW of step 4,
which awaits a remap, holds the command as R274 says of every command at an engine, where R282 ends it on any failure but PAGE
(DESIGN CHOICE, log entry 76). -/
def saccLanes (s : State) (k : Nat) (m : Cmd) (ix va : XEntry) (base : Nat) : Nat → Nat → Bool × State
  | 0, _ => (true, s)
  | fuel + 1, i =>
    let c := s.ctx k
    let pen := s.ctxPen c
    if !(ix.maskFor pen).getLsbD i then saccLanes s k m ix va base fuel (i + 1)
    else
      let addr := ((cmdOpd m.words).toNat + 4 * ((ix.lanesFor pen).toList.getD i 0).toNat) % 18446744073709551616
      let s := engineUse (s.modCmd k m.seq (fun m => { m with state := .taken (base + i) })) c m Need.scatter addr none false
      match laneUpdate s c m addr ((va.lanesFor pen).toList.getD i 0) with
      | .done s => saccLanes (s.modCmd k m.seq (fun m => { m with count := m.count + 1 })) k m ix va base fuel (i + 1)
      | .ask dst a => (false, askRoom s c.die dst (cmdPen m.words) a c.id m.seq (base + i))
      | .fail f at_ =>
        if f.awaits then (false, holdCmd s k m (base + i) f at_)
        else (true, s.modCmd k m.seq (fun m => { m with code := BitVec.ofNat 8 f.code }))

/-- An earlier SACC of the context has not completed: the pairs at the head of xq are its (R145). -/
def awaitsSacc (c : Ctx) (seq : BitVec 16) : Bool :=
  (c.cmds.takeWhile (fun m => m.seq != seq)).any (fun m => cmdFn m.words == 6 && (m.state == .queued || m.state.atEngine))

/-- The pair whose lanes an SACC performs, taken from xq before them (R282); none while xq holds none. -/
def takePair (s : State) (k : Nat) (m : Cmd) : Option ((XEntry × XEntry) × State) :=
  match m.pair with
  | some e => some (e, s)
  | none => match (s.ctx k).xq with
    | ix :: va :: r =>
      some ((ix, va), (s.modCtx k (fun c => { c with xq := r })).modCmd k m.seq (fun m => { m with pair := some (ix, va) }))
    | _ => none

/-- Pairs of an SACC, while xq holds them. After a failure the rest are taken and discarded, and the element is posted once they
all have been, where R282 does not say which comes first (DESIGN CHOICE, log entry 76). -/
def saccPairs (s : State) (k : Nat) (seq : BitVec 16) : Nat → State
  | 0 => s
  | fuel + 1 =>
    let c := s.ctx k
    match c.cmd seq with
    | none => s
    | some m => match m.state with
      | .taken n =>
        if field (cmdOpa m.words) 0 16 ≤ n / 128 then
          endCmd s k seq m.code.toNat (if m.code == 0 then 0 else m.count)
        else match takePair s k m with
          | none => s
          | some ((ix, va), s) =>
            let (fin, s) := if m.code == 0 then saccLanes s k m ix va (n / 128 * 128) (128 - n % 128) (n % 128) else (true, s)
            if fin then
              saccPairs (s.modCmd k seq (fun m => { m with state := .taken ((n / 128 + 1) * 128), pair := none })) k seq fuel
            else s
      | _ => s

/-! ### Counters (R283, R284) -/

/-- Every earlier command of the context has completed (R134). -/
def earlierDone (c : Ctx) (seq : BitVec 16) : Bool := (c.cmds.takeWhile (fun m => m.seq != seq)).all Cmd.complete

def counterCmd (s : State) (k : Nat) (m : Cmd) (join : Bool) : State :=
  let c := s.ctx k
  let a := engineAccessor c m
  let va := (cmdOpa m.words).toNat
  if !earlierDone c m.seq || !(outstanding s c.id m.seq).isEmpty then s
  else
    let s := engineUse s c m Need.write va none false
    match checkSource s a Need.write va with
    | .error f => stopCmd s k m 0 f va
    | .ok t =>
      if dieOfGpa t.gpa != c.die then
        let op : HomeOp := if join then .jDec else .sigDec
        let data : Line := BitVec.ofNat 512 (va % 64 / 8)
        askRoom s c.die (dieOfGpa t.gpa) (cmdPen m.words) ⟨.hop, memTgt t.gpa, 0, [data], false, t.leaf, op, maskAll, none⟩ c.id m.seq 0
      else if join then
        match joinDec s a va with
        | .error f => stopCmd s k m 0 f va
        | .ok ((neg, v), s) => endCmd s k m.seq (if neg then fSigNeg else 0) v.toNat
      else match signalDec s a va with
        | .error f => stopCmd s k m 0 f va
        | .ok (old, s) => endCmd s k m.seq (if old.toInt ≤ 0 then fSigNeg else 0) (old - 1).toNat

/-- STATUS of a SIGWAIT that a count satisfies. -/
def waitStatus (v : Dword) : Nat := if v.toInt < 0 then fSigNeg else 0

/-- A SIGWAIT translates its signal's address and goes to its home controller: on another die by a request, which is answered HELD
until the count meets it (R284, R367; log entry 74). There it ends once the count is at most its threshold. -/
def signalWait (s : State) (k : Nat) (m : Cmd) : State :=
  let c := s.ctx k
  let a := engineAccessor c m
  let va := (cmdOpa m.words).toNat
  let s := if m.sent then s else engineUse s c m Need.read va none false
  match checkSource s a Need.read va with
  | .error f => stopCmd s k m 0 f va
  | .ok t =>
    let s := s.modCmd k m.seq (fun m => { m with sent := true })
    if dieOfGpa t.gpa != c.die then
      if !(outstanding s c.id m.seq).isEmpty then s
      else askRoom s c.die (dieOfGpa t.gpa) a.pen ⟨.hop, memTgt t.gpa, 0, [BitVec.ofNat 512 (va % 64 / 8),
        (cmdOpb m.words).setWidth 512], false, t.leaf, .sigWait, maskAll, none⟩ c.id m.seq 0
    else match checkTarget s a.pen t.leaf t.gpa false with
      | some f => stopCmd s k m 0 f va
      | none => match readLine s a t with
        | .error f => stopCmd s k m 0 f va
        | .ok l =>
          let v := lineDword l (va % 64 / 8)
          if v.toInt ≤ (cmdOpb m.words).toInt then endCmd s k m.seq (waitStatus v) v.toNat else s

/-- The home controller of a signal that has met a SIGWAIT of another die tells its source the count, and again every 20 µs until
the command has ended (DESIGN CHOICE, log entry 74). -/
def tellSource (s : State) (dn : Nat) (w : HomeWait) : State :=
  match w.answer with
  | none => s
  | some v =>
    if s.cycle < w.next then s
    else
      let s := s.modRouter dn (fun r => { r with sigwaits := r.sigwaits.map (fun x =>
        if x.ctx == w.ctx && x.cmd == w.cmd then { x with next := s.cycle + cycles20us } else x) })
      let st := waitStatus v
      sendResponse s dn w.src w.seq w.pen true (if st == 0 then rspDone else rspFault) st v

/-- Every home controller at which a command waits. -/
def tellAll (s : State) (id : Nat) (seq : BitVec 16) : State :=
  (s.dies.flatMap (fun (dn, d) => (d.router.sigwaits.filter (fun w => w.ctx == id && w.cmd == seq)).map (fun w => (dn, w)))).foldl
    (fun s e => tellSource s e.1 e.2) s

/-! ### The events (R137, R147) -/

/-- One step of a command that has been taken. -/
def engineStep (s : State) (k : Nat) (m : Cmd) (done : Nat) : State :=
  match cmdFn m.words with
  | 5 => prefCmd s k m
  | 6 => if (outstanding s (s.ctx k).id m.seq).isEmpty && !awaitsSacc (s.ctx k) m.seq then saccPairs s k m.seq (field (cmdOpa m.words) 0 16 + 1) else s
  | 7 => counterCmd s k m false
  | 8 => signalWait s k m
  | 9 => counterCmd s k m true
  | _ => match copyOf m with
    | some x => copyStep s k m x done
    | none => endCmd s k m.seq fIllegal 0

/-- Whether a command delivers into tiles. -/
def Cmd.delivers (m : Cmd) : Bool :=
  match copyOf m with
  | some x => (match x.dst with | .mem _ => false | _ => true)
  | none => false

/-- A command whose fault was answered by a failure (R126): its deliveries end, an SACC discards the pairs that remain,
and any other ends with what it has done. -/
def failHeld (s : State) (k : Nat) (m : Cmd) (done code : Nat) : State :=
  if cmdFn m.words == 6 then
    saccPairs (s.modCmd k m.seq (fun m => { m with state := .taken done, code := BitVec.ofNat 8 code })) k m.seq
      (field (cmdOpa m.words) 0 16 + 1)
  else match copyOf m with
    | some x => if m.delivers then failSource s k m x done code else endCmd s k m.seq code done
    | none => endCmd s k m.seq code 0

/-- An engine takes a command, or goes on with one: nothing happens while it waits. A saved context's untaken commands
stay in its save area (R147). -/
def engineTakeCommand (k : Nat) (seq : BitVec 16) (s : State) : State :=
  match (s.ctx k).cmd seq with
  | none => s
  | some m => match m.state with
    | .queued =>
      if isSlot k then s
      else engineStep (assignEngine (s.modCmd k seq (fun m => { m with state := .taken 0 })) (s.ctx k) seq) k
        { m with state := .taken 0 } 0
    | .taken done => engineStep s k m done
    | .failing done code => failHeld s k m done code
    | _ => s

def execEngineTakeCommand (k : Nat) (seq : BitVec 16) (s : State) : Result := .next (engineTakeCommand k seq s)

/-- A result element (R86, R274). -/
def elementOf (seq : BitVec 16) (status : BitVec 8) (value : Dword) : BitVec 128 :=
  value ++ (0#16) ++ seq ++ status ++ (0x30#8) ++ (0#16)

/-- The follow-on word of a CPYF that succeeded may enter fq: its turn has come and there is room (R145). -/
def followReady (c : Ctx) (m : Cmd) : Bool :=
  (c.cmds.takeWhile (fun x => x.seq != m.seq)).all (fun x => cmdFn x.words != 1 || x.state == .posted) && c.fq.length < 4

/-- A command's element is posted: EV is set, and a CRES that waits goes on (R274, R285, R336). -/
def postElement (s : State) (k : Nat) (m : Cmd) (status : BitVec 8) (value : Dword) : State :=
  let s := s.modCtx k (fun c =>
    let c := c.modCmd m.seq (fun m => { m with state := .posted, element := elementOf m.seq status value, pen := cmdPen m.words })
    let c := if cmdFn m.words == 1 && status == 0 then { c with fq := c.fq ++ [⟨cmdPen m.words, m.words.extractLsb' 128 192⟩] } else c
    { c.setEv with blocked := if c.setEv.blocked == .command m.seq then .nothing else c.setEv.blocked })
  wake s k

def engineCommandComplete (k : Nat) (seq : BitVec 16) (s : State) : State :=
  let c := s.ctx k
  match c.cmd seq with
  | none => s
  | some m => match m.state with
    | .ended status value =>
      if cmdFn m.words == 1 && status == 0 && !followReady c m then s else postElement s k m status value
    | _ => s

def execEngineCommandComplete (k : Nat) (seq : BitVec 16) (s : State) : Result := .next (engineCommandComplete k seq s)

/-- A SIGWAIT whose count has come to its threshold, at its own die or another (R284). -/
def sigwaitSatisfy (k : Nat) (seq : BitVec 16) (s : State) : State :=
  match (s.ctx k).cmd seq with
  | none => s
  | some m => match m.state with
    | .taken _ => if cmdFn m.words == 8 then signalWait (tellAll s (s.ctx k).id seq) k m else s
    | _ => s

def execSigwaitSatisfy (k : Nat) (seq : BitVec 16) (s : State) : Result := .next (sigwaitSatisfy k seq s)

/-! ### Deliveries (R98, R100, R138) -/

/-- A delivery finds room in its core's hold queue, or stays at its engine. -/
def holdDelivery (s : State) (d : Delivery) (st : DeliveryState) : State :=
  let ck := coreKey d.die d.core
  if 16 ≤ (s.core ck).holdq.length then s
  else
    let s := s.modCore ck (fun c => { c with holdq := c.holdq ++ [d.n] })
    let s := if st == .held then s.setTile ck d.tile { s.tile ck d.tile with held := (s.tile ck d.tile).held + 1 } else s
    s.setDelivery { d with state := st, since := s.cycle, waited := true }

/-- A delivery reaches its tile: admitted, held or dropped. One that need not be held takes no place in the hold queue, so a
full queue does not stall it, where R98 may be read to stall every further delivery to the core (DESIGN CHOICE, log entry
64). -/
def arriveDelivery (s : State) (d : Delivery) : State :=
  let ck := coreKey d.die d.core
  let x := s.tile ck d.tile
  match findPlace s ck d.vi d.vcn d.pen d.tile with
  | some (.core _) => if x.full || x.land then holdDelivery s d .held else admitDelivery s d
  | some (.slot _) => holdDelivery s d .parked
  | none => dropDelivery s d

def deliveryArrive (n : Nat) (s : State) : State :=
  match s.delivery n with
  | some d => if d.state == .presented then arriveDelivery s d else s
  | none => s

def execDeliveryArrive (n : Nat) (s : State) : Result := .next (deliveryArrive n s)

/-- A part of a command is done. -/
def partDone (s : State) (id : Nat) (seq : BitVec 16) (part : Nat) : State :=
  match s.keyOfId id with
  | none => s
  | some k => finishParts (s.modCmd k seq (fun m => { m with parts := m.parts.filter (fun p => p != part) })) k seq

/-- FULL becomes 1 and LAND 0 in one event, once every line has landed; EV is set in the tile's context (R98, R336). A tile
that its context's end has freed meanwhile stays empty (R97). -/
def landDelivery (s : State) (d : Delivery) : State :=
  let s' := { s with deliveries := s.deliveries.filter (fun x => x.n != d.n) }
  let s' := match landPlace s d with
    | none => s'
    | some p =>
      let x := s'.placeTile p d.tile
      let s' := s'.setPlaceTile p d.tile { x with land := false, full := x.alloc }
      match p with
      | .core ck => wakeTile s' ck d.tile
      | .slot k => wake (s'.modCtx k Ctx.setEv) k
  if d.remote.isNone then partDone s' d.ctx d.cmd d.part else s'

def deliveryLanded (n : Nat) (s : State) : State :=
  match s.delivery n with
  | some d => if d.state == .admitted && d.lines != 0 && d.landed.length == d.lines then landDelivery s d else s
  | none => s

def execDeliveryLanded (n : Nat) (s : State) : Result := .next (deliveryLanded n s)

end Sys2Proof.Machine
end

