-- ==== Sys2Proof/Machine/Fabric.lean ====
section
/-! DEFINITION. What packets do where they arrive (R367, R374, R377, R381), what their responses settle at the source
(R375, R379), lost replies (R375, R380, R423) and the deaths of links (R363, R376). -/

namespace Sys2Proof.Machine

/-! ### Targets in memory: WR, RD, RED, HOP -/

/-- The accessor a request acts for: its source die and its pennant. -/
def Msg.accessor (m : Msg) : Accessor := ⟨m.src, penVi m.pen, m.pen⟩
/-- The line TGT names, and line i after it. -/
def Msg.place (m : Msg) (i : Nat) : Where := ⟨m.leaf, m.dst * dieSpan + (64 * m.tgt.toNat + 64 * i) % dieSpan⟩
/-- The fields of TGT for a tile. -/
def Msg.vcn (m : Msg) : Nat := m.tgt.toNat / 16777216
def Msg.tileNo (m : Msg) : Nat := m.tgt.toNat / 131072 % 128
def Msg.firstLine (m : Msg) : Nat := m.tgt.toNat / 512 % 256

/-- Steps 8 to 11 at the target, after step 7 once more where one package holds both dies, whose key a VIKEYZ may have
cleared since the request left (R125, R172). -/
def Msg.check (m : Msg) (s : State) (i : Nat) (whole : Bool) : Option Fail :=
  if pkgOf m.src == pkgOf m.dst && !keyOk s m.accessor m.leaf then some ⟨7, fPerm⟩
  else checkTarget s m.pen m.leaf (m.place i).gpa whole

/-- What reaching line i leaves behind at the target: an error found, or a refusal for the pennant counted (R110, R191,
R378). -/
def Msg.meet (m : Msg) (s : State) (i : Nat) (whole : Bool) : State :=
  match m.check s i whole with
  | some f => if f.step == 7 then s else meetTarget s m.src m.pen (m.place i) whole
  | none => meetTarget s m.src m.pen (m.place i) whole

/-- The lines of a request performed in order by `f`, until one fails. -/
def Msg.eachLine (m : Msg) (whole : Bool) (f : State → Nat → Line → Except Fail State) :
    State → List (Line × Nat) → Option Fail × State
  | s, [] => (none, s)
  | s, (x, i) :: r =>
    let s := m.meet s i whole
    match f s i x with
    | .error e => (some e, s)
    | .ok s => m.eachLine whole f s r

/-- The answer to a request that writes. -/
def writeAnswer (x : Option Fail × State) : (Nat × Nat × Dword) × State :=
  match x with
  | (none, s) => ((rspDone, 0, 0), s)
  | (some f, s) => ((rspFault, f.code, 0), s)

/-- The request at a source that a packet carries. -/
def Router.request (r : Router) (dst : Nat) (seq : BitVec 16) : Option Request :=
  r.requests.find? (fun q => q.msg.dst == dst && q.msg.seq == seq)

/-- A line written, with the stored length it carries (R391), or combined, at its target. -/
def wrLine (m : Msg) (s : State) (i : Nat) (x : Line) : Except Fail State :=
  match m.check s i (m.mask == maskAll) with
  | some f => .error f
  | none => match copyLine s m.accessor (m.place i) m.mask x with
    | .error f => .error f
    | .ok s => .ok (carryLen s (penVi m.pen) m.len (m.place i))
def redLine (m : Msg) (s : State) (i : Nat) (x : Line) : Except Fail State :=
  match m.check s i false with
  | some f => .error f
  | none => combineLine s m.accessor (m.place i) (m.aux.toNat % 16) m.mask x

def wrTarget (m : Msg) (s : State) : (Nat × Nat × Dword) × State :=
  writeAnswer (m.eachLine (m.mask == maskAll) (wrLine m) s m.data.zipIdx)
def redTarget (m : Msg) (s : State) : (Nat × Nat × Dword) × State :=
  writeAnswer (m.eachLine false (redLine m) s m.data.zipIdx)

/-- The answer of a counter operation. -/
def counterAnswer (neg : Bool) (v : Dword) : Nat × Nat × Dword := if neg then (rspFault, fSigNeg, v) else (rspDone, 0, v)

/-- The record that a queue push carries, in two flits, and its queue, as 8192·package + virtual queue (log entry 8). -/
def Msg.record (m : Msg) : Line := (m.data.getD 1 0).extractLsb' 0 256 ++ (m.data.headD 0).extractLsb' 0 256
def Msg.queue (m : Msg) : Nat := m.leaf.toNat

/-- A record of VAPPLY pushed at its queue's home controller (R149, R316): the same as a push of S there. -/
def pushTarget (m : Msg) (s : State) : (Nat × Nat × Dword) × State :=
  ((rspDone, 0, 0), (pushHome s (m.queue / 8192) (penVi m.pen) (m.queue % 8192) m.pen m.record).2)

/-- A SIGWAIT at its signal: answered with the count where that is at most its threshold, else HELD, and it waits there (R284; log
entry 74). -/
def waitTarget (m : Msg) (s : State) : (Nat × Nat × Dword) × State :=
  match readLine s m.accessor (m.place 0) with
  | .error f => writeAnswer (some f, s)
  | .ok l =>
    let i := (m.data.headD 0).toNat % 8
    let v := lineDword l i
    let limit := (m.data.getD 1 0).setWidth 64
    if v.toInt ≤ limit.toInt then (counterAnswer (v.toInt < 0) v, s)
    else match (s.router m.src).request m.dst m.seq with
      | none => ((rspHeld, 0, 0), s)
      | some q =>
        let w : HomeWait := ⟨q.ctx, q.cmd, m.src, m.seq, m.pen, (m.place 0).gpa / 64 * 64 + 8 * i, limit, none, 0⟩
        ((rspHeld, 0, 0), s.modRouter m.dst (fun r => { r with sigwaits := r.sigwaits ++ [w] }))

/-- An operation at a home controller: SIGNEG is answered with the count beside it (R37, R283). Claims and park nodes are operations
of S at home controllers of its own package, made within its instruction, and are sent in no packet of their own; one that came
would be acknowledged and do nothing (log entry 8). -/
def hopTarget (m : Msg) (s : State) : (Nat × Nat × Dword) × State :=
  let s := if m.op == .push then s else m.meet s 0 false
  let fail := fun (f : Fail) => writeAnswer (some f, s)
  let counter := fun (f : State → (Nat × Nat × Dword) × State) => match m.check s 0 false with
    | some e => fail e
    | none => f s
  match m.op with
  | .sigDec => counter (fun s => match signalDecAt s m.accessor (m.place 0) ((m.data.headD 0).toNat % 8) with
    | .error f => fail f
    | .ok (old, s) => (counterAnswer (old.toInt ≤ 0) (old - 1), s))
  | .jDec => counter (fun s => match joinDecAt s m.accessor (m.place 0) with
    | .error f => fail f
    | .ok ((neg, v), s) => (counterAnswer neg v, s))
  | .none => ((rspDone, 0, 0), s)
  | .claim => ((rspDone, 0, 0), s)
  | .push => pushTarget m s
  | .sigWait => counter (waitTarget m)
  | .parkNode => ((rspDone, 0, 0), s)

/-- A request of a type performed where it has arrived. -/
def arriveOnce (n : Nat) (type : PacketType) (f : Msg → State → (Nat × Nat × Dword) × State) (s : State) : State :=
  match arrivePacket s n type with
  | (none, s) => s
  | (some m, s) => performOnce s m (f m)

def execWr (n : Nat) (s : State) : Result := .next (arriveOnce n .wr wrTarget s)
def execRed (n : Nat) (s : State) : Result := .next (arriveOnce n .red redTarget s)
def execHop (n : Nat) (s : State) : Result := .next (arriveOnce n .hop hopTarget s)

/-- Fabric management: the spec gives its packets no content, so one is acknowledged and does nothing else. A packet of a
reserved type is dropped as it arrives, and counted in AUTHFAIL (R367). -/
def mgtArrive (n : Nat) (s : State) : State :=
  match s.packet n with
  | none => s
  | some p =>
    if p.here == p.dst && p.type.isNone then (s.dropPacket n).count p.dst Counters.incAuthFail
    else arriveOnce n .mgt (fun _ s => ((rspDone, 0, 0), s)) s

def execMgt (n : Nat) (s : State) : Result := .next (mgtArrive n s)

/-- Lines read at a target, or the failing check. -/
def readMany (m : Msg) : Nat → Nat → State → Except Fail (List Line) × State
  | 0, _, s => (.ok [], s)
  | k + 1, i, s =>
    let s := m.meet s i false
    match m.check s i false with
    | some f => (.error f, s)
    | none => match readLine s m.accessor (m.place i) with
      | .error f => (.error f, s)
      | .ok l => match readMany m k (i + 1) s with
        | (.error f, s) => (.error f, s)
        | (.ok r, s) => (.ok (l :: r), s)

/-- The core of a virtual core of the request's tenancy, on its target die (R168). -/
def Msg.core (m : Msg) (s : State) : Option Nat :=
  match resolveVcn s m.dst (penVi m.pen) m.vcn with
  | some (d, c) => if d == m.dst then some (coreKey d c) else none
  | none => none

/-- The place of the tile a request names. -/
def Msg.tilePlace (m : Msg) (s : State) : Option (Nat × Place) :=
  match m.core s with
  | none => none
  | some ck => (findPlace s ck (BitVec.ofNat 8 (penVi m.pen)) (BitVec.ofNat 16 m.vcn) m.pen m.tileNo).map (fun p => (ck, p))

/-- The stored length that goes back with a line of a weight page (R391). -/
def rdLen (m : Msg) (s : State) : Option Carried := if m.tile then none else carriedOf s (penVi m.pen) (m.place 0)

def rdLines (m : Msg) (s : State) : Except Fail (List Line) × State :=
  let n := m.aux.toNat % 4 + 1
  if m.tile then
    match m.tilePlace s with
    | none => (.error ⟨8, fOwner⟩, s)
    | some (_, x) => (.ok ((List.range n).map (fun i => (s.placeMem x).read m.pen (tileLine m.tileNo (m.firstLine + i)))), s)
  else readMany m n 0 s

/-- RD is performed on every arrival (R374); its data, or FAULT, is its response. -/
def rdArrive (n : Nat) (s : State) : State :=
  match arrivePacket s n .rd with
  | (none, s) => s
  | (some m, s) =>
    let s := match ((s.router m.dst).source m.src).judge m.seq with
      | .fresh => s.modReceive m.dst m.src (fun x => x.perform m.seq)
      | .repeated => s
    match rdLines m s with
    | (.ok ls, s) =>
      let (q, s) := formPacket s ⟨.rdr, m.dst, m.src, m.pen, 0, 0, ls, false, 0, .none, maskAll, m.seq, rdLen m s⟩
      launch s q
    | (.error f, s) => sendResponse s m.dst m.src m.seq m.pen false rspFault f.code 0

def execRd (n : Nat) (s : State) : Result := .next (rdArrive n s)

/-! ### Deliveries (R98, R377) -/

def Msg.isFirst (m : Msg) : Bool := m.aux.getLsbD 7
def Msg.isLast (m : Msg) : Bool := m.aux.getLsbD 6

/-- The lines that came with a delivery's FIRST packet land. -/
def landFirst (s : State) (d : Delivery) : State :=
  landLines (s.setDelivery { d with data := [] }) { d with data := [] } (d.data.zipIdx.map (fun (l, i) => (i, l)))

/-- A delivery of which every line has landed becomes FULL; whether it has. -/
def finishLanding (s : State) (n : Nat) : Bool × State :=
  match s.delivery n with
  | none => (false, s)
  | some d => if d.state == .admitted && d.lines != 0 && d.landed.length == d.lines then (true, landDelivery s d) else (false, s)

/-- The delivery a FIRST packet begins, for the request of its source. -/
def Msg.newDelivery (m : Msg) (s : State) (q : Request) (n ck : Nat) : Delivery :=
  ⟨n, m.dst, ck % 144, m.tileNo, BitVec.ofNat 8 (penVi m.pen), BitVec.ofNat 16 m.vcn, m.firstLine,
   if m.isLast then m.data.length else 0, m.pen, .presented, [], q.ctx, q.cmd, q.part, some (m.src, m.seq), s.cycle, m.data, false,
   false⟩

/-- FIRST at its target: ADMIT, HELD, BUSY, or FAULT with OWNER; DONE where it is the whole delivery. One whose command has
ended at its source while it was on its way begins nothing: its delivery has ended with the command (R147, R275, R347; DESIGN
CHOICE, log entry 66). -/
def dlvFirst (m : Msg) (s : State) : (Nat × Nat × Dword) × State :=
  match m.tilePlace s, (s.router m.src).request m.dst m.seq with
  | none, _ => ((rspFault, fOwner, 0), s.count m.dst Counters.incDropTile)
  | some _, none => ((rspFault, fOwner, 0), s)
  | some (ck, p), some q =>
    let x := s.tile ck m.tileNo
    let (n, s') := s.takeFresh
    let d := m.newDelivery s q n ck
    let s' := { s' with deliveries := s'.deliveries ++ [d] }
    let hold := fun (st : DeliveryState) =>
      if 16 ≤ (s.core ck).holdq.length then ((rspBusy, 0, 0), s) else ((rspHeld, 0, 0), holdDelivery s' d st)
    match p with
    | .slot _ => hold .parked
    | .core _ =>
      if x.full || x.land then hold .held
      else
        let d := { d with state := .admitted }
        let s' := s'.setTile ck m.tileNo { x with land := true }
        let (whole, s') := finishLanding (landFirst (s'.setDelivery d) d) n
        ((if whole then rspDone else rspAdmit, 0, 0), s')

/-- The admitted delivery to which a later packet belongs: that of its command and part (R275, log entry 66). -/
def Msg.delivery (m : Msg) (s : State) : Option Delivery :=
  match (s.router m.src).request m.dst m.seq with
  | none => none
  | some q => s.deliveries.find? (fun d => d.state == DeliveryState.admitted && d.die == m.dst && d.remote.isSome &&
      d.ctx == q.ctx && d.cmd == q.cmd && d.part == q.part)

/-- A later packet lands; the response of the one that completes the delivery is sent once FULL is set. -/
def dlvRest (m : Msg) (s : State) : (Nat × Nat × Dword) × State :=
  match m.delivery s with
  | none => ((rspFault, fOwner, 0), s)
  | some d =>
    let i := m.firstLine - d.line
    let d := { d with more := true, lines := if m.isLast then i + m.data.length else d.lines }
    let s := landLines (s.setDelivery d) d (m.data.zipIdx.map (fun (l, j) => (i + j, l)))
    ((rspDone, 0, 0), (finishLanding s d.n).2)

def execDlv (n : Nat) (s : State) : Result :=
  .next (arriveOnce n .dlv (fun m => if m.isFirst then dlvFirst m else dlvRest m) s)

/-- What a target tells the source of a delivery that was held: ADMIT, again every 20 µs until a later packet arrives;
DONE where FIRST was the whole of it; FAULT with OWNER where it has been dropped. -/
def admitRepeat (n : Nat) (s : State) : State :=
  match s.delivery n with
  | none => s
  | some d => match d.remote with
    | none => s
    | some (src, seq) =>
      if d.state == .admitted && d.waited && !d.more then
        let (whole, s) := finishLanding (landFirst (s.setDelivery { d with since := s.cycle }) { d with since := s.cycle }) n
        sendResponse s d.die src seq d.pen false (if whole then rspDone else rspAdmit) 0 0
      else if d.state == .ended then
        sendResponse { s with deliveries := s.deliveries.filter (fun x => x.n != n) } d.die src seq d.pen false rspFault fOwner 0
      else s

def execAdmitRepeat (n : Nat) (s : State) : Result := .next (admitRepeat n s)

/-! ### Partials (R381) -/

/-- A partial combined in the router of its target. -/
def lrpTarget (m : Msg) (s : State) : (Nat × Nat × Dword) × State :=
  let s := match (s.router m.src).request m.dst m.seq with
    | none => s
    | some q => match s.reduction q.ctx q.cmd with
      | none => s
      | some r => s.setReduction (r.combine q.part m.data)
  ((rspDone, 0, 0), s)

def execLrp (n : Nat) (s : State) : Result := .next (arriveOnce n .lrp lrpTarget s)

/-! ### Responses at the source (R375, R377, R379) -/

def dropRequest (s : State) (d : Nat) (q : Request) : State :=
  s.modRouter d (fun r => { r with requests := r.requests.filter (fun x => x.pkt.n != q.pkt.n) })
def setRequest (s : State) (d : Nat) (q : Request) : State :=
  s.modRouter d (fun r => { r with requests := r.requests.map (fun (x : Request) => if x.pkt.n == q.pkt.n then q else x) })

def goOn (s : State) (k : Nat) (seq : BitVec 16) : State := s.act (.engineTakeCommand k seq)

/-- A line written at its target: the command goes on with the next, and a reduction keeps its result. -/
def lineDone (s : State) (k : Nat) (m : Cmd) (i : Nat) : State :=
  goOn (s.modCmd k m.seq (fun m =>
    { m with state := .taken (i + 1), got := if cmdFn m.words == 3 then m.got else [], lens := [] })) k m.seq

/-- A lane update performed at its target; after the last lane the pair is finished (R282). -/
def laneDone (s : State) (k : Nat) (m : Cmd) (i : Nat) : State :=
  goOn (s.modCmd k m.seq (fun m => { m with state := .taken (i + 1), count := m.count + 1,
                                            pair := if (i + 1) % 128 == 0 then none else m.pair })) k m.seq

/-- A delivery packet acknowledged: its part is done once every packet has been sent and acknowledged. -/
def farDone (s : State) (k : Nat) (m : Cmd) (part : Nat) : State :=
  let total := match copyOf m with | some x => x.outLines | none => 0
  match m.far.find? (fun f => f.part == part) with
  | none => goOn s k m.seq
  | some f =>
    if total ≤ f.next && (partOutstanding s (s.ctx k).id m.seq part).isEmpty then
      let s := s.modCmd k m.seq (fun m => { m with far := m.far.filter (fun f => f.part != part) })
      goOn (partDone s (s.ctx k).id m.seq part) k m.seq
    else goOn s k m.seq

def settleDone (s : State) (k : Nat) (m : Cmd) (q : Request) (value : Dword) : State :=
  match q.msg.type with
  | .wr => lineDone s k m q.part
  | .red => if cmdFn m.words == 6 then laneDone s k m q.part else lineDone s k m q.part
  | .hop => endCmd s k m.seq 0 value.toNat
  | .dlv => farDone s k m q.part
  | _ => goOn s k m.seq

/-- ADMIT: the rest of the delivery may go (R377). -/
def settleAdmit (s : State) (k : Nat) (m : Cmd) (q : Request) : State :=
  goOn (s.modCmd k m.seq (fun m => { m with far := m.far.map (fun (f : FarPart) =>
    if f.part == q.part then { f with state := .admitted } else f) })) k m.seq

/-- A part of a delivering command fails: its other packets are forgotten (R278, R379). -/
def failFar (s : State) (k : Nat) (m : Cmd) (part code : Nat) : State :=
  let s := (partOutstanding s (s.ctx k).id m.seq part).foldl (fun s q => dropRequest s q.msg.src q) s
  let s := s.modCmd k m.seq (fun m => { m.fail part code false with far := m.far.filter (fun f => f.part != part) })
  goOn (finishParts s k m.seq) k m.seq

/-- A fault answered for line i of a copy by a target on another die: the command ends, or ends its deliveries; it is
never held (R126). -/
def failLine (s : State) (k : Nat) (m : Cmd) (i code : Nat) : State :=
  if m.delivers then
    match copyOf m with
      | some x => failSource s k m x i code
      | none => s
  else endCmd s k m.seq code i

/-- A fault that a target answers for a request of a command. -/
def settleFault (s : State) (k : Nat) (m : Cmd) (q : Request) (code : Nat) (value : Dword) : State :=
  match q.msg.type with
  | .rd =>
    if cmdFn m.words == 3 then goOn (s.modCmd k m.seq (fun m => m.failMember q.part code)) k m.seq
    else failLine s k m q.part code
  | .wr => endCmd s k m.seq code q.part
  | .red =>
    if cmdFn m.words == 6 then goOn (s.modCmd k m.seq (fun m => { m with code := BitVec.ofNat 8 code })) k m.seq
    else endCmd s k m.seq code q.part
  | .hop => endCmd s k m.seq code (if code == fSigNeg then value.toNat else 0)
  | .dlv => failFar s k m q.part code
  | _ => s

/-- The command a request serves, while an engine has it. -/
def servedCmd (s : State) (q : Request) : Option (Nat × Cmd) :=
  match s.keyOfId q.ctx with
  | none => none
  | some k => match (s.ctx k).cmd q.cmd with
    | none => none
    | some m => if m.state.atEngine then some (k, m) else none

/-- A response settles its request; one whose request has been settled is ignored. -/
def settleResponse (s : State) (r : Msg) : State :=
  match (s.router r.dst).request r.src r.seq with
  | none => s
  | some q =>
    let code := r.aux.toNat
    if code == rspHeld then setRequest s r.dst { q with state := .held, last := s.cycle }
    else if code == rspBusy then setRequest s r.dst { q with state := .busy, last := s.cycle }
    else
      let s := dropRequest s r.dst q
      match (if q.msg.op == .push then none else servedCmd s q) with
      | none => s
      | some (k, m) =>
        let value := (r.data.headD 0).setWidth 64
        if code == rspAdmit then settleAdmit s k m q
        else if code == rspFault then settleFault s k m q (r.tgt.toNat % 256) value
        else settleDone s k m q value

def rspArrive (n : Nat) (s : State) : State :=
  match arrivePacket s n .rsp with
  | (none, s) => s
  | (some r, s) => settleResponse s r

def execRsp (n : Nat) (s : State) : Result := .next (rspArrive n s)

/-- Read data at the source: a line of a copy, with its stored length and with SC after the last, or lines of a member of a
reduction. -/
def takeData (s : State) (q : Request) (data : List Line) (len : Option Carried) : State :=
  match servedCmd s q with
  | none => s
  | some (k, m) => match copyOf m with
    | none => s
    | some x =>
      let c := s.ctx k
      if x.fn == 3 then
        match sources s c m x with
        | some l => (match l.getD q.part none with
                     | some r => goOn (readMember s k m x q.part r data) k m.seq
                     | none => goOn s k m.seq)
        | none => goOn s k m.seq
      else
        let s := if q.part + 1 == x.len.lines then afterLastRead s c m x else s
        goOn (s.modCmd k m.seq (fun m =>
          { m with got := if m.delivers then m.got ++ [(q.part, data.headD 0)] else [(q.part, data.headD 0)],
                   lens := len.toList.map (fun e => (q.part, e)) })) k m.seq

def rdrArrive (n : Nat) (s : State) : State :=
  match arrivePacket s n .rdr with
  | (none, s) => s
  | (some r, s) => match (s.router r.dst).request r.src r.seq with
    | none => s
    | some q => takeData (dropRequest s r.dst q) q r.data r.len

def execRdr (n : Nat) (s : State) : Result := .next (rdrArrive n s)

/-! ### Reissues and retries (R375 to R377) -/

/-- The source counts the command once, where the packet leaves again after DET of its target's entry has changed since its
first transmission (R191, R376). -/
def countDetour (s : State) (dn : Nat) (q : Request) : State :=
  let r := s.router dn
  if q.msg.op != .push && Table.has r.detAt q.msg.dst && q.pkt.first ≤ Table.get r.detAt q.msg.dst 0 && !r.detoured.contains (q.ctx, q.cmd) then
    (s.modRouter dn (fun r => { r with detoured := r.detoured ++ [(q.ctx, q.cmd)] })).count dn Counters.incDetour
  else s

/-- A request without a response for 20 µs leaves again, bit for bit, within 2 ms of its first transmission; one whose context
has ended is forgotten then. -/
def requestReissue (dn n : Nat) (s : State) : State :=
  match (s.router dn).requests.find? (fun q => q.pkt.n == n) with
  | none => s
  | some q =>
    if q.pkt.first + cycles2ms ≤ s.cycle && (s.keyOfId q.ctx).isNone then dropRequest s dn q
    else if q.state != .sent || s.cycle < q.last + cycles20us || q.pkt.first + cycles2ms ≤ s.cycle then s
    else
      let (m, s) := s.takeFresh
      let s := countDetour (setRequest s dn { q with last := s.cycle }) dn q
      launch s { q.pkt with n := m, here := dn, since := s.cycle }

def execRequestReissue (dn n : Nat) (s : State) : Result := .next (requestReissue dn n s)

/-- 20 µs after BUSY the delivery is attempted again, as a new packet, once the window has room (R373). -/
def deliveryRetry (n : Nat) (s : State) : State :=
  match s.dies.findSome? (fun (d, x) => (x.router.requests.find? (fun q => q.pkt.n == n)).map (fun q => (d, q))) with
  | none => s
  | some (d, q) =>
    if q.state != .busy || s.cycle < q.last + cycles20us || !s.room d q.msg.dst then s
    else
      let m := q.msg
      sendRequest (dropRequest s d q) d m.dst m.pen ⟨m.type, m.tgt.toNat, m.aux.toNat, m.data, m.tile, m.leaf, m.op, m.mask, m.len⟩ q.ctx
        q.cmd q.part q.left

def execDeliveryRetry (n : Nat) (s : State) : Result := .next (deliveryRetry n s)

/-! ### Lost replies (R375, R379, R380, R423) -/

/-- DETAIL of the record of a REMOTE failure. -/
def remoteDetail (cseq fn tdie failed unknown : Nat) : Nat :=
  1 + 65536 * cseq + 2 ^ 32 * fn + 2 ^ 40 * tdie + 2 ^ 64 * failed + 2 ^ 96 * unknown

/-- A member that is not done has an unknown outcome once some packet of it has left the source die. -/
def partUnknown (s : State) (c : Ctx) (m : Cmd) (i : Nat) : Bool :=
  ((outstanding s c.id m.seq).filter (fun q => q.part == i && (q.msg.type == .dlv || q.msg.type == .rd))).any (fun q => q.left) ||
  m.far.any (fun f => f.part == i && f.state == .admitted)

/-- Members of a multicast or reduction that are not done. -/
def openParts (s : State) (c : Ctx) (m : Cmd) : List Nat :=
  match s.reduction c.id m.seq with
  | none => m.parts
  | some r => match copyOf m with
    | none => []
    | some x =>
      let refs := ((sources s c m x).getD []).zipIdx
      if r.level.isEmpty then (refs.filter (fun e => !r.whole x e.2)).map Prod.snd
      else
        let lost := (outstanding s c.id m.seq).map (fun q => q.msg.dst)
        (refs.filter (fun e => match e.1 with | some t => lost.contains t.die | none => false)).map Prod.snd

/-- A bit for each member. -/
def bitsOf (l : List Nat) : Nat := l.foldl (fun a i => if a.testBit i then a else a + 2 ^ i) 0

/-- FAILED and UNKNOWN: zero for a command of one target. -/
def remoteMasks (s : State) (c : Ctx) (m : Cmd) : Nat × Nat :=
  if cmdFn m.words == 2 || cmdFn m.words == 3 then
    let l := openParts s c m
    let lrp := (s.reduction c.id m.seq).any (fun r => !r.level.isEmpty)
    (bitsOf l + m.failed.toNat - bitsOf (l.filter (fun i => m.failed.getLsbD i)),
     bitsOf (l.filter (fun i => lrp || partUnknown s c m i)))
  else (0, 0)

/-- A request of a command has passed 2 ms without any response. -/
def expired (s : State) (c : Ctx) (seq : BitVec 16) : Bool :=
  (outstanding s c.id seq).any (fun q => q.state == .sent && q.pkt.first + cycles2ms ≤ s.cycle)

/-- A record that VAPPLY pushed has passed 2 ms without any response (log entry 77). -/
def pushExpired (s : State) (c : Ctx) (dst : Nat) : Bool :=
  s.dies.any (fun e => e.2.router.requests.any (fun q => q.ctx == c.id && q.msg.op == .push && q.msg.dst == dst && q.state == .sent &&
    q.pkt.first + cycles2ms ≤ s.cycle))

/-- What becomes of the membership that a lost operation of S names: an arrival that its home controller has counted is the
context's final one, and one that it may not have counted leaves the group's open phase without it; no further arrival is made for
it (R423). -/
def lostArrival (s : State) (k : Nat) (l : Lost) : State :=
  let c := s.ctx k
  match c.member.find? (fun m => l.op && m.addr.toNat == l.addr) with
  | none => s
  | some m =>
    let counted := c.atGroup.any (fun w => w.pc == c.pcS && w.addr == m.addr)
    let s := if counted then
        { s with groups := s.groups.map (fun (g : Group) => { g with arrivals := g.arrivals.map (fun (a : Arrival) =>
            if a.ctx == c.id && a.index == m.index && a.va == m.addr.toNat then { a with leave := true } else a) }) }
      else loseMember s k m
    s.modCtx k (fun c => { c with member := c.member.filter (fun x => x.addr != m.addr) })

/-- No response within 2 ms: the command, or the S instruction, whose request was lost ends its context (R286, R380), and so does a
lost push of VAPPLY (DESIGN CHOICE, log entry 77). -/
def remoteTimeout (k : Nat) (seq : BitVec 16) (cmd : Bool) (tdie : BitVec 14) (addr : Dword) (s : State) : State :=
  let c := s.ctx k
  let rec_ := fun (at_ pc detail st : Nat) =>
    (⟨at_, pc, detail, 0, 0, s.ctxPen c, c.vcn.toNat, fRemote, st, 5, s.taskOf c⟩ : FaultRec)
  if c.status == .empty then s
  else if cmd then
    match c.cmd seq with
    | none => s
    | some m =>
      if !expired s c seq then s
      else
        let (failed, unknown) := remoteMasks s c m
        endContext s k (rec_ (cmdOpd m.words).toNat m.pc.toNat
          (remoteDetail seq.toNat (cmdFn m.words) tdie.toNat failed unknown) 4) true
  else
    let end_ := fun (s : State) => endContext s k (rec_ addr.toNat c.pcS.toNat (remoteDetail 0 255 tdie.toNat 0 0) 0) true
    match c.lost.filter (fun l => l.dst == tdie.toNat && l.first + cycles2ms ≤ s.cycle) with
    | some l => end_ (lostArrival s k l)
    | none => if pushExpired s c tdie.toNat then end_ s else s

def execRemoteTimeout (k : Nat) (seq : BitVec 16) (cmd : Bool) (tdie : BitVec 14) (addr : Dword) (s : State) : Result :=
  .next (remoteTimeout k seq cmd tdie addr s)

/-! ### Links (R363, R376) -/

/-- A flit retried from the replay buffer: nothing above the link sees it. -/
def execFlitCrcRetry (_dn : Nat) (_link : BitVec 3) (s : State) : Result := .next s

/-- DET set or cleared in the entries of a die that a test selects; the cycle of each change is kept. -/
def setDet (s : State) (dn : Nat) (v : Bool) (c : Word → Bool) : State :=
  let hit := fun (r : Word) => routeP r && c r && routeDet r != v
  let changed := ((s.die dn).routes.filter (fun e => hit e.2)).map Prod.fst
  let s := s.modDie dn (fun d => { d with routes := Table.mapIf d.routes (fun _ r => hit r) (fun r => setField r 24 1 v.toNat) })
  s.modRouter dn (fun r => { r with detAt := changed.foldl (fun t d => Table.put t d s.cycle) r.detAt })

/-- A link is declared dead: counted, the packets queued for it are lost, and entries with a live ALT take it. -/
def linkDead (dn : Nat) (link : BitVec 3) (s : State) : State :=
  if 6 ≤ link.toNat || (s.router dn).dead.contains link.toNat then s
  else
    let queued := fun (p : Packet) => p.here == dn && p.dst != dn && routeP (routeOf (s.die dn) p.dst) &&
      linkOf (routeOf (s.die dn) p.dst) == link.toNat
    let s := { s with packets := s.packets.filter (fun p => !queued p) }
    let s := (s.modRouter dn (fun r => { r with dead := r.dead ++ [link.toNat] })).count dn Counters.incLinkDead
    setDet s dn true (fun r => routeLink r == link.toNat && routeAlt r < 6 && !(s.router dn).dead.contains (routeAlt r))

def execLinkDead (dn : Nat) (link : BitVec 3) (s : State) : Result := .next (linkDead dn link s)

/-- A retrained link returns, and its entries' DET is cleared. -/
def linkReturn (dn : Nat) (link : BitVec 3) (s : State) : State :=
  if !(s.router dn).dead.contains link.toNat then s
  else
    let s := s.modRouter dn (fun r => { r with dead := r.dead.filter (fun l => l != link.toNat) })
    setDet s dn false (fun r => routeLink r == link.toNat)

def execLinkReturn (dn : Nat) (link : BitVec 3) (s : State) : Result := .next (linkReturn dn link s)

end Sys2Proof.Machine
end

