-- ==== Sys2Proof/Decode.lean ====
section
/-! DEFINITION. The decoder of the four streams (R198 to R211), total on any bits and rejecting by name, and after it
the encoder written from the same tables. -/

namespace Sys2Proof

/-- Why bits are no instruction of a stream. Each raises ILLEGAL (R199). -/
inductive DecodeError where
  /-- The major opcode or OP names nothing. -/
  | unassignedOpcode
  /-- The function of a listed opcode names nothing. -/
  | unassignedFunction
  /-- A reserved field is not zero. -/
  | reservedField
  /-- A field holds a value marked ILLEGAL (`Instr.wf`). -/
  | illegalField
  /-- There are fewer bytes than the word has. -/
  | tooShort
  deriving DecidableEq, Repr

/-! ### Bit fields -/

/-- Fields laid side by side, the first at bit 0: each a width and a value. -/
def pack : List (Nat × Nat) → Nat
  | [] => 0
  | (w, v) :: r => v + 2 ^ w * pack r

/-- The values of fields of the given widths, the first at bit 0. -/
def unpack : List Nat → Nat → List Nat
  | [], _ => []
  | w :: r, n => n % 2 ^ w :: unpack r (n / 2 ^ w)

/-- Little-endian bytes of a number (R3). -/
def bytesOfNat : Nat → Nat → List Byte
  | 0, _ => []
  | k + 1, n => BitVec.ofNat 8 n :: bytesOfNat k (n / 256)

/-- The number little-endian bytes stand for (R3). -/
def natOfBytes : List Byte → Nat
  | [] => 0
  | b :: r => b.toNat + 256 * natOfBytes r

/-! ### Fields of S and A words (R200) -/

/-- Major opcode, [31:26]. -/
def fOp (n : Nat) : Nat := n / 67108864 % 64
def rD (n : Nat) : Reg := BitVec.ofNat 5 (n / 2097152)
def rA (n : Nat) : Reg := BitVec.ofNat 5 (n / 65536)
def rB (n : Nat) : Reg := BitVec.ofNat 5 (n / 2048)
def rC (n : Nat) : Reg := BitVec.ofNat 5 (n / 64)
/-- Function of the R form, [10:0]. -/
def fnR (n : Nat) : Nat := n % 2048
/-- Function of the Q form, [5:0]. -/
def fnQ (n : Nat) : Nat := n % 64
def imm16 (n : Nat) : BitVec 16 := BitVec.ofNat 16 n

/-- The instruction, if its reserved fields are as they must be. -/
def need (c : Bool) (i : Instr) : Except DecodeError Instr := if c then .ok i else .error .reservedField

/-- The S opcode map (R202). `n2` is the second word, which the X form alone reads. -/
def parseS (n n2 : Nat) : Except DecodeError Instr :=
  match fOp n with
  | 0x01 =>
    match fnR n with
    | 0x000 => .ok (.add (rD n) (rA n) (rB n))
    | 0x001 => .ok (.sub (rD n) (rA n) (rB n))
    | 0x002 => .ok (.and (rD n) (rA n) (rB n))
    | 0x003 => .ok (.or (rD n) (rA n) (rB n))
    | 0x004 => .ok (.xor (rD n) (rA n) (rB n))
    | 0x005 => .ok (.sll (rD n) (rA n) (rB n))
    | 0x006 => .ok (.srl (rD n) (rA n) (rB n))
    | 0x007 => .ok (.sra (rD n) (rA n) (rB n))
    | 0x008 => .ok (.mul (rD n) (rA n) (rB n))
    | 0x009 => .ok (.mulh (rD n) (rA n) (rB n))
    | 0x00A => .ok (.mulhu (rD n) (rA n) (rB n))
    | 0x00B => .ok (.div (rD n) (rA n) (rB n))
    | 0x00C => .ok (.divu (rD n) (rA n) (rB n))
    | 0x00D => .ok (.rem (rD n) (rA n) (rB n))
    | 0x00E => .ok (.remu (rD n) (rA n) (rB n))
    | 0x00F => .ok (.slt (rD n) (rA n) (rB n))
    | 0x010 => .ok (.sltu (rD n) (rA n) (rB n))
    | 0x011 => .ok (.min (rD n) (rA n) (rB n))
    | 0x012 => .ok (.max (rD n) (rA n) (rB n))
    | 0x013 => .ok (.minu (rD n) (rA n) (rB n))
    | 0x014 => .ok (.maxu (rD n) (rA n) (rB n))
    | 0x015 => need (rB n == 0) (.clz (rD n) (rA n))
    | 0x016 => need (rB n == 0) (.popc (rD n) (rA n))
    | _ => .error .unassignedFunction
  | 0x02 => .ok (.addi (rD n) (rA n) (imm16 n))
  | 0x03 => .ok (.andi (rD n) (rA n) (imm16 n))
  | 0x04 => .ok (.ori (rD n) (rA n) (imm16 n))
  | 0x05 => .ok (.xori (rD n) (rA n) (imm16 n))
  | 0x06 => .ok (.slli (rD n) (rA n) (imm16 n))
  | 0x07 => .ok (.srli (rD n) (rA n) (imm16 n))
  | 0x08 => .ok (.srai (rD n) (rA n) (imm16 n))
  | 0x09 => .ok (.slti (rD n) (rA n) (imm16 n))
  | 0x0A => .ok (.sltiu (rD n) (rA n) (imm16 n))
  | 0x0B => need (rA n == 0) (.lui (rD n) (imm16 n))
  | 0x0C => need (n % 2097152 == 0) (.li (rD n) (BitVec.ofNat 32 n2))
  | 0x10 => .ok (.ldb (rD n) (rA n) (imm16 n))
  | 0x11 => .ok (.ldbu (rD n) (rA n) (imm16 n))
  | 0x12 => .ok (.ldh (rD n) (rA n) (imm16 n))
  | 0x13 => .ok (.ldhu (rD n) (rA n) (imm16 n))
  | 0x14 => .ok (.ldw (rD n) (rA n) (imm16 n))
  | 0x15 => .ok (.ldwu (rD n) (rA n) (imm16 n))
  | 0x16 => .ok (.ldd (rD n) (rA n) (imm16 n))
  | 0x18 => .ok (.stb (rD n) (rA n) (imm16 n))
  | 0x19 => .ok (.sth (rD n) (rA n) (imm16 n))
  | 0x1A => .ok (.stw (rD n) (rA n) (imm16 n))
  | 0x1B => .ok (.std (rD n) (rA n) (imm16 n))
  | 0x20 => .ok (.beq (rD n) (rA n) (imm16 n))
  | 0x21 => .ok (.bne (rD n) (rA n) (imm16 n))
  | 0x22 => .ok (.blt (rD n) (rA n) (imm16 n))
  | 0x23 => .ok (.bge (rD n) (rA n) (imm16 n))
  | 0x24 => .ok (.bltu (rD n) (rA n) (imm16 n))
  | 0x25 => .ok (.bgeu (rD n) (rA n) (imm16 n))
  | 0x26 => .ok (.j (BitVec.ofNat 26 n))
  | 0x27 => .ok (.jal (BitVec.ofNat 26 n))
  | 0x28 =>
    match fnR n with
    | 0x000 => need (rD n == 0 && rB n == 0) (.jr (rA n))
    | 0x001 => need (rB n == 0) (.jalr (rD n) (rA n))
    | 0x002 => need (rB n == 0) (.strm (rD n) (rA n))
    | _ => .error .unassignedFunction
  | 0x29 => need (n / 65536 % 4 == 0) (.loop (rD n) (BitVec.ofNat 3 (n / 262144)) (imm16 n))
  | 0x2A => need (rA n == 0) (.bqrcv (rD n) (imm16 n))
  | 0x2B =>
    match fnR n with
    | 0x000 => need (rA n == 0 && rB n == 0) (.toks (rD n))
    | 0x001 => need (rA n == 0 && rB n == 0) (.tokw (rD n))
    | 0x002 => need (rB n == 0) (.bqsnd (rD n) (rA n))
    | _ => .error .unassignedFunction
  | 0x2C =>
    match fnR n with
    | 0x000 => need (rD n == 0 && rA n == 0 && rB n == 0) (.phase)
    | 0x001 => need (rD n == 0) (.gbar (rA n) (rB n))
    | 0x002 => .ok (.join (rD n) (rA n) (rB n))
    | 0x003 => need (rD n == 0 && rB n == 0) (.leave (rA n))
    | 0x004 => .ok (.spawn (rD n) (rA n) (rB n))
    | 0x005 => need (rD n == 0 && rA n == 0 && rB n == 0) (.tend)
    | 0x006 => need (rD n == 0 && rA n == 0 && rB n == 0) (.yield)
    | _ => .error .unassignedFunction
  | 0x2D =>
    match fnQ n with
    | 0x000 => .ok (.claim (rD n) (rA n) (rB n) (rC n))
    | 0x001 => need (rD n == 6) (.clpark (rA n) (rB n) (rC n))
    | 0x002 => .ok (.fulfil (rD n) (rA n) (rB n) (rC n))
    | 0x003 => need (rC n == 0) (.abandon (rD n) (rA n) (rB n))
    | _ => .error .unassignedFunction
  | 0x2E =>
    match fnR n with
    | 0x000 => .ok (.capt (rD n) (rA n) (rB n))
    | 0x001 => .ok (.captr (rD n) (rA n) (rB n))
    | 0x002 => .ok (.apply (rD n) (rA n) (rB n))
    | 0x003 => need (rB n == 0) (.kdup (rD n) (rA n))
    | 0x004 => need (rA n == 0 && rB n == 0) (.krel (rD n))
    | 0x005 => need (rB n == 0) (.kenv (rD n) (rA n))
    | _ => .error .unassignedFunction
  | 0x2F =>
    match fnR n with
    | 0x000 => need (rB n == 0) (.doorw (rD n) (rA n))
    | 0x001 => need (rD n == 0) (.doors (rA n) (rB n))
    | _ => .error .unassignedFunction
  | 0x30 => need (rA n == 0 && n / 4096 % 16 == 0) (.csrr (rD n) (BitVec.ofNat 12 n))
  | 0x31 => need (rA n == 0 && n / 4096 % 16 == 0) (.csrw (rD n) (BitVec.ofNat 12 n))
  | 0x38 =>
    match fnR n with
    | 0x000 => need (rD n == 0 && rA n == 0 && rB n == 0) (.nop)
    | 0x001 => need (rD n == 0 && rA n == 0 && rB n == 0) (.eret)
    | 0x002 => need (rD n == 0 && rA n == 0 && rB n == 0) (.wfe)
    | 0x003 => need (rD n == 0 && rA n == 0 && rB n == 0) (.brk)
    | _ => .error .unassignedFunction
  | 0x39 => need (rD n == 0 && rA n == 0) (.trap (imm16 n))
  | 0x3C =>
    match fnR n with
    | 0x000 => .ok (.vishut (rD n) (rA n) (rB n))
    | 0x001 => .ok (.vikeyz (rD n) (rA n) (rB n))
    | 0x002 => .ok (.virev (rD n) (rA n) (rB n))
    | 0x003 => need (rB n == 0) (.vimapLeaf (rD n) (rA n))
    | _ => .error .unassignedFunction
  | _ => .error .unassignedOpcode

/-- The A opcode map (R203). -/
def parseA (n n2 : Nat) : Except DecodeError Instr :=
  match fOp n with
  | 0x01 =>
    match fnR n with
    | 0x000 => .ok (.addA (rD n) (rA n) (rB n))
    | 0x001 => .ok (.subA (rD n) (rA n) (rB n))
    | 0x002 => .ok (.andA (rD n) (rA n) (rB n))
    | 0x003 => .ok (.orA (rD n) (rA n) (rB n))
    | 0x004 => .ok (.xorA (rD n) (rA n) (rB n))
    | 0x005 => .ok (.sllA (rD n) (rA n) (rB n))
    | 0x006 => .ok (.srlA (rD n) (rA n) (rB n))
    | 0x007 => .ok (.sraA (rD n) (rA n) (rB n))
    | 0x008 => .ok (.mulA (rD n) (rA n) (rB n))
    | 0x011 => .ok (.minA (rD n) (rA n) (rB n))
    | 0x012 => .ok (.maxA (rD n) (rA n) (rB n))
    | 0x013 => .ok (.minuA (rD n) (rA n) (rB n))
    | 0x014 => .ok (.maxuA (rD n) (rA n) (rB n))
    | _ => .error .unassignedFunction
  | 0x02 => .ok (.addiA (rD n) (rA n) (imm16 n))
  | 0x03 => .ok (.andiA (rD n) (rA n) (imm16 n))
  | 0x04 => .ok (.oriA (rD n) (rA n) (imm16 n))
  | 0x05 => .ok (.xoriA (rD n) (rA n) (imm16 n))
  | 0x06 => .ok (.slliA (rD n) (rA n) (imm16 n))
  | 0x07 => .ok (.srliA (rD n) (rA n) (imm16 n))
  | 0x08 => .ok (.sraiA (rD n) (rA n) (imm16 n))
  | 0x0B => need (rA n == 0) (.luiA (rD n) (imm16 n))
  | 0x0C => need (n % 2097152 == 0) (.liA (rD n) (BitVec.ofNat 32 n2))
  | 0x10 => need (rB n == 0 && n % 512 == 0) (.ldv (rD n) (rA n) (n / 1024 % 2 == 1) (n / 512 % 2 == 1))
  | 0x11 => need (n % 512 == 0) (.ldvs (rD n) (rA n) (rB n) (n / 1024 % 2 == 1) (n / 512 % 2 == 1))
  | 0x12 => need (n % 512 == 0) (.ldvg (rD n) (rA n) (rB n) (n / 1024 % 2 == 1) (n / 512 % 2 == 1))
  | 0x18 => need (rB n == 0 && n % 512 == 0 && n / 1024 % 2 == 0) (.stv (rD n) (rA n) (n / 512 % 2 == 1))
  | 0x19 => need (n % 512 == 0 && n / 1024 % 2 == 0) (.stvs (rD n) (rA n) (rB n) (n / 512 % 2 == 1))
  | 0x1A => need (n % 512 == 0 && n / 1024 % 2 == 0) (.stvg (rD n) (rA n) (rB n) (n / 512 % 2 == 1))
  | 0x20 => .ok (.abrEq (rD n) (rA n) (imm16 n))
  | 0x21 => .ok (.abrNe (rD n) (rA n) (imm16 n))
  | 0x22 => .ok (.abrLt (rD n) (rA n) (imm16 n))
  | 0x23 => .ok (.abrGe (rD n) (rA n) (imm16 n))
  | 0x24 => .ok (.abrLtu (rD n) (rA n) (imm16 n))
  | 0x25 => .ok (.abrGeu (rD n) (rA n) (imm16 n))
  | 0x26 => .ok (.ajmp (BitVec.ofNat 26 n))
  | 0x28 =>
    match fnR n with
    | 0x000 => need (rA n == 0 && rB n == 0) (.talloc (rD n))
    | 0x001 => need (rD n == 0 && rB n == 0) (.tfree (rA n))
    | 0x002 => need (rD n == 0 && rB n == 0) (.twaitf (rA n))
    | 0x003 => need (rD n == 0 && rB n == 0) (.twaite (rA n))
    | 0x004 => need (rD n == 0 && rB n == 0) (.tsetf (rA n))
    | 0x005 => need (rD n == 0 && rB n == 0) (.tclr (rA n))
    | 0x006 => need (rB n == 0) (.tstat (rD n) (rA n))
    | 0x007 => .ok (.wdset (rD n) (rA n) (rB n))
    | _ => .error .unassignedFunction
  | 0x29 => need (n / 65536 % 4 == 0) (.aloop (rD n) (BitVec.ofNat 3 (n / 262144)) (imm16 n))
  | 0x2A => need (rA n == 0 && rD n == 0) (.abrBq (imm16 n))
  | 0x2B =>
    match fnR n with
    | 0x000 => need (rA n == 0 && rB n == 0) (.toksA (rD n))
    | 0x001 => need (rA n == 0 && rB n == 0) (.tokwA (rD n))
    | 0x002 => need (rD n == 0 && rB n == 0) (.bqsndA (rA n))
    | _ => .error .unassignedFunction
  | 0x30 =>
    match fnR n with
    | 0x000 => .ok (.cpy (rD n) (rA n) (rB n))
    | 0x001 => .ok (.cpyf (rD n) (rA n) (rB n))
    | 0x002 => .ok (.cpymc (rD n) (rA n) (rB n))
    | 0x003 => .ok (.cpylr (rD n) (rA n) (rB n))
    | 0x004 => .ok (.cpyrd (rD n) (rA n) (rB n))
    | 0x005 => need (rD n == 0) (.pref (rA n) (rB n))
    | 0x006 => need (rB n == 0) (.sacc (rD n) (rA n))
    | 0x007 => need (rD n == 0 && rB n == 0) (.sigdec (rA n))
    | 0x008 => need (rD n == 0) (.sigwait (rA n) (rB n))
    | 0x009 => need (rD n == 0 && rB n == 0) (.jdec (rA n))
    | 0x00A => need (rA n == 0 && rB n == 0) (.cres (rD n))
    | _ => .error .unassignedFunction
  | 0x38 =>
    match fnR n with
    | 0x000 => need (rD n == 0 && rA n == 0 && rB n == 0) (.nopA)
    | 0x003 => need (rD n == 0 && rA n == 0 && rB n == 0) (.brkA)
    | _ => .error .unassignedFunction
  | _ => .error .unassignedOpcode

/-! ### V words (R204 to R209) -/

def VOperand.widths : List Nat := [4, 7, 1, 6]
def VOperand.fields (o : VOperand) : List Nat := [o.str.toNat, o.ofs.toNat, o.pk.toNat, o.id.toNat]

/-- The widths of a V word's fields from bit 0 up: AUX, Y, X, D, then the control fields and OP. -/
def VWord.widths : List Nat :=
  [13, 1, 2, 3] ++ VOperand.widths ++ VOperand.widths ++ VOperand.widths ++ [3, 3, 3, 1, 1, 1, 3, 8]

/-- The operand whose fields start at place `k` of the unpacked word. -/
def VOperand.ofFields (f : List Nat) (k : Nat) : VOperand :=
  { str := BitVec.ofNat 4 (f.getD k 0), ofs := BitVec.ofNat 7 (f.getD (k + 1) 0), pk := f.getD (k + 2) 0 == 1,
    id := BitVec.ofNat 6 (f.getD (k + 3) 0) }

def VWord.ofFields (f : List Nat) : VWord :=
  { pa := BitVec.ofNat 13 (f.getD 0 0), u := f.getD 1 0 == 1, rb := BitVec.ofNat 2 (f.getD 2 0),
    grd := BitVec.ofNat 3 (f.getD 3 0), y := VOperand.ofFields f 4, x := VOperand.ofFields f 8,
    d := VOperand.ofFields f 12, tkp := BitVec.ofNat 3 (f.getD 16 0), tkw := BitVec.ofNat 3 (f.getD 17 0),
    ty := BitVec.ofNat 3 (f.getD 18 0), msk := f.getD 19 0 == 1, sat := f.getD 20 0 == 1, sq := f.getD 21 0 == 1,
    rc := BitVec.ofNat 3 (f.getD 22 0) }

def VWord.fields (w : VWord) (op : Nat) : List Nat :=
  [w.pa.toNat, w.u.toNat, w.rb.toNat, w.grd.toNat] ++ w.y.fields ++ w.x.fields ++ w.d.fields ++
  [w.tkp.toNat, w.tkw.toNat, w.ty.toNat, w.msk.toNat, w.sat.toNat, w.sq.toNat, w.rc.toNat, op]

/-- The 96 bits of a V word with opcode `op`. -/
def VWord.toNat (w : VWord) (op : Nat) : Nat := pack (VWord.widths.zip (w.fields op))

/-- The V opcode map (R209): the instruction an OP and the other fields make. -/
def parseV (op : Nat) (w : VWord) : Except DecodeError Instr :=
  match op with
  | 0x01 => .ok (.vadd w)
  | 0x02 => .ok (.vsub w)
  | 0x03 => .ok (.vmul w)
  | 0x04 => .ok (.vdiv w)
  | 0x05 => .ok (.vmin w)
  | 0x06 => .ok (.vmax w)
  | 0x07 => .ok (.vabs w)
  | 0x08 => .ok (.vneg w)
  | 0x09 => .ok (.vfma w)
  | 0x0A => .ok (.vfms w)
  | 0x10 => .ok (.vand w)
  | 0x11 => .ok (.vor w)
  | 0x12 => .ok (.vxor w)
  | 0x13 => .ok (.vshl w)
  | 0x14 => .ok (.vshr w)
  | 0x15 => .ok (.vmulh w)
  | 0x18 => .ok (.vexp2 w)
  | 0x19 => .ok (.vlog2 w)
  | 0x1A => .ok (.vrcp w)
  | 0x1B => .ok (.vrsq w)
  | 0x1C => .ok (.vtanh w)
  | 0x1D => .ok (.vsig w)
  | 0x20 => .ok (.vceq w)
  | 0x21 => .ok (.vcne w)
  | 0x22 => .ok (.vclt w)
  | 0x23 => .ok (.vcle w)
  | 0x24 => .ok (.vsel w)
  | 0x28 => .ok (.vcvt w)
  | 0x29 => .ok (.vqd8 w)
  | 0x2A => .ok (.vqi8 w)
  | 0x2B => .ok (.vsca w)
  | 0x2C => .ok (.vscd w)
  | 0x2D => .ok (.vssel w)
  | 0x30 => .ok (.vrsum w)
  | 0x31 => .ok (.vrmax w)
  | 0x32 => .ok (.vrmin w)
  | 0x34 => .ok (.vrot w)
  | 0x35 => .ok (.vperm w)
  | 0x36 => .ok (.vpack w)
  | 0x37 => .ok (.vunpk w)
  | 0x38 => .ok (.vmov w)
  | 0x39 => .ok (.vldi w)
  | 0x3A => .ok (.vrseed w)
  | 0x40 => .ok (.mpush w)
  | 0x41 => .ok (.minv w)
  | 0x42 => .ok (.mpop w)
  | 0x48 => .ok (.vbz w)
  | 0x49 => .ok (.vbr w)
  | 0x4A => .ok (.vjmp w)
  | 0x4B => .ok (.vloop w)
  | 0x4C => .ok (.vapply w)
  | 0x4D => .ok (.vscat w)
  | 0x4E => .ok (.vbqsnd w)
  | _ => .error .unassignedOpcode

/-! ### M words (R210, R211) -/

/-- The widths of an M word's fields from bit 0 up. -/
def MWord.widths : List Nat := [128, 3, 7, 7, 1, 4, 2, 4, 4, 7, 1, 1, 1, 3, 3, 4, 1, 3, 8]

def MWord.ofFields (f : List Nat) : MWord :=
  { pa := BitVec.ofNat 128 (f.getD 0 0), grd := BitVec.ofNat 3 (f.getD 1 0), nrow := BitVec.ofNat 7 (f.getD 2 0),
    row0 := BitVec.ofNat 7 (f.getD 3 0), dq := f.getD 4 0 == 1, dfmt := BitVec.ofNat 4 (f.getD 5 0),
    hsz := BitVec.ofNat 2 (f.getD 6 0), wsrc := BitVec.ofNat 4 (f.getD 7 0), kt := BitVec.ofNat 4 (f.getD 8 0),
    atile := BitVec.ofNat 7 (f.getD 9 0), con := f.getD 10 0 == 1, zi := f.getD 11 0 == 1, acc := f.getD 12 0 == 1,
    tkp := BitVec.ofNat 3 (f.getD 13 0), tkw := BitVec.ofNat 3 (f.getD 14 0), mode := BitVec.ofNat 4 (f.getD 15 0),
    sq := f.getD 16 0 == 1, rc := BitVec.ofNat 3 (f.getD 17 0) }

def MWord.fields (w : MWord) (op : Nat) : List Nat :=
  [w.pa.toNat, w.grd.toNat, w.nrow.toNat, w.row0.toNat, w.dq.toNat, w.dfmt.toNat, w.hsz.toNat, w.wsrc.toNat,
   w.kt.toNat, w.atile.toNat, w.con.toNat, w.zi.toNat, w.acc.toNat, w.tkp.toNat, w.tkw.toNat, w.mode.toNat,
   w.sq.toNat, w.rc.toNat, op]

/-- The 192 bits of an M word with opcode `op`. -/
def MWord.toNat (w : MWord) (op : Nat) : Nat := pack (MWord.widths.zip (w.fields op))

/-- The M opcode map (R211). -/
def parseM (op : Nat) (w : MWord) : Except DecodeError Instr :=
  match op with
  | 0x01 => .ok (.mma w)
  | 0x02 => .ok (.mmaw w)
  | 0x03 => .ok (.mmaq w)
  | 0x04 => .ok (.mhad w)
  | 0x05 => .ok (.mwld w)
  | 0x06 => .ok (.mdrn w)
  | 0x07 => .ok (.mzero w)
  | 0x08 => .ok (.mloop w)
  | 0x09 => .ok (.mbr w)
  | 0x0A => .ok (.mjmp w)
  | 0x0B => .ok (.mnop w)
  | _ => .error .unassignedOpcode

/-! ### The decoder -/

/-- The instruction, if its fields pass the checks of R199. -/
def checked (r : Except DecodeError Instr) : Except DecodeError Instr :=
  match r with
  | .error e => .error e
  | .ok i => if i.wf then .ok i else .error .illegalField

/-- The instruction of a stream whose bits are `n`, bit 0 the least significant bit of its first word. -/
def decodeBits (st : Stream) (n : Nat) : Except DecodeError Instr :=
  match st with
  | .s => checked (parseS (n % 4294967296) (n / 4294967296))
  | .a => checked (parseA (n % 4294967296) (n / 4294967296))
  | .v => let f := unpack VWord.widths n; checked (parseV (f.getD 23 0) (VWord.ofFields f))
  | .m => let f := unpack MWord.widths n; checked (parseM (f.getD 18 0) (MWord.ofFields f))

/-- Whether the first word of an S or A instruction is of the X form (R200), whose second word follows. -/
def isX (st : Stream) (n : Nat) : Bool := (st == .s || st == .a) && fOp n == 0x0C

/-- The length in bytes of the instruction whose first word is `n`. -/
def lengthOf (st : Stream) (n : Nat) : Nat := if isX st n then 8 else st.wordBytes

/-- Decodes the first instruction of a list of bytes and gives the bytes after it. -/
def decode (st : Stream) (bytes : List Byte) : Except DecodeError (Instr × List Byte) :=
  if bytes.length < st.wordBytes then .error .tooShort
  else
    let len := lengthOf st (natOfBytes (bytes.take 4))
    if bytes.length < len then .error .tooShort
    else match decodeBits st (natOfBytes (bytes.take len)) with
      | .error e => .error e
      | .ok i => .ok (i, bytes.drop len)

/-! ### The encoder -/

def wR (op : Nat) (d a b : Reg) (fn : Nat) : Nat :=
  fn + 2048 * (b.toNat + 32 * (a.toNat + 32 * (d.toNat + 32 * op)))
def wQ (op : Nat) (d a b c : Reg) (fn : Nat) : Nat :=
  fn + 64 * (c.toNat + 32 * (b.toNat + 32 * (a.toNat + 32 * (d.toNat + 32 * op))))
/-- The I and B forms: two register fields and 16 bits. -/
def wI (op : Nat) (d a : Reg) (imm : BitVec 16) : Nat :=
  imm.toNat + 65536 * (a.toNat + 32 * (d.toNat + 32 * op))
def wJ (op : Nat) (disp : BitVec 26) : Nat := disp.toNat + 67108864 * op
def wL (op : Nat) (a : Reg) (stg : BitVec 3) (len : BitVec 16) : Nat :=
  len.toNat + 65536 * (4 * (stg.toNat + 8 * (a.toNat + 32 * op)))
/-- The X form, both words. -/
def wX (op : Nat) (d : Reg) (imm : Word) : Nat := 2097152 * (d.toNat + 32 * op) + 4294967296 * imm.toNat
/-- The R form of LDV to STVG: function [10] is C and [9] is P (R203). -/
def wV (op : Nat) (d a b : Reg) (c p : Bool) : Nat := wR op d a b (512 * (p.toNat + 2 * c.toNat))

/-- The bits of an instruction, written from the tables of R200 to R211. An event row has no encoding: 0. -/
def encodeBits : Instr → Nat
  | .add d a b => wR 0x01 d a b 0x000
  | .sub d a b => wR 0x01 d a b 0x001
  | .and d a b => wR 0x01 d a b 0x002
  | .or d a b => wR 0x01 d a b 0x003
  | .xor d a b => wR 0x01 d a b 0x004
  | .sll d a b => wR 0x01 d a b 0x005
  | .srl d a b => wR 0x01 d a b 0x006
  | .sra d a b => wR 0x01 d a b 0x007
  | .mul d a b => wR 0x01 d a b 0x008
  | .mulh d a b => wR 0x01 d a b 0x009
  | .mulhu d a b => wR 0x01 d a b 0x00A
  | .div d a b => wR 0x01 d a b 0x00B
  | .divu d a b => wR 0x01 d a b 0x00C
  | .rem d a b => wR 0x01 d a b 0x00D
  | .remu d a b => wR 0x01 d a b 0x00E
  | .slt d a b => wR 0x01 d a b 0x00F
  | .sltu d a b => wR 0x01 d a b 0x010
  | .min d a b => wR 0x01 d a b 0x011
  | .max d a b => wR 0x01 d a b 0x012
  | .minu d a b => wR 0x01 d a b 0x013
  | .maxu d a b => wR 0x01 d a b 0x014
  | .clz d a => wR 0x01 d a 0 0x015
  | .popc d a => wR 0x01 d a 0 0x016
  | .addi d a imm => wI 0x02 d a imm
  | .andi d a imm => wI 0x03 d a imm
  | .ori d a imm => wI 0x04 d a imm
  | .xori d a imm => wI 0x05 d a imm
  | .slli d a imm => wI 0x06 d a imm
  | .srli d a imm => wI 0x07 d a imm
  | .srai d a imm => wI 0x08 d a imm
  | .slti d a imm => wI 0x09 d a imm
  | .sltiu d a imm => wI 0x0A d a imm
  | .lui d imm => wI 0x0B d 0 imm
  | .li d imm => wX 0x0C d imm
  | .ldb d a imm => wI 0x10 d a imm
  | .ldbu d a imm => wI 0x11 d a imm
  | .ldh d a imm => wI 0x12 d a imm
  | .ldhu d a imm => wI 0x13 d a imm
  | .ldw d a imm => wI 0x14 d a imm
  | .ldwu d a imm => wI 0x15 d a imm
  | .ldd d a imm => wI 0x16 d a imm
  | .stb d a imm => wI 0x18 d a imm
  | .sth d a imm => wI 0x19 d a imm
  | .stw d a imm => wI 0x1A d a imm
  | .std d a imm => wI 0x1B d a imm
  | .beq a b disp => wI 0x20 a b disp
  | .bne a b disp => wI 0x21 a b disp
  | .blt a b disp => wI 0x22 a b disp
  | .bge a b disp => wI 0x23 a b disp
  | .bltu a b disp => wI 0x24 a b disp
  | .bgeu a b disp => wI 0x25 a b disp
  | .j disp => wJ 0x26 disp
  | .jal disp => wJ 0x27 disp
  | .jr a => wR 0x28 0 a 0 0x000
  | .jalr d a => wR 0x28 d a 0 0x001
  | .strm d a => wR 0x28 d a 0 0x002
  | .loop a stg len => wL 0x29 a stg len
  | .bqrcv q disp => wI 0x2A q 0 disp
  | .toks d => wR 0x2B d 0 0 0x000
  | .tokw d => wR 0x2B d 0 0 0x001
  | .bqsnd d a => wR 0x2B d a 0 0x002
  | .phase => wR 0x2C 0 0 0 0x000
  | .gbar a b => wR 0x2C 0 a b 0x001
  | .join d a b => wR 0x2C d a b 0x002
  | .leave a => wR 0x2C 0 a 0 0x003
  | .spawn d a b => wR 0x2C d a b 0x004
  | .tend => wR 0x2C 0 0 0 0x005
  | .yield => wR 0x2C 0 0 0 0x006
  | .claim d a b c => wQ 0x2D d a b c 0x00
  | .clpark a b c => wQ 0x2D 6 a b c 0x01
  | .fulfil d a b c => wQ 0x2D d a b c 0x02
  | .abandon d a b => wQ 0x2D d a b 0 0x03
  | .capt d a b => wR 0x2E d a b 0x000
  | .captr d a b => wR 0x2E d a b 0x001
  | .apply d a b => wR 0x2E d a b 0x002
  | .kdup d a => wR 0x2E d a 0 0x003
  | .krel d => wR 0x2E d 0 0 0x004
  | .kenv d a => wR 0x2E d a 0 0x005
  | .doorw d a => wR 0x2F d a 0 0x000
  | .doors a b => wR 0x2F 0 a b 0x001
  | .csrr d csr => wI 0x30 d 0 (csr.zeroExtend 16)
  | .csrw d csr => wI 0x31 d 0 (csr.zeroExtend 16)
  | .nop => wR 0x38 0 0 0 0x000
  | .eret => wR 0x38 0 0 0 0x001
  | .wfe => wR 0x38 0 0 0 0x002
  | .brk => wR 0x38 0 0 0 0x003
  | .trap imm => wI 0x39 0 0 imm
  | .vishut d a b => wR 0x3C d a b 0x000
  | .vikeyz d a b => wR 0x3C d a b 0x001
  | .virev d a b => wR 0x3C d a b 0x002
  | .vimapLeaf d a => wR 0x3C d a 0 0x003
  | .vimapLink d a => wR 0x3C d a 0 0x003
  | .vimapOwn d a => wR 0x3C d a 0 0x003
  | .vimapEvict d a => wR 0x3C d a 0 0x003
  | .vimapReturn d a => wR 0x3C d a 0 0x003
  | .vimapFail d a => wR 0x3C d a 0 0x003
  | .vimapVient d a => wR 0x3C d a 0 0x003
  | .vimapCore d a => wR 0x3C d a 0 0x003
  | .vimapQueue d a => wR 0x3C d a 0 0x003
  | .vimapDoor d a => wR 0x3C d a 0 0x003
  | .vimapWindow d a => wR 0x3C d a 0 0x003
  | .vimapKey d a => wR 0x3C d a 0 0x003
  | .vimapRoute d a => wR 0x3C d a 0 0x003
  | .vimapMcast d a => wR 0x3C d a 0 0x003
  | .vimapTblpg d a => wR 0x3C d a 0 0x003
  | .addA d a b => wR 0x01 d a b 0x000
  | .subA d a b => wR 0x01 d a b 0x001
  | .andA d a b => wR 0x01 d a b 0x002
  | .orA d a b => wR 0x01 d a b 0x003
  | .xorA d a b => wR 0x01 d a b 0x004
  | .sllA d a b => wR 0x01 d a b 0x005
  | .srlA d a b => wR 0x01 d a b 0x006
  | .sraA d a b => wR 0x01 d a b 0x007
  | .mulA d a b => wR 0x01 d a b 0x008
  | .minA d a b => wR 0x01 d a b 0x011
  | .maxA d a b => wR 0x01 d a b 0x012
  | .minuA d a b => wR 0x01 d a b 0x013
  | .maxuA d a b => wR 0x01 d a b 0x014
  | .addiA d a imm => wI 0x02 d a imm
  | .andiA d a imm => wI 0x03 d a imm
  | .oriA d a imm => wI 0x04 d a imm
  | .xoriA d a imm => wI 0x05 d a imm
  | .slliA d a imm => wI 0x06 d a imm
  | .srliA d a imm => wI 0x07 d a imm
  | .sraiA d a imm => wI 0x08 d a imm
  | .luiA d imm => wI 0x0B d 0 imm
  | .liA d imm => wX 0x0C d imm
  | .ldv d a consume post => wV 0x10 d a 0 consume post
  | .ldvs d a b consume post => wV 0x11 d a b consume post
  | .ldvg d a b consume post => wV 0x12 d a b consume post
  | .stv d a post => wV 0x18 d a 0 false post
  | .stvs d a b post => wV 0x19 d a b false post
  | .stvg d a b post => wV 0x1A d a b false post
  | .abrEq a b disp => wI 0x20 a b disp
  | .abrNe a b disp => wI 0x21 a b disp
  | .abrLt a b disp => wI 0x22 a b disp
  | .abrGe a b disp => wI 0x23 a b disp
  | .abrLtu a b disp => wI 0x24 a b disp
  | .abrGeu a b disp => wI 0x25 a b disp
  | .ajmp disp => wJ 0x26 disp
  | .aloop a stg len => wL 0x29 a stg len
  | .abrBq disp => wI 0x2A 0 0 disp
  | .toksA d => wR 0x2B d 0 0 0x000
  | .tokwA d => wR 0x2B d 0 0 0x001
  | .bqsndA a => wR 0x2B 0 a 0 0x002
  | .talloc d => wR 0x28 d 0 0 0x000
  | .tfree a => wR 0x28 0 a 0 0x001
  | .twaitf a => wR 0x28 0 a 0 0x002
  | .twaite a => wR 0x28 0 a 0 0x003
  | .tsetf a => wR 0x28 0 a 0 0x004
  | .tclr a => wR 0x28 0 a 0 0x005
  | .tstat d a => wR 0x28 d a 0 0x006
  | .wdset d a b => wR 0x28 d a b 0x007
  | .cpy d a b => wR 0x30 d a b 0x000
  | .cpyf d a b => wR 0x30 d a b 0x001
  | .cpymc d a b => wR 0x30 d a b 0x002
  | .cpylr d a b => wR 0x30 d a b 0x003
  | .cpyrd d a b => wR 0x30 d a b 0x004
  | .pref a b => wR 0x30 0 a b 0x005
  | .sacc d a => wR 0x30 d a 0 0x006
  | .sigdec a => wR 0x30 0 a 0 0x007
  | .sigwait a b => wR 0x30 0 a b 0x008
  | .jdec a => wR 0x30 0 a 0 0x009
  | .cres d => wR 0x30 d 0 0 0x00A
  | .nopA => wR 0x38 0 0 0 0x000
  | .brkA => wR 0x38 0 0 0 0x003
  | .vadd w => w.toNat 0x01
  | .vsub w => w.toNat 0x02
  | .vmul w => w.toNat 0x03
  | .vdiv w => w.toNat 0x04
  | .vmin w => w.toNat 0x05
  | .vmax w => w.toNat 0x06
  | .vabs w => w.toNat 0x07
  | .vneg w => w.toNat 0x08
  | .vfma w => w.toNat 0x09
  | .vfms w => w.toNat 0x0A
  | .vand w => w.toNat 0x10
  | .vor w => w.toNat 0x11
  | .vxor w => w.toNat 0x12
  | .vshl w => w.toNat 0x13
  | .vshr w => w.toNat 0x14
  | .vmulh w => w.toNat 0x15
  | .vexp2 w => w.toNat 0x18
  | .vlog2 w => w.toNat 0x19
  | .vrcp w => w.toNat 0x1A
  | .vrsq w => w.toNat 0x1B
  | .vtanh w => w.toNat 0x1C
  | .vsig w => w.toNat 0x1D
  | .vceq w => w.toNat 0x20
  | .vcne w => w.toNat 0x21
  | .vclt w => w.toNat 0x22
  | .vcle w => w.toNat 0x23
  | .vsel w => w.toNat 0x24
  | .vcvt w => w.toNat 0x28
  | .vqd8 w => w.toNat 0x29
  | .vqi8 w => w.toNat 0x2A
  | .vsca w => w.toNat 0x2B
  | .vscd w => w.toNat 0x2C
  | .vssel w => w.toNat 0x2D
  | .vrsum w => w.toNat 0x30
  | .vrmax w => w.toNat 0x31
  | .vrmin w => w.toNat 0x32
  | .vrot w => w.toNat 0x34
  | .vperm w => w.toNat 0x35
  | .vpack w => w.toNat 0x36
  | .vunpk w => w.toNat 0x37
  | .vmov w => w.toNat 0x38
  | .vldi w => w.toNat 0x39
  | .vrseed w => w.toNat 0x3A
  | .mpush w => w.toNat 0x40
  | .minv w => w.toNat 0x41
  | .mpop w => w.toNat 0x42
  | .vbz w => w.toNat 0x48
  | .vbr w => w.toNat 0x49
  | .vjmp w => w.toNat 0x4A
  | .vloop w => w.toNat 0x4B
  | .vapply w => w.toNat 0x4C
  | .vscat w => w.toNat 0x4D
  | .vbqsnd w => w.toNat 0x4E
  | .mma w => w.toNat 0x01
  | .mmaw w => w.toNat 0x02
  | .mmaq w => w.toNat 0x03
  | .mhad w => w.toNat 0x04
  | .mwld w => w.toNat 0x05
  | .mdrn w => w.toNat 0x06
  | .mzero w => w.toNat 0x07
  | .mloop w => w.toNat 0x08
  | .mbr w => w.toNat 0x09
  | .mjmp w => w.toNat 0x0A
  | .mnop w => w.toNat 0x0B
  | .vPushLand | .kstepCommit | .mhadRowWrite | .mdrnRowLand | .mzeroEffect | .mwldSlotWrite => 0
  | .weightPortFetch | .dispatch _ | .bankSwitch _ | .sliceExpiry _ | .tileWaitTimeout _ | .contextSave _ _ => 0
  | .contextRestore _ _ | .trapEntry | .contextEnd _ _ | .commitComplete _ | .barrierEvaluate _ _ _ | .heldPushEnter _ _ => 0
  | .engineTakeCommand _ _ | .engineCommandComplete _ _ | .deliveryArrive _ | .deliveryLanded _ | .sigwaitSatisfy _ _ | .traceRecordWrite _ _ _ => 0
  | .hostDoorAppend _ _ _ _ _ _ | .doorHeadWrite _ _ _ _ _ | .hostMemRead _ _ _ _ _ | .hostMemWrite _ _ _ _ _ | .overflowCounterClear _ _ _ _ | .counterConfigWrite _ _ _ _ _ => 0
  | .traceCounterClear _ _ _ _ _ _ | .tctlWrite _ _ _ _ _ | .trptrWrite _ _ _ _ _ | .plimWrite _ _ | .registerWrite _ _ _ _ | .preempt _ _ _ _ => 0
  | .release _ _ _ _ | .cancel _ _ _ _ | .seed _ _ _ _ | .keyload _ _ _ _ | .manreg _ _ _ _ _ _ | .mandel _ _ _ => 0
  | .getCertificate _ _ | .challenge _ _ _ | .getMeasurements _ _ | .fabkey _ _ | .ideKm _ _ _ | .stopInterface _ _ => 0
  | .functionLevelReset _ _ | .flrShutterResume _ _ | .coldReset _ _ _ | .thermalHalt _ _ | .powerSample _ _ | .throttleStep _ => 0
  | .sweepPassStart _ | .sweepVisit _ | .sweepPassEnd _ | .flitCrcRetry _ _ | .linkDead _ _ | .linkReturn _ _ => 0
  | .packetForward _ | .packetWaitExpiry _ | .wr _ | .dlv _ | .rd _ | .rdr _ => 0
  | .red _ | .hop _ | .lrp _ | .rsp _ | .mgt _ | .requestReissue _ _ => 0
  | .remoteTimeout _ _ _ _ _ | .admitRepeat _ | .deliveryRetry _ | .bootstrapMailboxGo _ _ | .lockInterface _ _ | .startInterface _ _ => 0

/-- The stream an instruction belongs to; none for an act of another agent. -/
def Instr.stream : Instr → Option Stream
  | .add _ _ _ | .sub _ _ _ | .and _ _ _ | .or _ _ _ | .xor _ _ _ | .sll _ _ _ => some .s
  | .srl _ _ _ | .sra _ _ _ | .mul _ _ _ | .mulh _ _ _ | .mulhu _ _ _ | .div _ _ _ => some .s
  | .divu _ _ _ | .rem _ _ _ | .remu _ _ _ | .slt _ _ _ | .sltu _ _ _ | .min _ _ _ => some .s
  | .max _ _ _ | .minu _ _ _ | .maxu _ _ _ | .clz _ _ | .popc _ _ | .addi _ _ _ => some .s
  | .andi _ _ _ | .ori _ _ _ | .xori _ _ _ | .slli _ _ _ | .srli _ _ _ | .srai _ _ _ => some .s
  | .slti _ _ _ | .sltiu _ _ _ | .lui _ _ | .li _ _ | .ldb _ _ _ | .ldbu _ _ _ => some .s
  | .ldh _ _ _ | .ldhu _ _ _ | .ldw _ _ _ | .ldwu _ _ _ | .ldd _ _ _ | .stb _ _ _ => some .s
  | .sth _ _ _ | .stw _ _ _ | .std _ _ _ | .beq _ _ _ | .bne _ _ _ | .blt _ _ _ => some .s
  | .bge _ _ _ | .bltu _ _ _ | .bgeu _ _ _ | .j _ | .jal _ | .jr _ => some .s
  | .jalr _ _ | .strm _ _ | .loop _ _ _ | .bqrcv _ _ | .toks _ | .tokw _ => some .s
  | .bqsnd _ _ | .phase | .gbar _ _ | .join _ _ _ | .leave _ | .spawn _ _ _ => some .s
  | .tend | .yield | .claim _ _ _ _ | .clpark _ _ _ | .fulfil _ _ _ _ | .abandon _ _ _ => some .s
  | .capt _ _ _ | .captr _ _ _ | .apply _ _ _ | .kdup _ _ | .krel _ | .kenv _ _ => some .s
  | .doorw _ _ | .doors _ _ | .csrr _ _ | .csrw _ _ | .nop | .eret => some .s
  | .wfe | .brk | .trap _ | .vishut _ _ _ | .vikeyz _ _ _ | .virev _ _ _ => some .s
  | .vimapLeaf _ _ | .vimapLink _ _ | .vimapOwn _ _ | .vimapEvict _ _ | .vimapReturn _ _ | .vimapFail _ _ => some .s
  | .vimapVient _ _ | .vimapCore _ _ | .vimapQueue _ _ | .vimapDoor _ _ | .vimapWindow _ _ | .vimapKey _ _ => some .s
  | .vimapRoute _ _ | .vimapMcast _ _ | .vimapTblpg _ _ => some .s
  | .addA _ _ _ | .subA _ _ _ | .andA _ _ _ | .orA _ _ _ | .xorA _ _ _ | .sllA _ _ _ => some .a
  | .srlA _ _ _ | .sraA _ _ _ | .mulA _ _ _ | .minA _ _ _ | .maxA _ _ _ | .minuA _ _ _ => some .a
  | .maxuA _ _ _ | .addiA _ _ _ | .andiA _ _ _ | .oriA _ _ _ | .xoriA _ _ _ | .slliA _ _ _ => some .a
  | .srliA _ _ _ | .sraiA _ _ _ | .luiA _ _ | .liA _ _ | .ldv _ _ _ _ | .ldvs _ _ _ _ _ => some .a
  | .ldvg _ _ _ _ _ | .stv _ _ _ | .stvs _ _ _ _ | .stvg _ _ _ _ | .abrEq _ _ _ | .abrNe _ _ _ => some .a
  | .abrLt _ _ _ | .abrGe _ _ _ | .abrLtu _ _ _ | .abrGeu _ _ _ | .ajmp _ | .aloop _ _ _ => some .a
  | .abrBq _ | .toksA _ | .tokwA _ | .bqsndA _ | .talloc _ | .tfree _ => some .a
  | .twaitf _ | .twaite _ | .tsetf _ | .tclr _ | .tstat _ _ | .wdset _ _ _ => some .a
  | .cpy _ _ _ | .cpyf _ _ _ | .cpymc _ _ _ | .cpylr _ _ _ | .cpyrd _ _ _ | .pref _ _ => some .a
  | .sacc _ _ | .sigdec _ | .sigwait _ _ | .jdec _ | .cres _ | .nopA => some .a
  | .brkA => some .a
  | .vadd _ | .vsub _ | .vmul _ | .vdiv _ | .vmin _ | .vmax _ => some .v
  | .vabs _ | .vneg _ | .vfma _ | .vfms _ | .vand _ | .vor _ => some .v
  | .vxor _ | .vshl _ | .vshr _ | .vmulh _ | .vexp2 _ | .vlog2 _ => some .v
  | .vrcp _ | .vrsq _ | .vtanh _ | .vsig _ | .vceq _ | .vcne _ => some .v
  | .vclt _ | .vcle _ | .vsel _ | .vcvt _ | .vqd8 _ | .vqi8 _ => some .v
  | .vsca _ | .vscd _ | .vssel _ | .vrsum _ | .vrmax _ | .vrmin _ => some .v
  | .vrot _ | .vperm _ | .vpack _ | .vunpk _ | .vmov _ | .vldi _ => some .v
  | .vrseed _ | .mpush _ | .minv _ | .mpop _ | .vbz _ | .vbr _ => some .v
  | .vjmp _ | .vloop _ | .vapply _ | .vscat _ | .vbqsnd _ => some .v
  | .mma _ | .mmaw _ | .mmaq _ | .mhad _ | .mwld _ | .mdrn _ => some .m
  | .mzero _ | .mloop _ | .mbr _ | .mjmp _ | .mnop _ => some .m
  | .vPushLand | .kstepCommit | .mhadRowWrite | .mdrnRowLand | .mzeroEffect | .mwldSlotWrite => none
  | .weightPortFetch | .dispatch _ | .bankSwitch _ | .sliceExpiry _ | .tileWaitTimeout _ | .contextSave _ _ => none
  | .contextRestore _ _ | .trapEntry | .contextEnd _ _ | .commitComplete _ | .barrierEvaluate _ _ _ | .heldPushEnter _ _ => none
  | .engineTakeCommand _ _ | .engineCommandComplete _ _ | .deliveryArrive _ | .deliveryLanded _ | .sigwaitSatisfy _ _ | .traceRecordWrite _ _ _ => none
  | .hostDoorAppend _ _ _ _ _ _ | .doorHeadWrite _ _ _ _ _ | .hostMemRead _ _ _ _ _ | .hostMemWrite _ _ _ _ _ | .overflowCounterClear _ _ _ _ | .counterConfigWrite _ _ _ _ _ => none
  | .traceCounterClear _ _ _ _ _ _ | .tctlWrite _ _ _ _ _ | .trptrWrite _ _ _ _ _ | .plimWrite _ _ | .registerWrite _ _ _ _ | .preempt _ _ _ _ => none
  | .release _ _ _ _ | .cancel _ _ _ _ | .seed _ _ _ _ | .keyload _ _ _ _ | .manreg _ _ _ _ _ _ | .mandel _ _ _ => none
  | .getCertificate _ _ | .challenge _ _ _ | .getMeasurements _ _ | .fabkey _ _ | .ideKm _ _ _ | .stopInterface _ _ => none
  | .functionLevelReset _ _ | .flrShutterResume _ _ | .coldReset _ _ _ | .thermalHalt _ _ | .powerSample _ _ | .throttleStep _ => none
  | .sweepPassStart _ | .sweepVisit _ | .sweepPassEnd _ | .flitCrcRetry _ _ | .linkDead _ _ | .linkReturn _ _ => none
  | .packetForward _ | .packetWaitExpiry _ | .wr _ | .dlv _ | .rd _ | .rdr _ => none
  | .red _ | .hop _ | .lrp _ | .rsp _ | .mgt _ | .requestReissue _ _ => none
  | .remoteTimeout _ _ _ _ _ | .admitRepeat _ | .deliveryRetry _ | .bootstrapMailboxGo _ _ | .lockInterface _ _ | .startInterface _ _ => none

/-- The length of an instruction in bytes. -/
def Instr.bytes (i : Instr) : Nat :=
  match i.stream with
  | none => 0
  | some st =>
    match i with
    | .li _ _ => 8
    | .liA _ _ => 8
    | _ => st.wordBytes

/-- The bytes of an instruction as memory holds them (R3, R198). -/
def encode (i : Instr) : List Byte := bytesOfNat i.bytes (encodeBits i)

/-- The instruction the decoder reads from bits numbered as the opcode table numbers them. A V word has 96 bits and an
M word 192. The S and A streams share their words (R202, R203): bits that are a word of S are read as S. -/
def decodeTableWord (nbits w : Nat) : Option Instr :=
  match (if nbits == 192 then decodeBits .m w
         else if nbits == 96 then decodeBits .v w
         else match decodeBits .s w with
           | .ok i => .ok i
           | .error _ => decodeBits .a w) with
  | .ok i => some i
  | .error _ => none

end Sys2Proof
end

