-- ==== Sys2Proof/Machine/Weights.lean ====
section
/-! DEFINITION. Where an array word's operands come from and what the array computes: A tiles, weight tiles from slots
and streams (R101, R327, R328, R330, R383 to R385), group sums, K-steps (R65 to R67) and the Hadamard transform (R69). -/

namespace Sys2Proof.Machine

/-! ### Formats and tiles (R210, R327) -/

/-- The element type a MODE or an FMT code names. -/
def modeTy (m : Nat) : ElTy :=
  match m with
  | 0 => .d8 | 1 => .int 8 false | 2 => .fp .bf16 | _ => .fp .f16

/-- Bytes of an element. -/
def modeSize (m : Nat) : Nat := if 2 ≤ m then 2 else 1

/-- Cycles of a K-step (R320). -/
def modeCycles (m : Nat) : Nat := if 2 ≤ m then 4 else 1

/-- The A tiles of a tile step: one, or a pair. -/
def stepTiles (w : MWord) (t : Nat) : List Nat :=
  let a := w.atile.toNat
  if 2 ≤ w.mode.toNat then [a + 2 * t, a + 2 * t + 1] else [a + t]

/-- Every A tile of a word. -/
def allTiles (w : MWord) : List Nat := (List.range (w.kt.toNat + 1)).flatMap (stepTiles w)

/-- The slots an MMA names (R211). -/
def slotsOf (w : MWord) : List Nat :=
  let n := w.kt.toNat + 1
  (List.range (if 2 ≤ w.mode.toNat then 2 * n else n)).map (fun i => w.wsrc.toNat % 8 + i)

/-- K-steps of a word. -/
def stepsOf (w : MWord) : Nat := 128 * (w.kt.toNat + 1)

/-- The elements lines hold. -/
def lineElems (size : Nat) (ls : List Line) : List Nat :=
  let bs := ls.flatMap lineBytes
  (groups size (bs.length / size) bs).map leNat

/-- Row i of the A operand in the tiles of its step (R327), read under R92. -/
def aRow (s : State) (ck : Nat) (pen : Pen) (mode : Nat) (tiles : List Nat) (i : Nat) : List Nat :=
  let size := modeSize mode
  let n := 2 * size
  let at_ := if size == 2 then tileLine (tiles.getD (i / 64) 0) (n * (i % 64)) else tileLine (tiles.getD 0 0) (n * i)
  lineElems size ((List.range n).map (fun j => (s.core ck).spad.read pen (at_ + j)))

/-! ### Descriptors (R83, R327) -/

def wdBase (d : BitVec 128) : Nat := field d 64 64
def wdTiles (d : BitVec 128) : Nat := field d 48 16
def wdFmt (d : BitVec 128) : Nat := field d 36 4
def wdPos (d : BitVec 128) : Nat := field d 0 32

/-- A descriptor may be used for `steps` K-steps of which `done` have been made. -/
def wdOk (d : BitVec 128) (done steps : Nat) : Bool :=
  field d 40 8 == 0 && field d 32 4 == 0 && wdFmt d ≤ 3 && wdTiles d != 0 && wdBase d % 64 == 0 &&
  wdBase d < 4503599627370496 && done ≤ wdPos d && (wdPos d - done) % 128 == 0 &&
  wdPos d - done + steps ≤ 128 * wdTiles d

/-- Bytes of a weight tile (R328). -/
def tileBytes (fmt : Nat) : Nat := 16384 * modeSize fmt

/-! ### Weight blocks from a stream (R328, R385) -/

/-- A weight access that failed: the failing check, and its address. -/
structure WFail where
  fail : Fail
  addr : Nat
  deriving DecidableEq, Repr

/-- The stored length of a WCT = 1 block; a page without compression holds every block raw. -/
def imageLen (s : State) (a : Accessor) (w : Where) : Nat := if w.leaf.cmp == 0 then 64 else blockLen s a.vi w.leaf w.gpa

/-- Line i of a block whose first line, at va, has been checked: the checks again, which on the same page differ only
at the target. -/
def blockLine (s : State) (a : Accessor) (va : Nat) (w : Where) (i : Nat) : Except Fail (Where × Line) :=
  let at_ := va + 64 * i
  let c : Except Fail Where :=
    if at_ / 65536 == va / 65536 then
      checkWhere s a ⟨w.leaf, w.gpa + 64 * i⟩ false
    else checkS s a .read at_ false
  match c with
  | .error e => .error e
  | .ok w => match readLine s a w with
    | .error e => .error e
    | .ok x => .ok (w, x)

/-- n lines from line i on. -/
def blockLines (s : State) (a : Accessor) (va : Nat) (w : Where) : Nat → Nat → Except WFail (List (Where × Line))
  | 0, _ => .ok []
  | n + 1, i =>
    match blockLine s a va w i with
    | .error e => .error ⟨e, va + 64 * i⟩
    | .ok x => match blockLines s a va w n (i + 1) with
      | .error e => .error e
      | .ok r => .ok (x :: r)

/-- A block of the stream of a descriptor with the given BASE. -/
def streamBlock (s : State) (a : Accessor) (base va : Nat) : Except WFail WBlock :=
  match checkS s a .read va false with
  | .error e => .error ⟨e, va⟩
  | .ok w =>
    if w.leaf.wct && base % 4096 != 0 then .error ⟨⟨11, fIntegrity⟩, va⟩
    else match blockLines s a va w (if w.leaf.wct then imageLen s a w else 64) 0 with
      | .error e => .error e
      | .ok ls =>
        if ls.any (fun e => e.1.leaf.wct != w.leaf.wct) then .error ⟨⟨11, fIntegrity⟩, va⟩
        else .ok { pen := a.pen, wct := w.leaf.wct, key := w.leaf.key, cmp := w.leaf.cmp, lines := ls.map Prod.snd,
                   stale := ls.any (fun e => s.mem.pen (e.1.gpa / 64) != a.pen), tweak := (va - base) / 64,
                   mat := if w.leaf.wct then material s a.die w.leaf.key else 0 }

/-- The blocks of a run of 4 KiB. -/
def streamBlocks (s : State) (a : Accessor) (base : Nat) : Nat → Nat → Except WFail (List WBlock)
  | 0, _ => .ok []
  | n + 1, va =>
    match streamBlock s a base va with
    | .error e => .error e
    | .ok b => match streamBlocks s a base n (va + 4096) with
      | .error e => .error e
      | .ok r => .ok (b :: r)

/-- Tile n of a descriptor's stream. -/
def streamTile (s : State) (a : Accessor) (d : BitVec 128) (n : Nat) : Except WFail (List WBlock) :=
  let size := tileBytes (wdFmt d)
  streamBlocks s a (wdBase d) (size / 4096) (wdBase d + n * size)

/-! ### Weight blocks from a slot (R85, R101, R385) -/

def shPen (h : BitVec 128) : Nat := field h 0 16
def shFmt (h : BitVec 128) : Nat := field h 62 4

/-- A slot's header as a reader sees it. -/
def Slot.header (x : Slot) (p : Pen) : BitVec 128 := if shPen x.hdr == p.toNat then x.hdr else 0

def Core.slot (c : Core) (n : Nat) : Slot := Table.get c.slots n .reset

/-- Block b of a slot, with key material as `mat` names it. -/
def slotBlock (mat : Nat → BitVec 512) (x : Slot) (p : Pen) (b : Nat) : WBlock :=
  let h := x.header p
  let wct := field h 61 1 == 1
  let n := if wct then field h (98 + 6 * b) 6 + 1 else 64
  let idx := (List.range n).map (fun i => 64 * b + i)
  { pen := p, wct := wct, key := field h 49 12, cmp := field h 46 3, lines := idx.map (fun i => x.mem.read p i),
    stale := idx.any (fun i => x.mem.pen i != p), tweak := field h 66 32 + 64 * b,
    mat := mat (field h 49 12) }

/-- The blocks of the slot, or the pair, of a tile step. -/
def slotTile (mat : Nat → BitVec 512) (s : State) (ck : Nat) (p : Pen) (w : MWord) (t : Nat) : List WBlock :=
  let n := if 2 ≤ w.mode.toNat then 2 else 1
  (List.range n).flatMap (fun h =>
    (List.range 4).map (slotBlock mat ((s.core ck).slot (w.wsrc.toNat % 8 + n * t + h)) p))

/-! ### The operand port (R384, R385) -/

/-- The 64 plain lines of a block as a reader sees it; none for a malformed image. -/
def plainBlock (p : Pen) (b : WBlock) : Option (List Line) :=
  if b.pen != p || (b.wct && b.stale) then some (List.replicate 64 0)
  else if !b.wct then some b.lines
  else decompress b.cmp b.lines.length (b.lines.zipIdx.map (fun (x, i) => xtsLine false b.mat (b.tweak + i) x))

/-- A weight tile's lines, or the number of the first block whose image is malformed. -/
def plainTile (p : Pen) : Nat → List WBlock → Except Nat (List Line)
  | _, [] => .ok []
  | n, b :: r => match plainBlock p b with
    | none => .error n
    | some x => match plainTile p (n + 1) r with
      | .error e => .error e
      | .ok y => .ok (x ++ y)

/-- The lines that the operand port delivers of a tile that has been checked: each of its blocks can be delivered. -/
def tileLines (p : Pen) (bs : List WBlock) : List Line := bs.flatMap (fun b => (plainBlock p b).getD [])

/-- The keys that the slots of a word name, each with its material. -/
def slotKeys (s : State) (ck die : Nat) (p : Pen) (w : MWord) : Table (BitVec 512) :=
  ((slotsOf w).map (fun n => field (((s.core ck).slot n).header p) 49 12)).foldl
    (fun l key => Table.put l key (material s die key)) []

/-- Every block of a slot-sourced word can be delivered: it cannot fault while it runs (R29, R325, R385). -/
def slotsPlain (mat : Nat → BitVec 512) (s : State) (ck : Nat) (p : Pen) (w : MWord) : Bool :=
  (List.range (w.kt.toNat + 1)).all (fun t => (slotTile mat s ck p w t).all (fun b => (plainBlock p b).isSome))

/-! ### The weight port's fetches (R102, R120, R121, R328) -/

/-- The pages a run of bytes touches. -/
def pagesIn (va n : Nat) : List Nat :=
  (List.range ((va + n - 1) / 65536 + 1 - va / 65536)).map (fun i => va / 65536 + i)

/-- The lines a port has read of a block, at their targets. -/
def meetBlock (a : Accessor) (s : State) (x : WBlock × Nat) : State :=
  (List.range x.1.lines.length).foldl (fun s i => afterAccess s a .read (x.2 + 64 * i) false) s

/-- What the fetch of tile n of a stream leaves besides its blocks: its pages in the port's stream TLB, and, of the words
tiles up to `last`, the translation of the next page; and what its reads meet at their targets. -/
def portReads (s : State) (ck : Nat) (c : Ctx) (a : Accessor) (d : BitVec 128) (n last : Nat) (bs : List WBlock) : State :=
  let size := tileBytes (wdFmt d)
  let va := wdBase d + n * size
  let s := (pagesIn va size).foldl (fun s pg => translate s (.port ck) c a (65536 * pg)) s
  let next := (va + size - 1) / 65536 + 1
  let s := if 65536 * next < wdBase d + (last + 1) * size then prefetch s (.port ck) c a .read (65536 * next) else s
  (bs.zipIdx.map (fun (b, i) => (b, va + 4096 * i))).foldl (meetBlock a) s

/-! ### The array (R65 to R67, R69) -/

/-- W as rows of 128 elements: W[k][j] lies at byte (128·k + j)·size (R327). -/
def weightRows (mode : Nat) (ls : List Line) : List (List Nat) := groups 128 128 (lineElems (modeSize mode) ls)

/-- The exact sums of one group, for every column: the first product, and the others added. -/
def groupSums : List (Val × List Val) → List Val
  | [] => []
  | (a, w) :: r => r.foldl (fun acc e => List.zipWith (fun x y => x.add (e.1.mul y) false) acc e.2) (w.map a.mul)

/-- One group added to an FP32 row. -/
def addGroup (row : List Nat) (g : List (Val × List Val)) : List Nat :=
  List.zipWith (fun x v => f32Add x (Fmt.f32.round .rne 0 false v)) row (groupSums g)

/-- A K-step on FP formats and D8: four groups of 32 products, in order (R65). -/
def kstepFp (t : ElTy) (row a : List Nat) (w : List (List Nat)) : List Nat :=
  let terms := List.zipWith (fun x r => (t.dec x, r.map t.dec)) a w
  (groups 32 4 terms).foldl addGroup row

/-- A K-step of INT8: exact sums, modulo 2^32 (R67). -/
def kstepInt (row a : List Nat) (w : List (List Nat)) : List Nat :=
  let sums := (List.zip a w).foldl (fun acc e =>
    List.zipWith (fun (x : Int) y => x + intOf 8 false e.1 * intOf 8 false y) acc e.2) (List.replicate 128 (0 : Int))
  List.zipWith (fun (x : Nat) (y : Int) => ((Int.ofNat x + y) % 4294967296).toNat) row sums

def rowNats (l : Lanes) : List Nat := l.toList.map BitVec.toNat
def rowLanes (l : List Nat) : Lanes := Vector.ofFn (fun i => BitVec.ofNat 32 (l.getD i.val 0))

/-- A row after a K-step. -/
def kstepRow (mode : Nat) (row : Lanes) (a : List Nat) (w : List (List Nat)) : Lanes :=
  rowLanes (if mode == 1 then kstepInt (rowNats row) a w else kstepFp (modeTy mode) (rowNats row) a w)

/-- One stage of the transform: neighbours h apart, added and subtracted. -/
def hadStage (x : List Nat) (h : Nat) : List Nat :=
  (List.range x.length).map (fun b =>
    if b / h % 2 == 0 then f32Add (x.getD b 0) (x.getD (b + h) 0) else f32Sub (x.getD (b - h) 0) (x.getD b 0))

/-- A row transformed in blocks of n = 16, 32 or 64 (R69). -/
def hadRow (mode n : Nat) (a : List Nat) : Lanes :=
  let t := modeTy mode
  let x := a.map (fun e => match t with
    | .d8 => d8ToF32 e
    | t => Fmt.f32.round .rne 0 false (t.dec e))
  rowLanes (([1, 2, 4, 8, 16, 32].filter (fun h => h < n)).foldl hadStage x)

end Sys2Proof.Machine
end

