-- ==== Sys2Proof/Machine/Matrix.lean ====
section
/-! DEFINITION. The M stream and the array unit (R319 to R332): issue, K-steps, rows, slot fills, the weight port, and the
control words. -/

namespace Sys2Proof.Machine

/-! ### Issue (R199, R319, R321, R322) -/

/-- The word at M's place is a stopped array word that issues again. -/
def Ctx.again (c : Ctx) : Bool := c.mnx.isSome
/-- K-steps or rows that a word issued now has already made (R322). -/
def Ctx.done (c : Ctx) : Nat := if c.again then c.mrs else 0

/-- Later words are held back until the running word can no longer fault (R29, R328). -/
def Ctx.holdsBack (c : Ctx) : Bool :=
  match c.run with
  | some r => !r.checked
  | none => false

/-- An M word: nothing under a stage guard that is 0; else its waits, the token check, and `go`. A word that issues
again has met its guard and taken its token. -/
def issueM (w : MWord) (array : Bool) (waits : State → Bool) (go : State → State) (s : State) : State :=
  let c := s.cur
  let p := s.pen
  if !c.again && w.grd != 0 && !c.loopM.g (w.grd.toNat % 4) then s.advance .m 24
  else if (!c.again && (match waitIdx 3 w.tkw with | none => false | some i => c.tokens p i == 0)) ||
      c.holdsBack || (array && c.run.isSome) || waits s then stall s
  else if (match postIdx 3 w.tkp with | none => false | some i => c.postFull p i) then s.fault .m fToken 0
  else go s

/-- The word takes its token. -/
def takeM (w : MWord) (s : State) : State :=
  match waitIdx 3 w.tkw with
  | none => s
  | some i => if s.cur.again then s else s.modCur (fun c => c.takeTok s.pen i)

/-- M moves past an array word. One that has issued again is followed by the word MNX names, and the stream stays ended there
where it had ended; by the next word where an ERET has found epcmn 0 (R322, R335; log entry 24). -/
def Ctx.pastArray (c : Ctx) : Ctx :=
  match c.mnx with
  | none => c.advance .m 24
  | some m =>
    let c := { c with mnx := none, mwd := none, mslot := false }
    match m with
    | none => c.advance .m 24
    | some a => if a.getLsbD 0 then { c with pcM := a - 1, idleM := true } else { c with pcM := a }

/-- An array word starts. -/
def startArray (w : MWord) (r : ArrayRun) (s : State) : State :=
  (takeM w s).modCur (fun c => { c.pastArray with run := some r, mrs := c.done })

/-- A word as it stands when it starts; `o` is the word at M's place, whose token and SQ govern. -/
def newRun (op : ArrayOp) (w o : MWord) (viaQ : Bool) (due : Nat) (s : State) : ArrayRun :=
  { op := op, w := w, addr := s.cur.pcM, viaQ := viaQ, sq := o.sq, post := o.tkp, due := due, staged := 0, wd := 0,
    checked := true, keys := [], fault := none, fresh := true, rows := [] }

/-! ### Tile-step words at issue (R325 to R327) -/

/-- An earlier MWLD into a slot the word names has not completed (R319). -/
def Ctx.slotsFilling (c : Ctx) (slots : List Nat) : Bool :=
  c.fills.any (fun f => slots.contains f.slot || (f.two && slots.contains (f.slot + 1)))

/-- A slot's current header names another format than MODE. -/
def wrongFormat (s : State) (w : MWord) (n : Nat) : Bool :=
  let h := ((s.core s.curCore).slot n).hdr
  shPen h == s.pen.toNat && shFmt h != w.mode.toNat

/-- The accumulator zeroed at the start of a word with ZI. -/
def zeroInit (w : MWord) (s : State) : State :=
  if s.cur.done == 0 && w.zi then
    s.modCur (fun c => { c with acc := c.acc.setIfInBounds w.acc.toNat (zeroRows s.pen) })
  else s

/-- An MMA, or an MMAQ that holds one. It has no fault after issue (R325): a stored image of its slots that is malformed raises
INTEGRITY at its issue, and its K-steps decode with the key material of that time (R29, R385; log entry 25). -/
def startMma (w o : MWord) (viaQ : Bool) (s : State) : State :=
  if (allTiles w).any (fun t => !ownsTile s t) then s.fault .m fPerm 0
  else if (slotsOf w).any (wrongFormat s w) then s.illegal .m
  else
    let keys := slotKeys s s.curCore s.cur.die s.pen w
    if !slotsPlain (fun n => Table.get keys n 0) s s.curCore s.pen w then s.fault .m fIntegrity 0
    else
      let r := newRun .mma w o viaQ (s.cycle + 6 + modeCycles w.mode.toNat) s
      startArray o { r with keys := keys } (zeroInit w s)

/-- An MMAW, or an MMAQ that holds one. -/
def startMmaw (w o : MWord) (viaQ : Bool) (s : State) : State :=
  let done := s.cur.done
  let d := (s.cur.wd.getD (w.wsrc.toNat % 4) .void).read s.pen
  if (allTiles w).any (fun t => !ownsTile s t) then s.fault .m fPerm 0
  else if !wdOk d done (stepsOf w) || wdFmt d != w.mode.toNat then s.illegal .m
  else
    let r := newRun .mmaw w o viaQ (s.cycle + 6 + modeCycles w.mode.toNat) s
    startArray o { r with staged := done / 128 * 128, wd := setField d 0 32 (wdPos d - done), checked := false }
      (zeroInit w s)

def execMma (w : MWord) (s : State) : Result :=
  .next (issueM w true (fun s => s.cur.slotsFilling (slotsOf w)) (startMma w w false) s)

def execMmaw (w : MWord) (s : State) : Result := .next (issueM w true (fun _ => false) (startMmaw w w false) s)

/-- The word an MMAQ performs: with MRS other than 0 the one it holds, else the head of fq (R326). -/
def queuedWord (c : Ctx) (p : Pen) : Option (BitVec 192) :=
  if c.done != 0 then c.mqw else (c.fq.head?).map (fun t => t.read p)

/-- The MMA or MMAW word in a queue entry, and whether it is an MMA. -/
def innerWord (x : BitVec 192) : Option (MWord × Bool) :=
  let ok := fun (w : MWord) => !w.sq && w.tkw == 0 && w.tkp == 0 && w.grd == 0
  match decodeBits .m x.toNat with
  | .ok (.mma w) => if ok w then some (w, true) else none
  | .ok (.mmaw w) => if ok w then some (w, false) else none
  | _ => none

/-- MMAQ waits for an entry, and for the fills of the slots its word names. -/
def mmaqWaits (s : State) : Bool :=
  match queuedWord s.cur s.pen with
  | none => true
  | some x => match innerWord x with
    | some (w, true) => s.cur.slotsFilling (slotsOf w)
    | _ => false

/-- The entry popped into MQW when MRS is 0, whether or not the word has issued before (R326). -/
def popQueued (s : State) : State :=
  if s.cur.done != 0 then s
  else s.modCur (fun c => { c with mqw := (c.fq.head?).map (fun t => t.read s.pen), fq := c.fq.drop 1 })

def startMmaq (o : MWord) (s : State) : State :=
  let s := popQueued s
  match s.cur.mqw.bind innerWord with
  | none => s.illegal .m
  | some (w, true) => startMma w o true s
  | some (w, false) => startMmaw w o true s

def execMmaq (w : MWord) (s : State) : Result := .next (issueM w true mmaqWaits (startMmaq w) s)

/-! ### Faults while the array runs (R323) -/

/-- A fault met by the running word: it stops at its boundary, once the other streams have issued in the cycle, and waits or
traps (R346). -/
def faultArray (r : ArrayRun) (code : Nat) (awaits : Bool) (addr : Nat) (s : State) : State :=
  s.modCur (fun c => { c with soft := c.soft ++ [⟨.m, .weight, code, addr, r.addr, awaits⟩] })

/-- The running word waits a cycle. -/
def delayRun (r : ArrayRun) (s : State) : State := s.modCur (fun c => { c with run := some { r with due := s.cycle + 1 } })

/-! ### K-steps (R327) -/

/-- The address of block b of a tile of a stream. -/
def blockVa (d : BitVec 128) (n b : Nat) : Nat := wdBase d + n * tileBytes (wdFmt d) + 4096 * b

/-- The tile of the stream for K-step p, by the descriptor as it stands (R327). -/
def ArrayRun.tileAt (r : ArrayRun) (p : Nat) : Nat := (wdPos r.wd + p) / 128

/-- The weights of tile step t: of the slots, or of the oldest tile in the staging ring. -/
def stepWeights (s : State) (r : ArrayRun) (t : Nat) : List Line :=
  tileLines s.pen (if r.op == .mma then slotTile (fun n => Table.get r.keys n 0) s s.curCore s.pen r.w t
    else (s.core s.curCore).staging.headD [])

/-- The context after K-step p of its word. -/
def Ctx.kstep (c : Ctx) (pen : Pen) (r : ArrayRun) (a : List Nat) (ls : List Line) (cycle : Nat) : Ctx :=
  let p := c.mrs
  let m := r.w.mode.toNat
  let row := kstepRow m (c.accRow pen r.w.acc (p % 128)) a (weightRows m ls)
  let c := c.setAccRow pen r.w.acc (p % 128) row
  let c := { c with mrs := p + 1, run := some { r with due := cycle + modeCycles m, fresh := false } }
  match r.wdn with
  | none => c
  | some n =>
    let d := (c.wd.getD n .void).read pen
    { c with wd := c.wd.setIfInBounds n ⟨pen, setField d 0 32 (wdPos d + 1)⟩ }

/-- Tiles consumed once the last row of the operand has been read (R99). -/
def consumeTiles (r : ArrayRun) (tiles : List Nat) (s : State) : State :=
  if r.w.con then tiles.foldl (fun s t => clearFull s s.curCore t) s else s

/-- The tile of the last K-step leaves the ring once its last row has been used. -/
def dropStaged (r : ArrayRun) (s : State) : State :=
  if r.op == .mmaw then s.modCore s.curCore (fun c => { c with staging := c.staging.drop 1 }) else s

/-- The stream's position as the descriptor gives it now, without the K-steps made: an MWLD of the same descriptor may have
moved it (R327, R330). -/
def ArrayRun.moved (r : ArrayRun) (c : Ctx) (pen : Pen) : Option Nat :=
  match r.wdn with
  | none => none
  | some n =>
    let pos := wdPos ((c.wd.getD n .void).read pen)
    if pos == wdPos r.wd + c.mrs || pos < c.mrs then none else some (pos - c.mrs)

/-- Tile n of a stream, where every check passes and every block of it can be delivered. -/
def soundTile (s : State) (d : BitVec 128) (n : Nat) : Option (List WBlock) :=
  match streamTile s (s.cur.accessor s) d n with
  | .error _ => none
  | .ok bs => if bs.all (fun b => (plainBlock s.pen b).isSome) then some bs else none

/-- The port starts anew at another tile: the tiles of the K-steps to come take the place of what it has staged. The word has
been checked and can no longer fault (R29): where one of the new tiles would fail, it goes on with those it has staged (log
entry 56). -/
def restage (r : ArrayRun) (base : Nat) (s : State) : State :=
  let r := { r with wd := setField r.wd 0 32 base, due := s.cycle + 1 }
  let tiles := (List.range (r.w.kt.toNat + 1 - s.cur.mrs / 128)).map (fun i => r.tileAt (s.cur.mrs / 128 * 128) + i)
  let s' := s.modCur (fun c => { c with run := some r })
  match tiles.mapM (soundTile s r.wd) with
  | none => s'
  | some l => (tiles.zip l).foldl (fun s (n, bs) => portReads s s.curCore s.cur (s.cur.accessor s) r.wd n n bs)
      (s'.modCore s.curCore (fun c => { c with staging := l }))

def kstep (r : ArrayRun) (s : State) : State :=
  let p := s.cur.mrs
  let tiles := stepTiles r.w (p / 128)
  if (p % 128 == 0 || r.fresh) && tiles.any (fun t => !(s.tile s.curCore t).full) then delayRun r s
  else match r.moved s.cur s.pen with
  | some base => restage r base s
  | none =>
    if r.op == .mmaw && r.staged ≤ p then
      match r.fault with
      | some f => faultArray r f.code f.awaits f.addr.toNat s
      | none => delayRun r s
    else
      let ls := stepWeights s r (p / 128)
      let a := aRow s s.curCore s.pen r.w.mode.toNat tiles (p % 128)
      let s := bankAccess s s.curCore (tiles.headD 0 % 16) reqM s.pen s.cur.vcn
      let s := s.modCur (fun c => c.kstep s.pen r a ls s.cycle)
      let s := if p % 128 == 127 then dropStaged r (consumeTiles r tiles s) else s
      if p + 1 == stepsOf r.w then s.modCur (fun c => c.finishRun s.pen r) else s

def execKstepCommit (s : State) : Result :=
  .next (match s.cur.run with
    | none => s
    | some r => if r.op == .mma || r.op == .mmaw then kstep r s else s)

/-! ### The weight port (R102, R328) -/

/-- The ring has room for the next tile. -/
def ringRoom (c : Ctx) (r : ArrayRun) : Bool :=
  (r.staged / 128 - c.mrs / 128 + 1) * (tileBytes (wdFmt r.wd) / 64) ≤ 2048

/-- The port stages the next tile of the running word, checking each page it fetches from. The checks end with the decode of
each block, so that a word whose last tile is staged can no longer fault (R29, R328, R385). -/
def stageTile (r : ArrayRun) (s : State) : State :=
  let c := s.cur
  let ck := s.curCore
  if r.op != .mmaw || r.checked || r.fault.isSome || !ringRoom c r then s
  else
    let a := c.accessor s
    let n := r.tileAt r.staged
    let hold := fun (code addr : Nat) (awaits : Bool) (s : State) =>
      s.modCur (fun c => { c with run := some { r with fault := some ⟨code, BitVec.ofNat 64 addr, awaits⟩ } })
    match streamTile s a r.wd n with
    | .error e =>
      if e.fail.code == fRemote then s.noAnswer s.focus.key (targetOf s a .read e.addr) e.addr
      else hold e.fail.code e.addr e.fail.awaits (afterAccess (translate s (.port ck) c a e.addr) a .read e.addr false)
    | .ok bs =>
      let s := portReads s ck c a r.wd n (r.tileAt (stepsOf r.w - 1)) bs
      match plainTile a.pen 0 bs with
      | .error b => hold fIntegrity (blockVa r.wd n b) false s
      | .ok _ =>
        let s := s.modCore ck (fun x => { x with staging := x.staging ++ [bs] })
        s.modCur (fun c => { c with run := some { r with staged := r.staged + 128, checked := r.staged + 128 == stepsOf r.w } })

def execWeightPortFetch (s : State) : Result :=
  .next (match s.cur.run with
    | none => s
    | some r => stageTile r s)

/-! ### MHAD (R329) -/

/-- The tiles of MHAD's operand. -/
def hadTiles (w : MWord) : List Nat := stepTiles w 0
def hadSize (w : MWord) : Nat := 8 * 2 ^ w.hsz.toNat

def startMhad (w : MWord) (s : State) : State :=
  if (hadTiles w).any (fun t => !ownsTile s t) then s.fault .m fPerm 0
  else startArray w (newRun .mhad w w false (s.cycle + 6 + modeCycles w.mode.toNat) s) s

def execMhad (w : MWord) (s : State) : Result := .next (issueM w true (fun _ => false) (startMhad w) s)

def hadStep (r : ArrayRun) (s : State) : State :=
  let i := s.cur.mrs
  let m := r.w.mode.toNat
  let tiles := hadTiles r.w
  if r.fresh && tiles.any (fun t => !(s.tile s.curCore t).full) then delayRun r s
  else
    let row := hadRow m (hadSize r.w) (aRow s s.curCore s.pen m tiles i)
    let s := bankAccess s s.curCore (tiles.headD 0 % 16) reqM s.pen s.cur.vcn
    let s := s.modCur (fun c => { c.setAccRow s.pen r.w.acc i row with
      mrs := i + 1, run := some { r with due := s.cycle + modeCycles m, fresh := false } })
    if i + 1 == 128 then (consumeTiles r tiles s).modCur (fun c => c.finishRun s.pen r) else s

def execMhadRowWrite (s : State) : Result :=
  .next (match s.cur.run with
    | none => s
    | some r => if r.op == .mhad then hadStep r s else s)

/-! ### MDRN and MZERO (R331, R332) -/

/-- The rounding code MDRN uses: rmode's under 111, where 101 and 111 round as 000 (R55, R68). -/
def drainRc (w : MWord) (rmode : Dword) : BitVec 3 :=
  if w.rc == 7 then
    let m := field rmode 0 3
    if m == 5 || m == 7 then 0 else BitVec.ofNat 3 m
  else w.rc

def startMdrn (w : MWord) (s : State) : State :=
  startArray w (newRun .mdrn { w with rc := drainRc w (s.cur.rmode.read s.pen) } w false s.cycle s) s

def execMdrn (w : MWord) (s : State) : Result := .next (issueM w true (fun _ => false) (startMdrn w) s)

/-- The oldest reserved row lands once it is due. -/
def Ctx.drainLand (c : Ctx) (p : Pen) (r : ArrayRun) (cycle : Nat) : Ctx × ArrayRun :=
  match r.rows with
  | [] => (c, r)
  | (j, due) :: rest => if due ≤ cycle then (c.landRow p r j, { r with rows := rest }) else (c, r)

/-- Room for the next row is reserved from the cycle after the start on, to land three cycles later: row j lands at
start + 4 + j unless a full queue delays it (R320). -/
def Ctx.drainReserve (c : Ctx) (r : ArrayRun) (cycle : Nat) : Ctx × ArrayRun :=
  if r.w.nrow.toNat < c.mrs || cycle < r.due then (c, r)
  else if 4 ≤ (c.dq.getD r.w.dq.toNat []).length + r.rows.length then (c, { r with due := cycle + 1 })
  else ({ c with mrs := c.mrs + 1 }, { r with due := cycle + 1, rows := r.rows ++ [(c.mrs, cycle + 3)] })

def Ctx.drainStep (c : Ctx) (p : Pen) (r : ArrayRun) (cycle : Nat) : Ctx :=
  let (c, r) := c.drainLand p r cycle
  let (c, r) := c.drainReserve r cycle
  if r.rows.isEmpty && c.mrs == r.w.nrow.toNat + 1 then c.finishRun p r else { c with run := some r }

def execMdrnRowLand (s : State) : Result :=
  .next (match s.cur.run with
    | none => s
    | some r => if r.op == .mdrn then s.modCur (fun c => c.drainStep s.pen r s.cycle) else s)

def execMzero (w : MWord) (s : State) : Result :=
  .next (issueM w true (fun _ => false) (fun s => startArray w (newRun .mzero w w false (s.cycle + 2) s) s) s)

def execMzeroEffect (s : State) : Result :=
  .next (match s.cur.run with
    | none => s
    | some r => if r.op == .mzero then s.modCur (fun c => c.zeroAcc s.pen r) else s)

/-! ### MWLD (R330) -/

/-- The lines of a block as its slot keeps them, with zeros beyond a shorter image. Those of a stored image that has a stale
line stand stale in the slot: the port delivers no byte of such a block (R385; log entry 26). -/
def slotLines (b : WBlock) : List (Option Line) :=
  if b.wct && b.stale then List.replicate 64 none
  else b.lines.map some ++ List.replicate (64 - b.lines.length) (some 0)

/-- The header of a slot filled with four blocks, from a first line at `ofs` (R101). -/
def slotHeader (fmt ofs : Nat) (p : Pen) (bs : List WBlock) : BitVec 128 :=
  let b0 : WBlock := bs.headD ⟨p, false, 0, 0, [], false, 0, 0⟩
  let lens := (bs.zipIdx.map (fun (b, i) => (b.lines.length - 1) * 64 ^ i)).foldl (fun x y => x + y) 0
  BitVec.ofNat 128 (2 ^ 98 * lens + 2 ^ 66 * (ofs % 4294967296) + 2 ^ 62 * fmt + 2 ^ 61 * b0.wct.toNat +
    2 ^ 49 * b0.key + 2 ^ 46 * b0.cmp + p.toNat)

/-- The running word reads a slot that this fill writes. -/
def Ctx.slotsRead (c : Ctx) (slots : List Nat) : Bool :=
  match c.run with
  | some r => r.op == .mma && (slotsOf r.w).any (fun n => slots.contains n)
  | none => false

def wdNamed (w : MWord) : Nat := w.pa.toNat / 2 ^ 126
def wdOfWord (w : MWord) (s : State) : BitVec 128 := (s.cur.wd.getD (wdNamed w) .void).read s.pen

def mwldSlots (w : MWord) (s : State) : List Nat :=
  let n := w.wsrc.toNat % 8
  if 2 ≤ wdFmt (wdOfWord w s) then [n, n + 1] else [n]

/-- A weight access of MWLD that fails before issue: MWLD waits at its word, or traps (R330). -/
def failFill (e : WFail) (s : State) : State :=
  let a := s.cur.accessor s
  if e.fail.code == fRemote then s.noAnswer s.focus.key (targetOf s a .read e.addr) e.addr
  else
    let s := afterAccess (translate s (.port s.curCore) s.cur a e.addr) a .read e.addr false
    if e.fail.awaits then s.modCur (fun c => { c with soft := c.soft ++ [⟨.m, .weight, e.fail.code, e.addr, c.pcM, true⟩] })
    else s.fault .m e.fail.code e.addr

def startMwld (w : MWord) (s : State) : State :=
  let d := wdOfWord w s
  let fmt := wdFmt d
  let slot := w.wsrc.toNat % 8
  let two := 2 ≤ fmt
  let n := wdPos d / 128
  if !wdOk d 0 128 || (two && slot % 2 == 1) then s.illegal .m
  else match streamTile s (s.cur.accessor s) d n with
    | .error e => failFill e s
    | .ok bs =>
      let s := portReads s s.curCore s.cur (s.cur.accessor s) d n n bs
      let ofs := n * tileBytes fmt / 64
      let f : SlotFill :=
        { due := s.cycle + (if two then 128 else 64), slot := slot, wd := wdNamed w, two := two,
          lines := bs.flatMap slotLines, hdr0 := slotHeader fmt ofs s.pen (bs.take 4),
          hdr1 := slotHeader fmt (ofs + 256) s.pen (bs.drop 4), pen := s.pen, post := w.tkp }
      ((takeM w s).modCur (fun c =>
        { c with fills := c.fills ++ [f],
                 wd := c.wd.setIfInBounds (wdNamed w) ⟨s.pen, setField d 0 32 (wdPos d + 128)⟩ })).advance .m 24

def execMwld (w : MWord) (s : State) : Result :=
  .next (issueM w false (fun s => s.cur.slotsRead (mwldSlots w s)) (startMwld w) s)

/-- The fill that is due takes effect. -/
def fillDue (s : State) : State :=
  match s.cur.fills.find? (fun f => f.due ≤ s.cycle) with
  | none => s
  | some f => landFill (s.modCur (fun c => { c with fills := c.fills.erase f })) s.focus.key f

def execMwldSlotWrite (s : State) : Result := .next (fillDue s)

/-! ### Control (R321, R332) -/

/-- A squashable array word that has not completed is killed by a taken branch. -/
def Ctx.killArray (c : Ctx) : Ctx :=
  match c.run with
  | some r => if r.sq then { c with run := none, mrs := 0, mqw := none } else c
  | none => c

/-- A word without effects after issue: its token taken and posted. -/
def passM (w : MWord) (s : State) : State :=
  let s := takeM w s
  s.modCur (fun c => c.postM s.pen w.tkp)

def targetM (w : MWord) (s : State) : Dword := dispTo s.cur.pcM (BitVec.ofNat 16 (w.pa.toNat / 2 ^ 112)) 24

/-- The branch's effect on the array: with the word it kills goes what the weight port has staged for it (R102, R321). -/
def killRun (s : State) : State :=
  match s.cur.run with
  | some r => if r.sq then (s.modCore s.curCore (fun c => { c with staging := [] })).modCur Ctx.killArray else s
  | none => s

def takeBranchM (w : MWord) (s : State) : State := (killRun (passM w s)).jump .m (targetM w s)

def mbrM (w : MWord) (s : State) : State :=
  match s.cur.bqSM with
  | [] => s
  | x :: r =>
    let s' := s.modCur (fun c => { c with bqSM := r })
    if x.read s.pen == 1 then takeBranchM w s' else (passM w s').advance .m 24

def execMbr (w : MWord) (s : State) : Result := .next (issueM w false (fun s => s.cur.bqSM.isEmpty) (mbrM w) s)

/-- MJMP; with displacement 0 the stream ends where it stands (R228). -/
def mjmpM (w : MWord) (s : State) : State :=
  if w.pa.toNat / 2 ^ 112 == 0 then (passM w s).modCur (fun c => { c with idleM := true }) else takeBranchM w s

def execMjmp (w : MWord) (s : State) : Result := .next (issueM w false (fun _ => false) (mjmpM w) s)

def mloopM (w : MWord) (s : State) : State :=
  let pa := w.pa.toNat
  (passM w s).modCur (fun c =>
    c.startLoop s.pen .m (BitVec.ofNat 32 (pa / 2 ^ 96)) (pa / 2 ^ 94 % 4 + 1) (pa / 2 ^ 80 % 16384))

/-- MLOOP. In the body of an active loop it is a decode check that fails, before its guard and its waits (R199, R332); a word
that may still fault holds it back as it holds every later word (R29). -/
def execMloop (w : MWord) (s : State) : Result :=
  .next (if s.cur.loopM.act && !s.cur.holdsBack then s.illegal .m else issueM w false (fun _ => false) (mloopM w) s)

def execMnop (w : MWord) (s : State) : Result :=
  .next (issueM w false (fun _ => false) (fun s => (passM w s).advance .m 24) s)

end Sys2Proof.Machine
end

