-- ==== Sys2Proof/Machine/Preempt.lean ====
section
/-! DEFINITION. Pre-emption by VI 0 (R349 to R352): PREEMPT, RELEASE and CANCEL. -/

namespace Sys2Proof.Machine

/-! ### Targets (R349) -/

/-- A context is named by VI and virtual core, 0xFFFF meaning all. -/
def Ctx.namedBy (c : Ctx) (p vi : Nat) (vcn : BitVec 16) : Bool := c.isOf p vi && (vcn == 0xFFFF || c.vcn == vcn)

/-- Numbers of the contexts a request targets. With G they include every member of their groups, taken once. -/
def preTargets (s : State) (p vi : Nat) (vcn : BitVec 16) (g : Bool) : List Nat :=
  let ids := (s.ctxs.filter (fun e => e.2.namedBy p vi vcn)).map (fun e => e.2.id)
  if !g then ids
  else
    let gs := s.groups.filter (fun x => x.members.any (fun m => ids.contains m.ctx))
    (s.ctxs.filter (fun e => e.2.isOf p vi && (ids.contains e.2.id ||
      gs.any (fun x => x.members.any (fun m => m.ctx == e.2.id))))).map (fun e => e.2.id)

/-- The virtual cores a request names. -/
def preCores (s : State) (p vi : Nat) (vcn : BitVec 16) : List Nat :=
  if vcn == 0xFFFF then List.range (viVcores ((s.pkg p).vi vi)) else [vcn.toNat]

/-- PSTAT: COUNT, DONE, HALTED and BUSY. -/
def pstatWord (count : Nat) (done halted busy : Bool) : Dword :=
  BitVec.ofNat 64 (4294967296 * count + 4 * done.toNat + 2 * halted.toNat + busy.toNat)

def pstatBusy (x : Dword) : Bool := x.getLsbD 0
def pstatCount (x : Dword) : Nat := field x 32 32

/-- PREQ: OP, VI, VCN and G. -/
def preqWord (op : Nat) (vi : BitVec 8) (vcn : BitVec 16) (g : Bool) : Dword :=
  BitVec.ofNat 8 op ++ vi ++ vcn ++ (BitVec.ofNat 32 g.toNat)

/-! ### PREEMPT (R350, R351) -/

/-- A context halted and saved with HELD set, or marked HELD in its slot; whether it could be. -/
def preemptOne (s : State) (k : Nat) : Bool × State :=
  let c := s.ctx k
  if isSlot k then (true, s.modCtx k (fun c => { c with held := true }))
  else if c.committing then (false, s)
  else
    let n := viVcores (s.ctxVi c)
    match freeSlot s c.pkg c.vi.toNat (2 * n) (4 * n) with
    | none => (false, s)
    | some slot => (true, saveContext s k slot true)

/-- Every context that can be saved is; the others stay in the list. -/
def preemptAll (s : State) : List Nat → List Nat × State
  | [] => ([], s)
  | id :: r => match s.keyOfId id with
    | none => preemptAll s r
    | some k => match preemptOne s k with
      | (true, s) => preemptAll s r
      | (false, s) =>
        let (l, s) := preemptAll s r
        (id :: l, s)

/-- One context ended, wherever it stands, unless a commit of it has begun. -/
def cancelOne (s : State) (id : Nat) : State :=
  match s.keyOfId id with
  | none => s
  | some k => if (s.ctx k).committing then s else contextEnd k 2 s

/-- The contexts of a list that exist and stand in a commit that has begun. -/
def stillCommitting (s : State) (l : List Nat) : List Nat :=
  l.filter (fun id => match s.keyOfId id with | some k => (s.ctx k).committing | none => false)

/-- A PREEMPT or a CANCEL goes on; PSTAT shows whether every context is halted, and whether it has completed. -/
def preemptGoOn (s : State) (p : Nat) : State :=
  if (s.pkg p).preq.isEmpty && (s.pkg p).cancelq.isEmpty then s
  else
    let (l, s) := preemptAll s (s.pkg p).preq
    let x := stillCommitting s (s.pkg p).cancelq
    let s := (s.pkg p).cancelq.foldl cancelOne s
    let rest := l ++ x
    s.modPkg p (fun k =>
      { k with preq := l, cancelq := x,
               pstat := pstatWord (pstatCount k.pstat) rest.isEmpty (stillCommitting s rest).isEmpty (!rest.isEmpty) })

/-- A breakpoint is to halt the context (R401). -/
def Ctx.haltDue (c : Ctx) : Bool :=
  c.dueTrap.isNone && (match c.dueStop with | some x => x.halt | none => false)

/-- A context that a breakpoint halts is saved with HELD set, once no commit of it has begun and a slot is free, as
PREEMPT does (R350, R401). -/
def haltStop (s : State) (k : Nat) : State :=
  match preemptOne (s.modCtx k Ctx.takeStop) k with
  | (true, t) => t
  | (false, _) => s

def haltStops (s : State) : State :=
  (s.ctxs.filter (fun e => !isSlot e.1 && e.2.status != .empty && e.2.haltDue)).foldl (fun s e => haltStop s e.1) s

/-- A context awaits its halt by a PREEMPT or a breakpoint, or its end by a CANCEL: it issues only to finish a commit that
has begun. -/
def awaitsHalt (s : State) (c : Ctx) : Bool :=
  ((s.pkg c.pkg).preq.contains c.id || (s.pkg c.pkg).cancelq.contains c.id || c.haltDue) && !c.committing

/-- Requests that are ignored: those that name VI 0, and all while one runs. -/
def preIgnored (s : State) (p : Nat) (vi : BitVec 8) : Bool := vi == 0 || pstatBusy (s.pkg p).pstat

def preempt (p : Nat) (vi : BitVec 8) (vcn : BitVec 16) (g : Bool) (s : State) : State :=
  if preIgnored s p vi then s
  else
    let ids := preTargets s p vi.toNat vcn g
    let cores := preCores s p vi.toNat vcn
    let s := s.modPkg p (fun k =>
      { k with stopped := cores.foldl (fun t v => Table.put t (65536 * vi.toNat + v) ()) k.stopped, preq := ids, preqReg := preqWord 1 vi vcn g,
               pstat := pstatWord ids.length true true false })
    preemptGoOn s p

def execPreempt (p : Nat) (vi : BitVec 8) (vcn : BitVec 16) (g : Bool) (s : State) : Result := .next (preempt p vi vcn g s)

/-! ### RELEASE and CANCEL (R350) -/

def release_ (p : Nat) (vi : BitVec 8) (vcn : BitVec 16) (g : Bool) (s : State) : State :=
  if preIgnored s p vi then s
  else
    let ids := preTargets s p vi.toNat vcn g
    let cores := preCores s p vi.toNat vcn
    let s := { s with ctxs := Table.mapIf s.ctxs (fun _ c => ids.contains c.id) (fun (c : Ctx) => { c with held := false }) }
    s.modPkg p (fun k =>
      { k with stopped := cores.foldl (fun t v => Table.drop t (65536 * vi.toNat + v)) k.stopped,
               preqReg := preqWord 2 vi vcn g, pstat := pstatWord ids.length true false false })

def execRelease (p : Nat) (vi : BitVec 8) (vcn : BitVec 16) (g : Bool) (s : State) : Result := .next (release_ p vi vcn g s)

def cancel (p : Nat) (vi : BitVec 8) (vcn : BitVec 16) (g : Bool) (s : State) : State :=
  if preIgnored s p vi then s
  else
    let ids := preTargets s p vi.toNat vcn g
    preemptGoOn (s.modPkg p (fun k =>
      { k with cancelq := ids, preqReg := preqWord 3 vi vcn g, pstat := pstatWord ids.length true true false })) p

def execCancel (p : Nat) (vi : BitVec 8) (vcn : BitVec 16) (g : Bool) (s : State) : Result := .next (cancel p vi vcn g s)

end Sys2Proof.Machine
end

