-- ==== Sys2Proof/Machine/Profile.lean ====
section
/-! DEFINITION. Counter bank sets and trace units (R193 to R195, R396 to R401): their registers, the records they write, the
events they count, and loop breakpoints. -/

namespace Sys2Proof.Machine

/-! ### What a function accepts (R359, R409, R410) -/

/-- STAGE (R410): the ROM, the image that runs, memory trained, the links trained, and READY once the secret is there; RECOVERY
where neither image verifies. Each step of bring-up takes one cycle from cold reset on (DESIGN CHOICE, log entry 13). -/
def State.stage (s : State) (p : Nat) : Nat :=
  let k := s.pkg p
  let t := s.cycle - k.born
  if t == 0 then 0
  else if !k.images.1 && !k.images.2 then 15
  else if t < 3 then t
  else if k.secret.isSome then 4 else 3

/-- The functions of a package are absent before memory has been trained and in recovery, but for BOOTSTAT and the mailbox of the
physical function; of one that has halted there is nothing (R410, R413; log entry 13). -/
def State.absent (s : State) (p : Nat) : Bool := (s.pkg p).halted || s.stage p < 3 || s.stage p == 15

/-- An access to BAR0 is rejected in ERROR, and where the function is absent. -/
def State.rejects0 (s : State) (p vi : Nat) : Bool := s.absent p || Table.get (s.pkg p).tdisp vi .unlocked == .error

/-- Between steps 1 and 6 of a function-level reset, host writes are discarded without counting (R359). -/
def Pkg.resetting (k : Pkg) (vi : Nat) : Bool := k.flrPending.contains vi

/-! ### Copies (R193, R398) -/

/-- Records a ring holds. -/
def TraceCopy.capacity (t : TraceCopy) : Nat := 2 ^ (field t.tcap 0 5)
def TraceCopy.ringOk (t : TraceCopy) : Bool :=
  t.tbase.toNat % 4096 == 0 && t.tbase.toNat < 4503599627370496 && 7 ≤ field t.tcap 0 5 && field t.tcap 0 5 ≤ 20

/-! ### Writes of registers, by offset within a copy (R197, R398, R401) -/

/-- The reserved bits of a breakpoint's control word read zero; HALT is reserved in a guest copy. -/
def bpMask (hyp : Bool) (v : Dword) : Dword := v &&& (if hyp then 0xF0000001FFFFFFFF else 0xE0000001FFFFFFFF)

/-- TCTL: ignored with TEN = 1 while the ring is out of range. -/
def TraceCopy.writeCtl (t : TraceCopy) (v : Dword) : TraceCopy :=
  if tcTen v && !t.ringOk then t else { t with tctl := v &&& 0x8000F01F }

/-- TRPTR: ignored outside TRPTR to TWPTR. -/
def TraceCopy.writeRptr (t : TraceCopy) (v : Word) : TraceCopy :=
  if span32 v.toNat t.trptr.toNat ≤ span32 t.twptr.toNat t.trptr.toNat then { t with trptr := v } else t

def TraceCopy.write (hyp : Bool) (reg : Nat) (v : Dword) (t : TraceCopy) : TraceCopy :=
  match reg with
  | 0x400 => if v.setWidth 32 == (0 : Word) then { t with tdelay := 0 } else t
  | 0x404 => if v.setWidth 32 == (0 : Word) then { t with tlost := 0 } else t
  | 0x500 => t.writeCtl v
  | 0x508 => { t with tbase := v }
  | 0x510 => { t with tcap := v &&& 31 }
  | 0x520 => t.writeRptr (v.setWidth 32)
  | 0x540 => { t with bpAddr0 := v }
  | 0x548 => { t with bpCtl0 := bpMask hyp v }
  | 0x550 => { t with bpAddr1 := v }
  | 0x558 => { t with bpCtl1 := bpMask hyp v }
  | _ => t

def CountCopy.write (reg : Nat) (v : Dword) (x : CountCopy) : CountCopy :=
  match reg with
  | 0x000 => { x with cfg := setField x.cfg 0 48 (v &&& 0xFFFF80000000).toNat }
  | 0x008 => { x with sel := v }
  | _ => x

/-- A guest register takes its value. -/
def Cluster.applyGuest (c : Cluster) (e : Nat × Dword) : Cluster :=
  if e.1 < 0x400 then { c with guest := c.guest.write e.1 e.2 } else { c with traceGuest := c.traceGuest.write false e.1 e.2 }

/-- Guest writes kept during a seizure take effect at its end (R194). -/
def Cluster.releaseGuest (c : Cluster) : Cluster :=
  let now := c.pending.filter (fun e => if e.1 < 0x400 then !c.seized else !c.traceSeized)
  let later := c.pending.filter (fun e => if e.1 < 0x400 then c.seized else c.traceSeized)
  now.foldl Cluster.applyGuest { c with pending := later }

/-- A guest copy that carries another pennant is at its reset values for the writer, whose pennant it takes (R194). -/
def Cluster.retag (c : Cluster) (pen : Pen) : Cluster :=
  if ccPen c.guest.cfg == pen then c
  else { c with guest := { CountCopy.reset with cfg := setField (0 : Dword) 48 16 pen.toNat }, traceGuest := .reset, pending := [] }

/-- A write to the guest copy by the VI it is granted to. -/
def Cluster.writeGuest (c : Cluster) (pen : Pen) (reg : Nat) (v : Dword) : Cluster :=
  let c := c.retag pen
  if (if reg < 0x400 then c.seized else c.traceSeized) then { c with pending := c.pending ++ [(reg, v)] }
  else c.applyGuest (reg, v)

/-- The hypervisor copy's configuration: another GVI sets the guest copy to its reset values. -/
def Cluster.writeConfig (c : Cluster) (v : Dword) : Cluster :=
  let c := if ccGvi v == c.gvi then c else { c with guest := .reset, traceGuest := .reset, pending := [] }
  { c with hyp := { c.hyp with cfg := v &&& 0x0000FFFF800000FF } }.releaseGuest

/-- A write to the hypervisor copy. -/
def Cluster.writeHyp (c : Cluster) (reg : Nat) (v : Dword) : Cluster :=
  if reg == 0 then c.writeConfig v
  else if reg < 0x400 then { c with hyp := c.hyp.write reg v }
  else { c with traceHyp := c.traceHyp.write true reg v }.releaseGuest

/-- A register write by the function of a VI: VI 0 writes hypervisor copies, the granted VI guest copies. -/
def profileWrite (s : State) (dn cl : Nat) (hyp : Bool) (vi : BitVec 8) (reg : Nat) (v : Dword) : State :=
  let c := s.cluster dn cl
  if 16 ≤ cl then s
  else if hyp then (if vi == 0 then s.setCluster dn cl (c.writeHyp reg v) else s)
  else if vi != 0 && c.gvi == vi.toNat then s.setCluster dn cl (c.writeGuest (s.penOf (pkgOf dn) vi.toNat) reg v)
  else s

/-- The same as the host's access to BAR0, which the function may reject. -/
def hostProfileWrite (s : State) (dn cl : Nat) (hyp : Bool) (vi : BitVec 8) (reg : Nat) (v : Dword) : State :=
  let p := pkgOf dn
  if s.rejects0 p vi.toNat || (s.pkg p).resetting vi.toNat then s else profileWrite s dn cl hyp vi reg v

def execCounterConfigWrite (dn cl : Nat) (hyp : Bool) (vi : BitVec 8) (v : Dword) (s : State) : Result :=
  .next (hostProfileWrite s dn cl hyp vi 0x000 v)
def execTraceCounterClear (dn cl : Nat) (hyp : Bool) (vi : BitVec 8) (lost : Bool) (v : Word) (s : State) : Result :=
  .next (hostProfileWrite s dn cl hyp vi (if lost then 0x404 else 0x400) (v.setWidth 64))
def execTctlWrite (dn cl : Nat) (hyp : Bool) (vi : BitVec 8) (v : Dword) (s : State) : Result :=
  .next (hostProfileWrite s dn cl hyp vi 0x500 v)
def execTrptrWrite (dn cl : Nat) (hyp : Bool) (vi : BitVec 8) (v : Word) (s : State) : Result :=
  .next (hostProfileWrite s dn cl hyp vi 0x520 (v.setWidth 64))

/-! ### The ring (R399) -/

/-- A write that fails drops the queue, counting each record. -/
def TraceCopy.failWrite (t : TraceCopy) : TraceCopy :=
  { t with terr := true, tctl := t.tctl &&& 0xFFFFFFFF7FFFFFFF, queue := [],
           tlost := t.queue.foldl (fun n _ => satInc n) t.tlost }

/-- The accessor of a copy's ring writes. -/
def ringAccessor (s : State) (dn : Nat) (c : Cluster) (hyp : Bool) : Accessor :=
  if hyp then ⟨dn, 0, s.penOf (pkgOf dn) 0⟩ else ⟨dn, c.gvi, ccPen c.guest.cfg⟩

/-- A late write of a copy whose tenancy has been shut, to its own die (R191). -/
def lateWrite (s : State) (a : Accessor) (va : Nat) : State :=
  match checkSource s a Need.write va with
  | .error _ => s
  | .ok w => if dieOfGpa w.gpa == a.die && penRefused s a.pen w.gpa then s.count a.die Counters.incDropPen else s

/-- The oldest queued record reaches the ring. One that a TBASE moved under TEN = 1 leaves unaligned fails as an access of
R125 step 1 does (log entry 41). One whose line is at another die goes there by a request, and waits in the queue while no response
can come or the window is full, so that TWPTR does not advance (R373, R399; DESIGN CHOICE, log entry 78). -/
def ringWrite (s : State) (a : Accessor) (t : TraceCopy) : TraceCopy × State :=
  match t.queue with
  | [] => (t, s)
  | r :: rest =>
    if span32 t.twptr.toNat t.trptr.toNat == t.capacity then ({ t with queue := rest, tlost := satInc t.tlost }, s)
    else
      let va := t.tbase.toNat + 32 * (t.twptr.toNat % t.capacity)
      if va % 32 != 0 then (t.failWrite, s)
      else
      let dst := targetOf s a Need.write va
      if (roundTrip s a.die dst).isSome || (dst != a.die && !s.room a.die dst) then (t, s)
      else
      let s := lateWrite (afterAccess s a Need.write va false) a va
      let s := if dst == a.die then s else exchangeDies s a.die dst
      match homeWrite s a Need.write va (maskRange (va % 64) 32) (BitVec.ofNat 512 (r.toNat * 2 ^ (8 * (va % 64)))) with
      | .ok s => ({ t with queue := rest, twptr := t.twptr + 1 }, s)
      | .error _ => (t.failWrite, s)

/-- A copy's oldest record leaves its queue; a seized guest copy's waits (R194, R195). -/
def traceRecordWrite (dn cl : Nat) (hyp : Bool) (s : State) : State :=
  let c := s.cluster dn cl
  if (s.die dn).clusters.isEmpty || (!hyp && c.traceSeized) then s
  else
    let (t, s) := ringWrite s (ringAccessor s dn c hyp) (if hyp then c.traceHyp else c.traceGuest)
    s.setCluster dn cl (if hyp then { c with traceHyp := t }.releaseGuest else { c with traceGuest := t })

def execTraceRecordWrite (dn cl : Nat) (hyp : Bool) (s : State) : Result := .next (traceRecordWrite dn cl hyp s)

/-- The matrix goes to the snapshot area at the exit of a loop of the configured core (R194). -/
def CountCopy.snapshot (x : CountCopy) : CountCopy := { x with snap := x.matrix }
def snapMatrix (s : State) (c : Ctx) : State :=
  match clusterOfCtx s c with
  | none => s
  | some (cl, x) =>
    let y := if x.hypSees c then { x with hyp := x.hyp.snapshot } else x
    s.setCluster c.die cl (if x.guestSees s c then { y with guest := x.guest.snapshot } else y)

/-! ### Loops (R396, R401) -/

/-- Whether breakpoint (a, ctl) stops a loop of a stream that has come to a pass. -/
def bpHits (a ctl : Dword) (st : Stream) (l : Loop) : Bool :=
  ctl.getLsbD 63 && field ctl 61 2 == st.code && a == l.start && field ctl 0 33 == l.p.toNat

/-- A copy's breakpoint that stops there: whether it halts. -/
def TraceCopy.stops (t : TraceCopy) (st : Stream) (l : Loop) : Option Bool :=
  if !tcTen t.tctl then none
  else if bpHits t.bpAddr0 t.bpCtl0 st l then some (t.bpCtl0.getLsbD 60)
  else if bpHits t.bpAddr1 t.bpCtl1 st l then some (t.bpCtl1.getLsbD 60)
  else none

/-- A breakpoint that a loop has come to: the STOP record of the copy whose it is, and the stop, which the context takes
before the stream issues the first word of the pass (R401; log entry 41). -/
def stopAt (s : State) (k : Nat) (st : Stream) (l : Loop) : State :=
  let c := s.ctx k
  match clusterOfCtx s c with
  | none => s
  | some (_, x) =>
    let h := if x.hypSees c then x.traceHyp.stops st l else none
    let g := if x.guestSees s c && !x.traceSeized then x.traceGuest.stops st l else none
    if h.isNone && g.isNone then s
    else
      let s := traceTo h.isSome g.isSome s c (loopRec s c st 3 0 l.start l l.p.toNat l.gbits)
      s.modCtx k (fun c => { c with stops := c.stops ++ [⟨st, l.start, h == some true⟩] })

/-- The loop that a loop word with N = 0 names: its START and stages, by which its two records name it (R396). -/
def emptyLoop (c : Ctx) (st : Stream) (i : Instr) : Loop :=
  let stages := match i with
    | .loop _ g _ => g.toNat + 1
    | .aloop _ g _ => g.toNat + 1
    | .vloop w => w.pa.toNat / 2048 + 1
    | .mloop w => w.pa.toNat / 2 ^ 94 % 4 + 1
    | _ => 1
  { Loop.off with s := BitVec.ofNat 3 stages, start := c.pc st + BitVec.ofNat 64 st.wordBytes }

/-- What a stream's word did to its hardware loop, from l0 to l: records, the snapshot of an exit, and breakpoints of a context
that is still there. `enters`: the word was a loop instruction, and the loop it named if N was 0. -/
def observeLoop (s : State) (c : Ctx) (st : Stream) (l0 l : Loop) (enters : Option Loop) : State :=
  let stop := fun (s : State) => match s.keyOfId c.id with
    | some k => stopAt s k st l
    | none => s
  match enters with
  | some e =>
    if l.act && l.p == 0 then stop (traceEvent s c (loopRec s c st 0 0 l.start l 0 l.gbits))
    else
      let s := traceEvent s c (loopRec s c st 0 0 e.start e 0 0)
      snapMatrix (traceEvent s c (loopRec s c st 2 0 e.start e 0 0)) c
  | none =>
  if l0.act && !l.act then snapMatrix (traceEvent s c (loopRec s c st 2 0 l0.start l0 (l0.p.toNat + 1) 0)) c
  else if l0.act && l.act && l.p != l0.p then stop (traceEvent s c (loopRec s c st 1 0 l.start l l.p.toNat l.gbits))
  else s

/-! ### What an issued word did -/

def isLoop : Instr → Bool
  | .loop _ _ _ => true
  | .aloop _ _ _ => true
  | .vloop _ => true
  | .mloop _ => true
  | _ => false

/-- Branches that do not wait: one of them to its own address has issued, where any other word has not. -/
def isJump : Instr → Bool
  | .beq _ _ _ | .bne _ _ _ | .blt _ _ _ | .bge _ _ _ | .bltu _ _ _ | .bgeu _ _ _ | .j _ | .jal _ | .jr _ | .jalr _ _ => true
  | .abrEq _ _ _ | .abrNe _ _ _ | .abrLt _ _ _ | .abrGe _ _ _ | .abrLtu _ _ _ | .abrGeu _ _ _ | .ajmp _ => true
  | _ => false

def isToken : Instr → Bool
  | .tokw _ => true
  | .tokwA _ => true
  | _ => false

/-- A words that move entries between the scratchpad and the data queues. -/
def isQueueMove : Instr → Bool
  | .ldv _ _ _ _ | .ldvs _ _ _ _ _ | .ldvg _ _ _ _ _ | .stv _ _ _ | .stvs _ _ _ _ | .stvg _ _ _ _ => true
  | _ => false

/-- The TKW field of a V or M word. -/
def tkwOf (st : Stream) (raw : Nat) : BitVec 3 :=
  match decodeBits st raw with
  | .ok (.mma w) | .ok (.mmaw w) | .ok (.mmaq w) | .ok (.mhad w) | .ok (.mwld w) | .ok (.mdrn w) | .ok (.mzero w) => w.tkw
  | _ => if st == .v then (VWord.ofFields (unpack VWord.widths raw)).tkw else 0

/-- What a stalled word waits for, as far as it is counted: a token or a data queue. -/
def stallEvent (c : Ctx) (p : Pen) (st : Stream) (raw : Nat) (i : Instr) : Option Nat :=
  let token := match waitIdx st.code (tkwOf st raw) with
    | some q => c.tokens p q == 0
    | none => false
  match st, i with
  | .s, _ => if isToken i then some evTokenStall else none
  | .a, _ => if isToken i then some evTokenStall else if isQueueMove i then some evQueueStall else none
  | .v, .vbr _ => if token then some evTokenStall else none
  | .v, .vbqsnd _ => if token then some evTokenStall else none
  | .v, _ => some (if token then evTokenStall else evQueueStall)
  | .m, .mmaq _ => if token then some evTokenStall else if (queuedWord c p).isNone then some evQueueStall else none
  | .m, _ => if token then some evTokenStall else none

/-- MDRN's next row is due, and its data queue has no room for it. -/
def drainStalls (before after : State) : Bool :=
  match before.cur.run with
  | some r => r.op == .mdrn && r.due ≤ before.cycle && before.cur.mrs ≤ r.w.nrow.toNat && after.cur.mrs == before.cur.mrs &&
      after.cur.run.isSome
  | none => false

/-- The status of a FULFIL or an ABANDON. -/
def settleStatus (s : State) (a b : Reg) (value : Option Dword) : Dword :=
  match s.cur.readRunS s.pen a.toNat 3 with
  | [n0, n1, n2] => (match s.cur.makerOf n0 n1 n2 (s.rS b) with
    | none => statusNotMaker
    | some m => if hasClaims (s.ctxVi s.cur) then (settleAt s s.focus.key m value).1 else statusNotMaker)
  | _ => 0

/-- What the home controller answered to an operation that another die performed before its response came (R423). -/
def heardAnswer (before after : State) : Option Answer :=
  match before.cur.lost with
  | some l => if (after.ctx before.focus.key).lost.isNone then l.answer else none
  | none => none

/-- The status of a JOIN. -/
def joinStatus (s : State) (a b : Reg) : Dword :=
  let addr := s.rS a
  match checkSource s (s.cur.accessor s) Need.both addr.toNat with
  | .error _ => 0
  | .ok w => (joinHome s.focus.key addr (s.rS b) w s).1.word 0

/-- The outcome of a word that has retired, of those R400 lists: subtype and INFO. -/
def orderOf (before after : State) (i : Instr) : Option (Nat × Dword) :=
  let k := before.focus.key
  let c := before.cur
  let v := before.ctxVi c
  let claims := hasClaims v
  let heard := heardAnswer before after
  let or := fun (x : Dword) => match heard with | some a => a.word 0 | none => x
  match i with
  | .doorw _ a =>
    let n := (before.rS a).toNat
    let seq := match c.inside, heard with
      | .message _ q, _ => q
      | _, some a => (a.word 8).toNat
      | _, none => doorSeq before c.pkg c.vi.toNat (viDfirst v + n)
    some (2, BitVec.ofNat 64 (4294967296 * n + seq))
  | .claim _ a b e => some (3, if claims then or (claimAt before k (before.rS a) (before.rS b) (before.rS e)).1 else statusFull)
  | .clpark a b e => some (3, if claims then or (clparkAt before k (before.rS a) (before.rS b) (before.rS e)).2.1 else statusFull)
  | .fulfil _ a b e => some (3, or (settleStatus before a b (some (before.rS e))))
  | .abandon _ a b => some (3, or (settleStatus before a b none))
  | .cres _ => match c.cmds.head? with
    | some m => if cmdFn m.words == 8 then some (4, m.element.extractLsb' 64 64) else none
    | none => none
  | .join d a b => some (5, if d == 0 then or (joinStatus before a b) else (after.ctx k).readS before.pen d)
  | .talloc _ => some (6, match (List.range 128).find? (fun t => tileFree before (before.tile before.curCore t)) with
    | some t => BitVec.ofNat 64 t
    | none => BitVec.allOnes 64)
  | _ => none

/-- The bank that runs on a core has changed. -/
def observeSwitch (before after : State) (ck : Nat) : State :=
  match (after.core ck).running with
  | none => after
  | some b => if (before.core ck).running == some b then after
    else countEvent after (after.ctx (bankKey ck b)) evSwitches 1

/-- Every core on which a step has changed it, by whatever it did (R32, R193). -/
def observeSwitches (before after : State) : State :=
  if after.dies.all (fun e => e.2.clusters.isEmpty) then after
  else (after.cores.map Prod.fst).foldl (observeSwitch before) after

/-- The word that a stream has tried to issue has issued: one that waits or faults has not. TEND, a CLPARK that parks and a TRAP
have, though the context is gone or in its handler after them; any other word moves its stream, or its loop, on. -/
def issued (before after : State) (st : Stream) (i : Instr) : Bool :=
  let c := before.cur
  let c' := after.ctx before.focus.key
  let gone := c'.status == .empty || c'.id != c.id
  match i with
  | .trap _ => true
  | .eret => !gone && c.handler && !c'.handler
  | _ =>
    if gone then (match i with
      | .tend => true
      | .clpark _ _ _ => hasClaims (before.ctxVi c) && before.taskOf c < viQcount (before.ctxVi c)
      | _ => false)
    else if c'.handler && !c.handler then false
    else c'.pc st != c.pc st || c'.ended st != c.ended st || c'.loop st != c.loop st || isJump i

/-- A stream's loop after a word that has issued: where the context has gone, after the word that ended it (R227). -/
def loopAfter (before after : State) (st : Stream) : Loop :=
  let c := before.cur
  let c' := after.ctx before.focus.key
  if c'.status == .empty || c'.id != c.id then ((c.loop st).next (c.pc st) st.wordBytes).1 else c'.loop st

/-- What the copies of the issuing context's cluster see of a word that a stream has tried to issue. -/
def observeIssue (before after : State) (st : Stream) (raw : Nat) (i : Instr) : State :=
  let c := before.cur
  let s := match clusterOfCtx before c with
    | none => after
    | some _ =>
      if issued before after st i then
        let s := countEvent after c (evIssued st) 1
        let s := match orderOf before after i with
          | some (sub, info) => orderEvent s c st sub info
          | none => s
        observeLoop s c st (c.loop st) (loopAfter before after st) (if isLoop i then some (emptyLoop c st i) else none)
      else if (after.ctx before.focus.key).status == c.status then
        match stallEvent c before.pen st raw i with
        | some e => countEvent after c e 1
        | none => after
      else after
  observeSwitches before s

/-! ### What the other agents did -/

/-- Bytes of a packet: its header flit and its data flits (R364). -/
def Packet.size (p : Packet) : Nat := 32 + 32 * p.flits.length

/-- The context that a request at a die's router serves. -/
def requestCtx (s : State) (d dst : Nat) (seq : BitVec 16) : Option Ctx :=
  match (s.router d).request dst seq with
  | none => none
  | some q => (s.keyOfId q.ctx).map s.ctx

/-- The context that holds the tile which a delivery packet or a tile read names, at its target (R193; log entry 41). -/
def tileCtx (s : State) (m : Msg) : Option Ctx :=
  if m.type == .dlv || (m.type == .rd && m.tile) then
    match m.tilePlace s with
    | some (ck, .core _) => some (s.ctx (bankKey ck (s.tile ck m.tileNo).bank))
    | some (_, .slot k) => some (s.ctx k)
    | none => none
  else none

/-- A packet has left its die: a request counts for the context it serves, a response for the one whose tile it comes from. -/
def observeSent (before after : State) (p : Packet) : State :=
  let c := if p.vc / 2 == 0 then requestCtx before p.src p.dst p.seq
    else match (before.router p.dst).request p.src p.seq with
      | some q => tileCtx before q.msg
      | none => none
  match c with
  | some c => countEvent after c evSent p.size
  | none => after

/-- A request has come to a tile. -/
def observeArrival (before after : State) (p : Packet) : State :=
  match (before.router p.src).request p.dst p.seq with
  | none => after
  | some q => match tileCtx before q.msg with
    | some c => countEvent after c evReceived p.size
    | none => after

/-- What the copies see of an act of another agent. -/
def observeAct (before after : State) (e : Act) : State :=
  observeSwitches before (match e with
  | .kstepCommit => if after.cur.mrs == before.cur.mrs && after.cur.run.isSome then after else countEvent after before.cur evKsteps 1
  | .mdrnRowLand => if drainStalls before after then countEvent after before.cur evQueueStall 1 else after
  | .engineCommandComplete k seq =>
    (match (before.ctx k).cmd seq, (after.ctx k).cmd seq with
     | some m, some m' => if m.state != .posted && m'.state == .posted then countEvent after (before.ctx k) evCommands 1 else after
     | _, _ => after)
  | .packetForward n =>
    (match before.packet n, after.packet n with
     | some p, some q => if p.here == p.src && q.here != p.src then observeSent before after p else after
     | _, _ => after)
  | .dlv n | .rd n =>
    (match before.packet n with
     | some p => if (after.packet n).isNone then observeArrival before after p else after
     | none => after)
  | .rsp n | .rdr n =>
    (match before.packet n with
     | some p => (match requestCtx before p.dst p.src p.seq with
       | some c => if after.packet n == none then countEvent after c evReceived p.size else after
       | none => after)
     | none => after)
  | _ => after)

/-! ### Each cycle (R193, R195) -/

/-- A running context that the guest copy of a cluster counts. -/
def guestRuns (s : State) (dn n : Nat) (x : Cluster) : Bool :=
  s.ctxs.any (fun e => e.2.status == .running && e.2.die == dn && clusterOf e.2.home == n && x.guestSees s e.2)

def TraceCopy.tick (t : TraceCopy) : TraceCopy := if t.queue.isEmpty then t else { t with tdelay := satInc t.tdelay }

/-- One cycle of a cluster's copies; a seized guest copy is frozen, its trace unit's counters too (R194, R195). -/
def Cluster.tick (s : State) (dn n : Nat) (x : Cluster) : Cluster :=
  { x with hyp := if ccEn x.hyp.cfg then x.hyp.add evCycles 1 else x.hyp,
           guest := if ccEn x.guest.cfg && !x.seized && guestRuns s dn n x then x.guest.add evCycles 1 else x.guest,
           traceHyp := x.traceHyp.tick, traceGuest := if x.traceSeized then x.traceGuest else x.traceGuest.tick }

def profileTick (s : State) : State :=
  { s with dies := s.dies.map (fun (dn, d) =>
      (dn, if d.clusters.isEmpty then d else { d with clusters := d.clusters.map (fun (n, x) => (n, x.tick s dn n)) })) }

end Sys2Proof.Machine
end

