-- ==== Sys2Proof/Machine/HostIf.lean ====
section
/-! DEFINITION. The host interface (R402 to R409, R411): doors, device memory, registers and the bootstrap mailbox; power
(R413); function-level reset (R359 to R362); bring-up and cold reset (R410, R414). -/

namespace Sys2Proof.Machine

/-! ### What a function accepts (R409, R410, R359) -/

/-- An access to BAR2 or BAR4 is rejected: in ERROR, and in RUN without the protection of the function's IDE stream. -/
def State.rejects (s : State) (p vi : Nat) (ide : Bool) : Bool :=
  s.absent p || (match Table.get (s.pkg p).tdisp vi .unlocked with
    | .error => true
    | .run => !(ide && Table.has (s.pkg p).ideKeys vi)
    | _ => false)

/-! ### Doors (R156, R157, R192, R404) -/

/-- A posted write to an inbound door's page: a message, which sets EV in the VI's contexts (R336), or discarded and
counted. -/
def appendHost (s : State) (p vi n ofs : Nat) (data : List Byte) : State :=
  if ofs == 0 && data.length == 64 && doorOpen s p vi n then
    match doorAppend s p vi n (lineOf data) with
    | .ok (_, s) => serveDoor (wakeEv s p vi) p vi n
    | .error _ => doorOverflow s p n
  else doorOverflow s p n

def hostDoorAppend (p : Nat) (vi : BitVec 8) (door ofs : Nat) (data : List Byte) (ide : Bool) (s : State) : State :=
  let k := s.pkg p
  let v := k.vi vi.toNat
  if s.rejects p vi.toNat ide || k.resetting vi.toNat || viDcount v ≤ door then s
  else
    let n := viDfirst v + door
    if dOut (k.door n).desc then s else appendHost s p vi.toNat n ofs data

def execHostDoorAppend (p : Nat) (vi : BitVec 8) (door ofs : Nat) (data : List Byte) (ide : Bool) (s : State) : Result :=
  .next (hostDoorAppend p vi door ofs data ide s)

/-- A new HEAD from the current one to TAIL, inclusive, frees messages of an outbound door. On the page of an inbound one the
write is discarded and counted (R404). -/
def doorHeadWrite (p : Nat) (vi : BitVec 8) (door : Nat) (v : Word) (ide : Bool) (s : State) : State :=
  let k := s.pkg p
  let e := k.vi vi.toNat
  let n := viDfirst e + door
  let d := k.door n
  if s.rejects p vi.toNat ide || k.resetting vi.toNat || viDcount e ≤ door then s
  else if !dOut d.desc then doorOverflow s p n
  else if dPen d.desc != k.pen vi.toNat ||
      span32 (dTail d.desc) (dHead d.desc) < span32 v.toNat (dHead d.desc) then s
  else s.setPkg p (k.setDoor n { d with desc := setField d.desc 400 32 v.toNat })

def execDoorHeadWrite (p : Nat) (vi : BitVec 8) (door : Nat) (v : Word) (ide : Bool) (s : State) : Result :=
  .next (doorHeadWrite p vi door v ide s)

/-- A write of 0 by the owner clears a door's overflow counter. -/
def overflowCounterClear (p : Nat) (vi : BitVec 8) (door : Nat) (v : Word) (s : State) : State :=
  let k := s.pkg p
  let e := k.vi vi.toNat
  let n := viDfirst e + door
  if s.rejects0 p vi.toNat || k.resetting vi.toNat || viDcount e ≤ door || v != 0 then s
  else s.setPkg p (k.setDoor n { k.door n with overflow := 0 })

def execOverflowCounterClear (p : Nat) (vi : BitVec 8) (door : Nat) (v : Word) (s : State) : Result :=
  .next (overflowCounterClear p vi door v s)

/-! ### Device memory through BAR4 (R406) -/

/-- The accessor of a function: its VI on die 0, with the pennant of R355. -/
def hostAccessor (s : State) (p vi : Nat) : Accessor := ⟨die0 p, vi, s.penOf p vi⟩

/-- Pieces of an access by line: address, offset within the line, and bytes. -/
def linePieces (va : Nat) : Nat → Nat → List (Nat × Nat × Nat)
  | 0, _ => []
  | _ + 1, 0 => []
  | fuel + 1, len =>
    let o := va % 64
    let n := min len (64 - o)
    (va - o, o, n) :: linePieces (va + n) fuel (len - n)

def piecesOf (va len : Nat) : List (Nat × Nat × Nat) := linePieces va (len / 64 + 2) len

/-- The bytes read, or none where a line fails a check. -/
def readPieces (s : State) (a : Accessor) : List (Nat × Nat × Nat) → Option (List Byte)
  | [] => some []
  | (va, o, n) :: r => match accRead s a Need.read va with
    | .error _ => none
    | .ok l => (readPieces s a r).map (fun bs => ((lineBytes l).drop o).take n ++ bs)

/-- The numbers of a host access's request to another die, which a function's own die makes (R371, R373, R406). -/
def reachDie (s : State) (a : Accessor) (n : Need) (va : Nat) : State :=
  let dst := targetOf s a n va
  if dst == a.die || (roundTrip s a.die dst).isSome then s else exchangeDies s a.die dst

def State.reply (s : State) (p : Nat) (r : Reply) : State := s.modPkg p (fun k => { k with reply := r })

/-- What the lines of a host read leave behind at their targets, up to the first that fails (R110, R191). -/
def meetPieces (s : State) (a : Accessor) : List (Nat × Nat × Nat) → State
  | [] => s
  | (va, _, _) :: r =>
    let t := reachDie (afterAccess s a Need.read va false) a Need.read va
    match accRead s a Need.read va with
    | .error _ => t
    | .ok _ => meetPieces t a r

/-- A host read: its bytes, or Unsupported Request, or Completer Abort counted in HOSTERR. -/
def hostMemRead (p : Nat) (vi : BitVec 8) (va : Dword) (len : Nat) (ide : Bool) (s : State) : State :=
  if s.rejects p vi.toNat ide then s.reply p ⟨.unsupportedRequest, []⟩
  else
    let a := hostAccessor s p vi.toNat
    let ps := piecesOf va.toNat len
    match readPieces s a ps with
    | some bs => (meetPieces s a ps).reply p ⟨.successful, bs⟩
    | none => ((meetPieces s a ps).reply p ⟨.completerAbort, []⟩).count (die0 p) Counters.incHostErr

def execHostMemRead (p : Nat) (vi : BitVec 8) (va : Dword) (len : Nat) (ide : Bool) (s : State) : Result :=
  .next (hostMemRead p vi va len ide s)

/-- Lines written in order; the first that fails drops the rest. -/
def writePieces (s : State) (a : Accessor) : List (Nat × Nat × Nat) → List Byte → Bool × State
  | [], _ => (true, s)
  | (va, o, n) :: r, bs =>
    let s := reachDie (afterAccess s a Need.write va (n == 64)) a Need.write va
    match accWrite s a Need.write va (maskRange o n) (BitVec.ofNat 512 (leNat (bs.take n) * 2 ^ (8 * o))) with
    | .error _ => (false, s)
    | .ok s => writePieces s a r (bs.drop n)

def hostMemWrite (p : Nat) (vi : BitVec 8) (va : Dword) (data : List Byte) (ide : Bool) (s : State) : State :=
  if s.rejects p vi.toNat ide || (s.pkg p).resetting vi.toNat then s
  else match writePieces s (hostAccessor s p vi.toNat) (piecesOf va.toNat data.length) data with
    | (true, s) => s
    | (false, s) => s.count (die0 p) Counters.incHostErr

def execHostMemWrite (p : Nat) (vi : BitVec 8) (va : Dword) (data : List Byte) (ide : Bool) (s : State) : Result :=
  .next (hostMemWrite p vi va data ide s)

/-! ### The bootstrap mailbox (R411) -/

/-- SEED: a push to a physical queue under the pennant of the request's VI. -/
def seedQueue (s : State) (p vi index : Nat) (r : Line) : VStatus × State :=
  let k := s.pkg p
  let e := k.vi vi
  if 8192 ≤ index then refuse s 3
  else if index < viQfirst e || viQfirst e + viQcount e ≤ index then refuse s 7
  else if !qEn (k.queue index) || viState e != 1 then refuse s 4
  else doneOp (pushHome s p vi (index - viQfirst e) (k.pen vi) r).2

/-- A request performed: its status word, or bit 63 while requests that used what it has changed are outstanding, by
number (R123, R411). -/
def mailDone (p : Nat) (ns : List Use) (x : VStatus × State) : State :=
  x.2.modPkg p (fun k =>
    if ns.isEmpty then { k with mailStatus := x.1.word }
    else { k with mailStatus := 0x8000000000000000, mailRun := some (x.1.word, ns) })

/-- The request that runs ends once the last of its outstanding requests has been answered. -/
def mailGoOn (s : State) (p : Nat) : State :=
  match (s.pkg p).mailRun with
  | none => s
  | some (w, ns) =>
    if stillUsed s p ns then s
    else s.modPkg p (fun k => { k with mailStatus := w, mailRun := none })

/-- The row SEED: the mailbox performs a SEED request with these operands. -/
def seed (p : Nat) (vi : BitVec 8) (index : Dword) (record : Line) (s : State) : State :=
  if s.absent p || (s.pkg p).mailRun.isSome then s else mailDone p [] (seedQueue s p vi.toNat index.toNat record)

def execSeed (p : Nat) (vi : BitVec 8) (index : Dword) (record : Line) (s : State) : Result := .next (seed p vi index record s)

/-- The request in the mailbox. -/
def Pkg.mailRequest (k : Pkg) : VReq :=
  vreqOf ((List.range 3).map (fun i => lineOf (((k.mailbox ++ List.replicate 192 0).drop (64 * i)).take 64)))

/-- A request performed as VIMAP would for VI 0. -/
def mailOp (s : State) (p : Nat) (r : VReq) : VStatus × State :=
  if r.op == 0x10 then (if r.clear then seedQueue s p r.vi r.index r.line else refuse s 1)
  else vimap s p ⟨die0 p, 0, s.penOf p 0⟩ r

/-- The outstanding requests that a performed request waits for. -/
def mailWaits (p : Nat) (r : VReq) (x : VStatus × State) : List Use :=
  match x.1 with
  | .done _ => if r.op == 0x10 then [] else pendingUses x.2 p r.waitsFor r.ofTiles
  | _ => []

/-- A write to GO: 1 starts the request, and is ignored while one runs. -/
def mailboxGo (p : Nat) (v : Dword) (s : State) : State :=
  if s.absent p || !v.getLsbD 0 || (s.pkg p).mailRun.isSome then s
  else
    let r := (s.pkg p).mailRequest
    let x := mailOp s p r
    mailDone p (mailWaits p r x) x

def execBootstrapMailboxGo (p : Nat) (v : Dword) (s : State) : Result := .next (mailboxGo p v s)

/-! ### Power (R413) -/

def plimWrite (p : Nat) (v : Dword) (s : State) : State :=
  if s.absent p then s
  else s.modPkg p (fun k => { k with plim := max 400 (min 1600 (field v 0 16)) })

def execPlimWrite (p : Nat) (v : Dword) (s : State) : Result := .next (plimWrite p v s)

/-- A sample every 10 µs; a hundred of them make the 1 ms average. -/
def powerSample (p watts : Nat) (s : State) : State := s.modPkg p (fun k => { k with samples := (watts :: k.samples).take 100 })

def execPowerSample (p watts : Nat) (s : State) : Result := .next (powerSample p watts s)

/-- The sum of the samples, in whole watts times their number. -/
def Pkg.powerSum (k : Pkg) : Nat := k.samples.foldl (fun a b => a + b) 0

/-- One step of the throttle level: up while the average exceeds PLIM, down while it is below 95 % of it. -/
def Pkg.throttleNext (k : Pkg) : Nat :=
  let n := k.samples.length
  if k.plim * n < k.powerSum then min 15 (k.throttle + 1)
  else if 100 * k.powerSum < 95 * k.plim * n then k.throttle - 1
  else k.throttle

def throttleStep (p : Nat) (s : State) : State := s.modPkg p (fun k => { k with throttle := k.throttleNext })

def execThrottleStep (p : Nat) (s : State) : Result := .next (throttleStep p s)

/-! ### Registers (R405, R407, R398) -/

/-- Eight bytes of a number put into a list of bytes. -/
def putBytes (l : List Byte) (o : Nat) (v : Dword) : List Byte :=
  let l := l ++ List.replicate (192 - l.length) 0
  l.take o ++ leBytes 8 v.toNat ++ l.drop (o + 8)

/-- A write of an MSI-X table entry's half. A pending vector that is unmasked is signalled. -/
def Pkg.msixWrite (k : Pkg) (vi vec half : Nat) (v : Dword) : Pkg :=
  let key := 2048 * vi + vec
  let e := Table.get k.msix key msixReset
  let x := setField e.1 (64 * half) 64 v.toNat
  if e.2 && !msixMasked x then { k with msix := Table.put k.msix key (x, false), signals := (vi, vec) :: k.signals }
  else { k with msix := Table.put k.msix key (x, e.2) }

/-- The guest copies granted to a VI, in ascending order of die and cluster (R405). -/
def grantedCopies (s : State) (p vi : Nat) : List (Nat × Nat) :=
  [die0 p, die1 p].flatMap (fun d => (List.range 16).filterMap (fun cl => if (s.cluster d cl).gvi == vi then some (d, cl) else none))

/-- The offsets of a copy's registers that are written (R197, R398, R401). -/
def copyOffsets : List Nat := [0x000, 0x008, 0x400, 0x404, 0x500, 0x508, 0x510, 0x520, 0x540, 0x548, 0x550, 0x558]

/-- Eight bytes written to a copy: TDELAY and TLOST lie side by side. A write to any other offset is discarded (R405). -/
def copyWrite (s : State) (dn cl : Nat) (hyp : Bool) (vi : BitVec 8) (reg : Nat) (v : Dword) : State :=
  let s := if copyOffsets.contains reg then profileWrite s dn cl hyp vi reg v else s
  if reg == 0x400 then profileWrite s dn cl hyp vi 0x404 (v >>> 32) else s

/-- A write of PREQ: the operation it names, and none under any other OP (R349). -/
def preqWrite (p : Nat) (v : Dword) (s : State) : State :=
  let vi : BitVec 8 := v.extractLsb' 48 8
  let vcn : BitVec 16 := v.extractLsb' 32 16
  let g := v.getLsbD 0
  match field v 56 8 with
  | 1 => preempt p vi vcn g s
  | 2 => release_ p vi vcn g s
  | 3 => cancel p vi vcn g s
  | _ => s

/-- Two doors' overflow counters, from door i of a VI on, written as eight bytes: each is cleared by a 0 (R192). -/
def overflowWrite (p : Nat) (vi : BitVec 8) (i : Nat) (v : Dword) (s : State) : State :=
  overflowCounterClear p vi (i + 1) (v.extractLsb' 32 32) (overflowCounterClear p vi i (v.setWidth 32) s)

/-- The same through a die's counter window, which names physical doors: those of VI 0 alone, whose owner it is (R192, R197). -/
def ownOverflowWrite (s : State) (p n : Nat) (v : Dword) : State :=
  let first := viDfirst ((s.pkg p).vi 0)
  let clear := fun (s : State) (n : Nat) (w : Word) => if first ≤ n then overflowCounterClear p 0 (n - first) w s else s
  clear (clear s n (v.setWidth 32)) (n + 1) (v.extractLsb' 32 32)

/-- A write of eight bytes to the physical function's control window. -/
def physicalWrite (s : State) (p ofs : Nat) (v : Dword) : State :=
  if 0x130000 ≤ ofs && ofs + 8 ≤ 0x1300C0 then s.modPkg p (fun k => { k with mailbox := putBytes k.mailbox (ofs - 0x130000) v })
  else if ofs == 0x100000 then preqWrite p v s
  else if ofs == 0x110000 then plimWrite p v s
  else if ofs == 0x130100 then mailboxGo p v s
  else if 0x200000 ≤ ofs && ofs < 0x208000 && ofs % 8 == 0 then
    s.modPkg p (fun k => k.msixWrite 0 ((ofs - 0x200000) / 16) (ofs % 16 / 8) v)
  else if ofs < 0x80000 then
    let d := if ofs < 0x40000 then die0 p else die1 p
    let x := ofs % 0x40000
    if 0x10000 ≤ x && x < 0x20000 && x % 0x1000 < 0x800 && x % 8 == 0 then
      copyWrite s d ((x - 0x10000) / 0x1000) true 0 (x % 0x1000) v
    else if 0x20000 ≤ x && x < 0x30000 && x % 8 == 0 then
      ownOverflowWrite s p ((if isDie1 d then 16384 else 0) + (x - 0x20000) / 4) v
    else s
  else s

/-- A write of eight bytes to a virtual function's status window. -/
def virtualWrite (s : State) (p vi ofs : Nat) (v : Dword) : State :=
  if ofs < 0x20000 && ofs % 8 == 0 then overflowWrite p (BitVec.ofNat 8 vi) (ofs / 4) v s
  else if 0x20000 ≤ ofs && ofs < 0x40000 then
    match (grantedCopies s p vi)[(ofs - 0x20000) / 0x1000]? with
    | some (d, cl) => if ofs % 8 == 0 then copyWrite s d cl false (BitVec.ofNat 8 vi) (ofs % 0x1000) v else s
    | none => s
  else if 0x40000 ≤ ofs && ofs < 0x48000 && ofs % 8 == 0 then
    s.modPkg p (fun k => k.msixWrite vi ((ofs - 0x40000) / 16) (ofs % 16 / 8) v)
  else s

/-- A window register takes its value, or discards it. -/
def registerWrite (p : Nat) (vi : BitVec 8) (ofs : Nat) (v : Dword) (s : State) : State :=
  if s.rejects0 p vi.toNat || (s.pkg p).resetting vi.toNat then s
  else if vi == 0 then physicalWrite s p ofs v else virtualWrite s p vi.toNat ofs v

def execRegisterWrite (p : Nat) (vi : BitVec 8) (ofs : Nat) (v : Dword) (s : State) : Result :=
  .next (registerWrite p vi ofs v s)

/-! ### Reading the windows (R185, R192, R194, R197, R349, R382, R398, R404, R405, R413) -/

/-- Two cells of four bytes as the eight bytes they lie in. -/
def cellPair (t : Table Word) (k : Nat) : Dword := Table.get t (k + 1) 0 ++ Table.get t k 0

/-- The eight bytes at an offset of a counter copy and its trace copy; zero where it is reserved. -/
def copyRead (x : CountCopy) (t : TraceCopy) (seized traceSeized : Bool) (r : Nat) : Dword :=
  if 0x100 ≤ r && r < 0x140 then x.count.getD ((r - 0x100) / 8) 0
  else if 0x200 ≤ r && r < 0x2C0 then cellPair x.matrix ((r - 0x200) / 4)
  else if 0x300 ≤ r && r < 0x3C0 then cellPair x.snap ((r - 0x300) / 4)
  else match r with
    | 0x000 => x.cfg
    | 0x008 => x.sel
    | 0x010 => BitVec.ofNat 64 seized.toNat
    | 0x400 => t.tlost ++ t.tdelay
    | 0x500 => t.tctl
    | 0x508 => t.tbase
    | 0x510 => t.tcap
    | 0x518 => t.twptr.setWidth 64
    | 0x520 => t.trptr.setWidth 64
    | 0x528 => t.tnext.setWidth 64
    | 0x530 => BitVec.ofNat 64 (traceSeized.toNat + 2 * t.terr.toNat)
    | 0x540 => t.bpAddr0
    | 0x548 => t.bpCtl0
    | 0x550 => t.bpAddr1
    | 0x558 => t.bpCtl1
    | _ => 0

def Cluster.readHyp (c : Cluster) (r : Nat) : Dword := copyRead c.hyp c.traceHyp c.seized c.traceSeized r
def Cluster.readGuest (c : Cluster) (r : Nat) : Dword := copyRead c.guest c.traceGuest c.seized c.traceSeized r

/-- A door's overflow counter as VI 0 reads it: zero where its pennant is stale, as its owner's next generation has it too
(DESIGN CHOICE, log entry 67). -/
def Pkg.overflowOf (k : Pkg) (n : Nat) : Word :=
  let d := k.door n
  if k.current (dPen d.desc) then d.overflow else 0

/-- The same for the function of a VI, by its virtual door (R192). -/
def Pkg.ownOverflow (k : Pkg) (vi door : Nat) : Word :=
  let e := k.vi vi
  let d := k.door (viDfirst e + door)
  if door < viDcount e && dPen d.desc == k.pen vi then d.overflow else 0

/-- The counters of a die in the order of their offsets from 0x1000. -/
def Counters.inOrder (c : Counters) : List Dword :=
  [c.dropPen, c.dropTile, c.dropCommit, c.dedup, c.detour, c.eccCor, c.eccUnc, c.faultLost, c.authFail, c.fabDrop, c.linkDead]

/-- The eight bytes at an offset of a die's counter window. -/
def counterRead (s : State) (d x : Nat) : Dword :=
  let e := s.die d
  let k := s.pkg (pkgOf d)
  let first := if isDie1 d then 16384 else 0
  if x < 0x20 then [e.sweep.prog, e.sweep.total, e.sweep.pass, BitVec.ofNat 64 e.sweep.run.toNat].getD (x / 8) 0
  else if 0x100 ≤ x && x < 0x900 then k.gen ((x - 0x100) / 8)
  else if 0x1000 ≤ x && x < 0x1058 then e.counters.inOrder.getD ((x - 0x1000) / 8) 0
  else if x == 0x1058 && !isDie1 d then e.counters.hostErr
  else if 0x10000 ≤ x && x < 0x20000 then
    let c := s.cluster d ((x - 0x10000) / 0x1000)
    let r := x % 0x1000
    if r < 0x800 then c.readHyp r else c.readGuest (r - 0x800)
  else if 0x20000 ≤ x && x < 0x30000 then
    let i := first + (x - 0x20000) / 4
    k.overflowOf (i + 1) ++ k.overflowOf i
  else 0

/-- Half of an MSI-X table entry, and 64 pending bits. -/
def Pkg.msixRead (k : Pkg) (vi o : Nat) : Dword :=
  (Table.get k.msix (2048 * vi + o / 16) msixReset).1.extractLsb' (64 * (o % 16 / 8)) 64
def Pkg.msixPending (k : Pkg) (vi o : Nat) : Dword :=
  BitVec.ofNat 64 (((List.range 64).map (fun i =>
    if (Table.get k.msix (2048 * vi + 8 * o + i) msixReset).2 then 2 ^ i else 0)).foldl (fun a b => a + b) 0)

/-- PWRSTAT: the mean of the samples of the last millisecond, and the throttle level. -/
def Pkg.pwrstat (k : Pkg) : Dword := BitVec.ofNat 64 (65536 * k.throttle + k.powerSum / max 1 k.samples.length % 65536)

/-- BOOTSTAT (R410): STAGE; IMGB once image A has failed and B has not; and the reason where both have, which is the ROM's. -/
def State.bootstat (s : State) (p : Nat) : Dword :=
  let k := s.pkg p
  let st := s.stage p
  let b := st != 0 && !k.images.1 && k.images.2
  BitVec.ofNat 64 (st + 16 * b.toNat + (if st == 15 then 256 * Sys2Proof.Config.bootError.toNat else 0))

/-- The eight bytes at an offset of the physical function's control window. -/
def physicalRead (s : State) (p ofs : Nat) : Dword :=
  let k := s.pkg p
  if ofs < 0x40000 then counterRead s (die0 p) ofs
  else if ofs < 0x80000 then counterRead s (die1 p) (ofs - 0x40000)
  else if 0x130000 ≤ ofs && ofs < 0x1300C0 then BitVec.ofNat 64 (leNat ((k.mailbox.drop (ofs - 0x130000)).take 8))
  else if 0x200000 ≤ ofs && ofs < 0x208000 then k.msixRead 0 (ofs - 0x200000)
  else if 0x208000 ≤ ofs && ofs < 0x208100 then k.msixPending 0 (ofs - 0x208000)
  else match ofs with
    | 0x100000 => k.preqReg
    | 0x100008 => k.pstat
    | 0x110000 => BitVec.ofNat 64 k.plim
    | 0x110008 => k.pwrstat
    | 0x120000 => s.bootstat p
    | 0x130108 => k.mailStatus
    | _ => 0

/-- The eight bytes at an offset of a virtual function's status window: a guest copy that carries another pennant reads
zero (R194). -/
def virtualRead (s : State) (p vi ofs : Nat) : Dword :=
  let k := s.pkg p
  if ofs < 0x20000 then k.ownOverflow vi (ofs / 4 + 1) ++ k.ownOverflow vi (ofs / 4)
  else if ofs < 0x40000 then
    match (grantedCopies s p vi)[(ofs - 0x20000) / 0x1000]? with
    | some (d, cl) =>
      let c := s.cluster d cl
      if ofs % 0x1000 < 0x800 && ccPen c.guest.cfg == k.pen vi then c.readGuest (ofs % 0x1000) else 0
    | none => 0
  else if ofs < 0x48000 then k.msixRead vi (ofs - 0x40000)
  else if ofs < 0x48100 then k.msixPending vi (ofs - 0x48000)
  else 0

/-- A function does not answer: its interface is in ERROR, or it is absent, but for BOOTSTAT once the ROM has ended (R409, R410,
R413). -/
def State.silent (s : State) (p vi ofs : Nat) : Bool :=
  (s.absent p && !(vi == 0 && ofs == 0x120000 && s.stage p != 0 && !(s.pkg p).halted)) ||
    Table.get (s.pkg p).tdisp vi .unlocked == .error

/-- A host read of the eight aligned bytes that hold an offset of BAR0. -/
def registerRead (p : Nat) (vi : BitVec 8) (ofs : Nat) (s : State) : State :=
  let o := ofs / 8 * 8
  if s.silent p vi.toNat o then s.reply p ⟨.unsupportedRequest, []⟩
  else s.reply p ⟨.successful, leBytes 8 (if vi == 0 then physicalRead s p o else virtualRead s p vi.toNat o).toNat⟩

def execRegisterRead (p : Nat) (vi : BitVec 8) (ofs : Nat) (s : State) : Result := .next (registerRead p vi ofs s)

/-- A host read of a door's page: an outbound door's message at HEAD, its HEAD and its TAIL; a stale door reads as empty
(R155, R404). A message whose line fails a check is no message, and the read is aborted as one of BAR4 is (R406; DESIGN
CHOICE, log entry 67). -/
def doorRead (p : Nat) (vi : BitVec 8) (door ofs : Nat) (ide : Bool) (s : State) : State :=
  let k := s.pkg p
  let e := k.vi vi.toNat
  let n := viDfirst e + door
  let d := (freshDoor (k.door n) (k.pen vi.toNat)).desc
  if s.rejects p vi.toNat ide then s.reply p ⟨.unsupportedRequest, []⟩
  else if viDcount e ≤ door || !dOut d then s.reply p ⟨.successful, leBytes 8 0⟩
  else if ofs < 0x40 then
    if dHead d == dTail d then s.reply p ⟨.successful, leBytes 64 0⟩
    else
      let a : Accessor := ⟨doorDie p n, vi.toNat, k.pen vi.toNat⟩
      let va := dBase d + 64 * (dHead d % dCap d)
      let t := afterAccess s a Need.read va false
      match accRead s a Need.read va with
      | .ok l => t.reply p ⟨.successful, lineBytes l⟩
      | .error _ => (t.reply p ⟨.completerAbort, []⟩).count (die0 p) Counters.incHostErr
  else s.reply p ⟨.successful, leBytes 8 (if ofs == 0x40 then dHead d else if ofs == 0x48 then dTail d else 0)⟩

def execDoorRead (p : Nat) (vi : BitVec 8) (door ofs : Nat) (ide : Bool) (s : State) : Result :=
  .next (doorRead p vi door ofs ide s)

/-! ### TDISP (R409) -/

/-- A virtual function's interface moves from one state to another. -/
def moveInterface (s : State) (p vi : Nat) (old new : Tdisp) : State :=
  s.modPkg p (fun k =>
    if vi != 0 && !s.absent p && Table.get k.tdisp vi .unlocked == old then { k with tdisp := Table.put k.tdisp vi new } else k)

def execLockInterface (p : Nat) (vi : BitVec 8) (s : State) : Result := .next (moveInterface s p vi.toNat .unlocked .locked)
def execStartInterface (p : Nat) (vi : BitVec 8) (s : State) : Result := .next (moveInterface s p vi.toNat .locked .run)

/-! ### Function-level reset (R359 to R361) -/

/-- Step 1: EN = 0 on every door and task queue of a VI. -/
def Pkg.close (k : Pkg) (vi : Nat) : Pkg :=
  let e := k.vi vi
  { k with queues := Table.mapIf k.queues (fun q _ => viQfirst e ≤ q && q < viQfirst e + viQcount e) (fun d => setField d 55 1 0),
           doors := Table.mapIf k.doors (fun n _ => viDfirst e ≤ n && n < viDfirst e + viDcount e)
             (fun (d : Door) => { d with desc := setField d.desc 47 1 0 }) }

/-- Steps 1 to 5. -/
def flrErase (s : State) (p vi : Nat) : State :=
  let s := s.modPkg p (fun k => k.close vi)
  let s := (revokeAll (discardVi s p vi) p vi).2
  s.modPkg p (fun k => { (k.zeroKeys vi).2 with saveKeys := Table.drop k.saveKeys vi, faultSeq := Table.drop k.faultSeq vi })

/-- Step 6: the shutter, which waits while it is BUSY. -/
def flrShutter (s : State) (p vi : Nat) : State :=
  if (s.pkg p).shutBusy vi then s
  else (shutter s p vi true).modPkg p (fun k => { k with flrPending := k.flrPending.filter (fun v => v != vi) })

/-- The reset of one virtual function. -/
def flrVi (p : Nat) (s : State) (vi : Nat) : State :=
  let s := flrErase s p vi
  if viState ((s.pkg p).vi vi) == 2 then s
  else flrShutter (s.modPkg p (fun k => { k with flrPending := k.flrPending.filter (fun v => v != vi) ++ [vi] })) p vi

/-- The physical function's reset resets VIs 1 to 255 and discards VI 0's contexts (R361). -/
def flr (p vi : Nat) (s : State) : State :=
  if vi != 0 then flrVi p s vi
  else discardVi ((List.range 255).foldl (fun s v => flrVi p s (v + 1)) s) p 0

def execFunctionLevelReset (p : Nat) (vi : BitVec 8) (s : State) : Result := .next (flr p vi.toNat s)

/-- The shutter that waited for a pass end (R360). -/
def flrResume (p vi : Nat) (s : State) : State := if (s.pkg p).resetting vi then flrShutter s p vi else s

def execFlrShutterResume (p : Nat) (vi : BitVec 8) (s : State) : Result := .next (flrResume p vi.toNat s)

/-- STOP_INTERFACE: the function-level reset, and CONFIG_UNLOCKED (R409). -/
def stopInterface (p vi : Nat) (s : State) : State :=
  if vi == 0 || s.absent p then s
  else (flrVi p s vi).modPkg p (fun k => { k with tdisp := Table.drop k.tdisp vi })

def execStopInterface (p : Nat) (vi : BitVec 8) (s : State) : Result := .next (stopInterface p vi.toNat s)

/-! ### What the loader tells of an image (R42, R108, R215) -/

/-- `.image`: the spill quota of each context of a VI, in lines. -/
def loadImage (p vi spill : Nat) (s : State) : State :=
  s.modPkg p (fun k => { k with spillQuota := Table.put k.spillQuota vi spill })

/-- `.group`: the line at a virtual address is a group descriptor, at its reset values with the VI's pennant. -/
def loadGroup (p vi die va : Nat) (s : State) : State :=
  let a : Accessor := ⟨die, vi, s.penOf p vi⟩
  if va % 64 != 0 || pkgOf die != p then s
  else match checkAll s a Need.write va true with
    | .error _ => s
    | .ok w => match writeLine s a w maskAll 0 with
      | .error _ => s
      | .ok s => { s with descriptors := Table.put s.descriptors (w.gpa / 64) a.pen }

/-! ### Cold reset and the halt by temperature (R410, R413, R414) -/

/-- A line, and a context's key, of a package. -/
def lineIn (p line : Nat) : Bool := pkgOf (dieOfGpa (64 * line)) == p
def ctxIn (p : Nat) (e : Nat × Ctx) : Bool := pkgOf (dieOfCore e.2.home) == p
/-- Entries of a table that a test keeps. -/
def Table.keep {α : Type} (t : Table α) (c : Nat → Bool) : Table α := t.filter (fun e => c e.1)

/-- A package without any of its state; its packets in flight are lost. -/
def forget (s : State) (p : Nat) : State :=
  { s with
    mem := ⟨s.mem.cells.filter (fun c => !lineIn p (c.1 / 64)), s.mem.pens.filter (fun c => !lineIn p c.1)⟩,
    poison := s.poison.filter (fun e => !lineIn p e.1), errors := s.errors.filter (fun e => !lineIn p e.1), len := s.len.filter (fun e => !lineIn p e.1),
    ctxs := s.ctxs.filter (fun e => !ctxIn p e),
    cores := Table.keep s.cores (fun ck => pkgOf (dieOfCore ck) != p),
    dies := Table.keep s.dies (fun d => pkgOf d != p),
    pkgs := Table.drop s.pkgs p,
    groups := s.groups.filter (fun g => pkgOf g.die != p),
    descriptors := s.descriptors.filter (fun e => !lineIn p e.1),
    deliveries := s.deliveries.filter (fun d => pkgOf d.die != p),
    packets := s.packets.filter (fun x => pkgOf x.here != p),
    reductions := s.reductions.filter (fun r => !s.ctxs.any (fun e => ctxIn p e && e.2.id == r.ctx)) }

/-- Cold reset: what R414 lists, with the images that the ROM will verify; bring-up follows, a stage a cycle (R410). -/
def coldReset (p : Nat) (imgA imgB : Bool) (s : State) : State :=
  let s := forget s p
  s.setPkg p { Pkg.reset with images := (imgA, imgB), born := s.cycle }

def execColdReset (p : Nat) (imgA imgB : Bool) (s : State) : Result := .next (coldReset p imgA imgB s)

/-- At 110 °C the package loses its state and halts. -/
def thermalHalt (p celsius : Nat) (s : State) : State :=
  if celsius < 110 then s else (forget s p).setPkg p { Pkg.reset with halted := true }

def execThermalHalt (p celsius : Nat) (s : State) : Result := .next (thermalHalt p celsius s)

end Sys2Proof.Machine
end

