-- ==== Sys2Proof/Machine/MlDsa.lean ====
section
/-! DEFINITION. The verification of an ML-DSA-65 signature (FIPS 204), which R392 and R393 name and the spec does not spell out
(PRESUMED, log entry 8). The comments name the algorithm of FIPS 204 that a definition follows. -/

namespace Sys2Proof.Machine

/-! ### Polynomials modulo q and their transform -/

/-- The modulus of ML-DSA. -/
def mlQ : Nat := 8380417

/-- A polynomial: its 256 coefficients below q, that of x^0 first. -/
abbrev MlPoly := List Nat

def mlAdd (a b : MlPoly) : MlPoly := List.zipWith (fun x y => (x + y) % mlQ) a b
def mlSub (a b : MlPoly) : MlPoly := List.zipWith (fun x y => (x + mlQ - y) % mlQ) a b
def mlMul (a b : MlPoly) : MlPoly := List.zipWith (fun x y => x * y % mlQ) a b
def mlScale (z : Nat) (a : MlPoly) : MlPoly := a.map (fun x => z * x % mlQ)

/-- The eight bits of a number in the other order (algorithm 43). -/
def revEight (m : Nat) : Nat := (List.range 8).foldl (fun r i => 2 * r + m / 2 ^ i % 2) 0

/-- The number-theoretic transform of 2^n coefficients, from a node of its tree on (algorithm 41). -/
def mlNtt : Nat → Nat → MlPoly → MlPoly
  | 0, _, w => w
  | n + 1, m, w =>
    let lo := w.take (2 ^ n)
    let t := mlScale (1753 ^ revEight m % mlQ) (w.drop (2 ^ n))
    mlNtt n (2 * m) (mlAdd lo t) ++ mlNtt n (2 * m + 1) (mlSub lo t)

/-- The inverse of that transform, times 2^n; 1753 has the order 512 (algorithm 42). -/
def mlUnNtt : Nat → Nat → MlPoly → MlPoly
  | 0, _, w => w
  | n + 1, m, w =>
    let lo := mlUnNtt n (2 * m) (w.take (2 ^ n))
    let hi := mlUnNtt n (2 * m + 1) (w.drop (2 ^ n))
    mlAdd lo hi ++ mlScale (1753 ^ (512 - revEight m) % mlQ) (mlSub lo hi)

def ntt (w : MlPoly) : MlPoly := mlNtt 8 1 w
def invNtt (w : MlPoly) : MlPoly := mlScale 8347681 (mlUnNtt 8 1 w)

/-- The first n-bit fields of a byte string, 256 of them (algorithm 18). -/
def unpackFields (n : Nat) (bs : List Byte) : List Nat :=
  let x := bytesNat bs
  (List.range 256).map (fun i => x / 2 ^ (n * i) % 2 ^ n)

/-! ### What is sampled from a hash -/

/-- The coefficients below q that byte triples give, bit 23 of each left out (algorithm 14). -/
def smallTriples : List Byte → List Nat
  | a :: b :: c :: r =>
    let z := a.toNat + 256 * b.toNat + 65536 * (c.toNat % 128)
    if z < mlQ then z :: smallTriples r else smallTriples r
  | _ => []

/-- A transformed polynomial from a seed, none where 336 triples give fewer than 256 coefficients, which FIPS 204 lets an
implementation give up on (algorithm 30, appendix C). -/
def rejNttPoly (seed : List Byte) : Option MlPoly :=
  let l := (smallTriples (squeeze 168 6 (absorb 168 0x1F seed))).take 256
  if l.length == 256 then some l else none

/-- A row of the matrix Â (algorithm 32). -/
def expandRow (rho : List Byte) (r : Nat) : Option (List MlPoly) :=
  (List.range 5).mapM (fun s => rejNttPoly (rho ++ [BitVec.ofNat 8 s, BitVec.ofNat 8 r]))

/-- The places that the bytes of a hash name for c's coefficients from i on, none where they do not suffice: bytes above the
index are passed over (algorithm 29). -/
def ballPlaces : Nat → List Byte → Option (List Nat)
  | _, [] => none
  | i, b :: r =>
    if i < b.toNat then ballPlaces i r
    else if i == 255 then some [b.toNat]
    else (ballPlaces (i + 1) r).map (fun l => b.toNat :: l)

/-- The polynomial of 49 coefficients 1 and −1 that a hash names (algorithm 29). -/
def sampleInBall (seed : List Byte) : Option MlPoly :=
  let bs := squeeze 136 3 (absorb 136 0x1F seed)
  let signs := bytesNat (bs.take 8)
  (ballPlaces 207 (bs.drop 8)).map (fun js =>
    js.zipIdx.foldl (fun c (j, n) =>
      (c.set (207 + n) (c.getD j 0)).set j (if signs / 2 ^ n % 2 == 1 then mlQ - 1 else 1)) (List.replicate 256 0))

/-! ### The hint and the high bits -/

/-- The places of one polynomial's hints rise strictly. -/
def placesRise : List Byte → Bool
  | a :: b :: r => a.toNat < b.toNat && placesRise (b :: r)
  | _ => true

/-- The hints of the polynomials that the bounds divide the places among, from the bound before; none where the string is
malformed (algorithm 21). -/
def hintsFrom (places : List Byte) : Nat → List Byte → Option (List (List Byte))
  | last, [] => if (places.drop last).all (fun b => b == 0) then some [] else none
  | last, b :: r =>
    let n := b.toNat
    let own := (places.take n).drop last
    if n < last || 55 < n || !placesRise own then none
    else (hintsFrom places n r).map (fun l => own :: l)

/-- The high bits of a coefficient, moved where it has a hint; 2γ₂ is 523,776 (algorithms 36 and 40). -/
def useHint (h : Bool) (r : Nat) : Nat :=
  let low := r % 523776
  let up := low ≤ 261888
  let r1 := if up then r / 523776 else (r / 523776 + 1) % 16
  if h then (if up && low != 0 then r1 + 1 else r1 + 15) % 16 else r1 % 16

/-- A polynomial of high bits, four bits a coefficient (algorithm 28). -/
def packHigh : List Nat → List Byte
  | a :: b :: r => BitVec.ofNat 8 (a + 16 * b) :: packHigh r
  | _ => []

/-! ### Verification -/

/-- The commitment that a signature's parts give for a row of Â (algorithm 8, steps 9 and 10). -/
def mlCommit (c : MlPoly) (z : List MlPoly) (row : List MlPoly) (t1 : MlPoly) (hints : List Byte) : List Byte :=
  let az := (List.zipWith mlMul row z).foldl mlAdd (List.replicate 256 0)
  let w := invNtt (mlSub az (mlMul c (ntt (mlScale 8192 t1))))
  packHigh (w.mapIdx (fun i x => useHint (hints.any (fun b => b.toNat == i)) x))

/-- The signature of a body under a public key holds, with the empty context string (algorithms 3 and 8). -/
def mlDsaVerify (key sig body : List Byte) : Bool :=
  let part := fun (l : List Byte) (at_ n : Nat) => (l.drop at_).take n
  let hash := fun (n : Nat) (m : List Byte) => (squeeze 136 1 (absorb 136 0x1F m)).take n
  let rho := part key 0 32
  let ct := part sig 0 48
  let zs := (List.range 5).map (fun i => unpackFields 20 (part sig (48 + 640 * i) 640))
  let mu := hash 64 (hash 64 key ++ [0, 0] ++ body)
  match hintsFrom (part sig 3248 55) 0 (part sig 3303 6), sampleInBall ct, (List.range 6).mapM (expandRow rho) with
  | some hints, some c, some rows =>
    let z := zs.map (fun p => ntt (p.map (fun x => (524288 + mlQ - x) % mlQ)))
    let cs := (List.range 6).flatMap (fun i =>
      mlCommit (ntt c) z (rows.getD i []) (unpackFields 10 (part key (32 + 320 * i) 320)) (hints.getD i []))
    zs.all (fun p => p.all (fun x => 196 < x && x < 1048380)) && hash 48 (mu ++ cs) == ct
  | _, _, _ => false

end Sys2Proof.Machine
end

