-- ==== Sys2Proof/Machine/Spdm.lean ====
section
/-! DEFINITION. Requests over SPDM sessions: keys, manifests and attestation (R392 to R394), the domain secret (R410) and IDE
keys (R408). -/

namespace Sys2Proof.Machine

/-- A response of one status byte: 0 for success, 1 for refused. -/
def answerByte (s : State) (p : Nat) (ok : Bool) : State := s.reply p ⟨.successful, [if ok then 0 else 1]⟩

/-- No session reaches a function that is absent: until memory has been trained, and in recovery, only the physical function has
its mailbox, once the ROM has ended (R410). -/
def noSession (s : State) (p vi : Nat) : Bool := s.absent p && ((s.pkg p).halted || s.stage p == 0 || vi != 0)

/-! ### Keys (R172, R393) -/

/-- KEYLOAD writes the material of an ASSIGNED slot of the session VI's current pennant and sets it LOADED. -/
def keyload (p vi slot : Nat) (material : Line) (s : State) : State :=
  let k := s.pkg p
  let h := (Table.get k.keys slot .reset).hdr
  if noSession s p vi then s
  else if 4096 ≤ slot || keyState h != 1 || keyPen h != k.pen vi then answerByte s p false
  else answerByte (s.setPkg p { k with keys := Table.put k.keys slot ⟨setField h 46 2 2, material⟩ }) p true

def execKeyload (p : Nat) (vi : BitVec 8) (slot : Nat) (material : Line) (s : State) : Result :=
  .next (keyload p vi.toNat slot material s)

/-! ### Manifests (R392) -/

def bodyNum (b : List Byte) (off n : Nat) : Nat := leNat ((b.drop off).take n)
def bodyZero (b : List Byte) (off n : Nat) : Bool := ((b.drop off).take n).all (fun x => x == 0)

/-- An entry: its coordinates and its digest. -/
def bodyEntry (b : List Byte) : Nat × BitVec 256 := (bodyNum b 0 3, BitVec.ofNat 256 (bodyNum b 16 32))

/-- The entries of a body, as pieces of 48 bytes. -/
def bodyEntries (b : List Byte) : List (List Byte) := groups 48 (bodyNum b 24 4) (b.drop 64)

/-- A body keeps the layout of R392. -/
def bodyOk (b : List Byte) : Bool :=
  let n := bodyNum b 24 4
  bodyNum b 0 2 == 1 && bodyZero b 2 6 && bodyZero b 28 36 && 1 ≤ n && n ≤ 65536 && b.length == 64 + 48 * n &&
  (bodyEntries b).all (fun e => bodyZero e 3 13)

/-- The VI's current manifest of a number. -/
def Pkg.manifestOf (k : Pkg) (mid : Nat) : Option Manifest :=
  (k.manifests.find? (fun e => e.1 == mid && k.current e.2.pen)).map Prod.snd

/-- Entries that current manifests hold. -/
def Pkg.manifestEntries (k : Pkg) : Nat :=
  ((k.manifests.filter (fun e => k.current e.2.pen)).map (fun e => e.2.entries.length)).foldl (fun a b => a + b) 0

/-- The manifest a body gives, with the pennant of its VI. -/
def newManifest (pen : Pen) (key body : List Byte) : Manifest :=
  ⟨pen, BitVec.ofNat 64 (bodyNum body 8 8), BitVec.ofNat 64 (bodyNum body 16 8), shake256 key, (bodyEntries body).map bodyEntry⟩

def manreg (p vi mid : Nat) (key sig body : List Byte) (s : State) : State :=
  let k := s.pkg p
  if noSession s p vi then s
  else if 1024 ≤ mid || (k.manifestOf mid).isSome || !bodyOk body || key.length != 1952 || sig.length != 3309 ||
      !mlDsaVerify key sig body || 1048576 < k.manifestEntries + bodyNum body 24 4 then answerByte s p false
  else answerByte (s.setPkg p { k with manifests := Table.put k.manifests mid (newManifest (k.pen vi) key body) }) p true

def execManreg (p : Nat) (vi : BitVec 8) (mid : Nat) (key sig body : List Byte) (s : State) : Result :=
  .next (manreg p vi.toNat mid key sig body s)

/-- MANDEL frees a manifest of the session VI. -/
def mandel (p vi mid : Nat) (s : State) : State :=
  let k := s.pkg p
  if noSession s p vi then s
  else match k.manifestOf mid with
    | none => answerByte s p false
    | some m =>
      if m.pen == k.pen vi then answerByte (s.setPkg p { k with manifests := Table.drop k.manifests mid }) p true
      else answerByte s p false

def execMandel (p : Nat) (vi : BitVec 8) (mid : Nat) (s : State) : Result := .next (mandel p vi.toNat mid s)

/-! ### Attestation (R394) -/

/-- A response signed with the identity key. -/
def answerSigned (s : State) (p : Nat) (m : List Byte) : State := s.reply p ⟨.successful, m ++ Sys2Proof.Config.identitySign m⟩

def execGetCertificate (p : Nat) (vi : BitVec 8) (s : State) : Result :=
  .next (if noSession s p vi.toNat then s else answerSigned s p Sys2Proof.Config.certificateChain)

def execChallenge (p : Nat) (vi : BitVec 8) (nonce : List Byte) (s : State) : Result :=
  .next (if noSession s p vi.toNat then s else answerSigned s p nonce)

/-- The firmware image that runs. -/
def Pkg.imgB (k : Pkg) : Bool := !k.images.1 && k.images.2

/-- Measurement block 4: the key-slot headers of a VI, in slot order; a stale slot reads as its reset value and names no VI
(R162). -/
def keyHeaders (k : Pkg) (vi : Nat) : List Byte :=
  (k.keys.filter (fun e => keyPen e.2.hdr == k.pen vi)).flatMap (fun e => leBytes 8 e.2.hdr.toNat)

/-- Measurement block 5: the current manifests of a VI. -/
def manifestBlock (k : Pkg) (vi : Nat) : List Byte :=
  (k.manifests.filter (fun e => e.2.pen == k.pen vi)).flatMap (fun e =>
    leBytes 2 e.1 ++ leBytes 8 e.2.objId.toNat ++ leBytes 8 e.2.objVer.toNat ++ leBytes 32 e.2.keyDigest.toNat)

/-- The five measurement blocks of a session. -/
def measurements (k : Pkg) (vi : Nat) : List Byte :=
  let e := k.vi vi
  leBytes 32 (Sys2Proof.Config.firmwareDigest k.imgB).toNat ++ leBytes 4 (Sys2Proof.Config.firmwareVersion k.imgB).toNat ++
  leBytes 1 (viField e 91 1) ++ leBytes 2 (viVcores e) ++ leBytes 2 (viQcount e) ++ leBytes 2 (viDcount e) ++
  leBytes 32 (shake256 (keyHeaders k vi)).toNat ++ manifestBlock k vi

def execGetMeasurements (p : Nat) (vi : BitVec 8) (s : State) : Result :=
  .next (if noSession s p vi.toNat then s else answerSigned s p (measurements (s.pkg p) vi.toNat))

/-! ### The domain secret and IDE keys (R408, R410) -/

/-- FABKEY is accepted once per cold reset; the bring-up that waited for it is then READY (R410). -/
def fabkey (p : Nat) (secret : BitVec 256) (s : State) : State :=
  let k := s.pkg p
  if noSession s p 0 then s
  else if k.secret.isSome then answerByte s p false
  else answerByte (s.setPkg p { k with secret := some secret }) p true

def execFabkey (p : Nat) (secret : BitVec 256) (s : State) : Result := .next (fabkey p secret s)

/-- IDE_KM programs the key of a function's stream. -/
def ideKm (p vi : Nat) (key : BitVec 256) (s : State) : State :=
  if noSession s p vi then s else s.modPkg p (fun k => { k with ideKeys := Table.put k.ideKeys vi key })

def execIdeKm (p : Nat) (vi : BitVec 8) (key : BitVec 256) (s : State) : Result := .next (ideKm p vi.toNat key s)

end Sys2Proof.Machine
end

