-- ==== Sys2Proof/Machine/Sweep.lean ====
section
/-! DEFINITION. The reclaim sweep (R188 to R190, R356, R361). -/

namespace Sys2Proof.Machine

/-! ### The start of a pass (R188) -/

/-- Some VI has retired generations that no pass covers. -/
def Pkg.sweepDue (k : Pkg) : Bool := k.gens.any (fun e => genSnap e.2 < genRcnt e.2)

/-- Both units are idle. -/
def sweepIdle (s : State) (p : Nat) : Bool := !(s.sweep (die0 p)).run && !(s.sweep (die1 p)).run

def Sweep.start (cycle : Nat) (halves : List SweepRange) (x : Sweep) : Sweep :=
  { x with prog := 0, run := true, begun := cycle, halves := halves }

/-- What a die holds of the claim halves of a VI: the entries of its half, and the nodes of a park area that lies on it. -/
def viHalves (dn : Nat) (e : Nat × BitVec 1024) : List SweepRange :=
  let base := viClaim e.2 (isDie1 dn)
  let entries : List SweepRange := if base == 0 then [] else [⟨e.1, false, base / 64, 8 * 2 ^ viClb e.2⟩]
  let nodes : List SweepRange :=
    if viParkn e.2 == 0 || dieOfGpa (viPark e.2) != dn then [] else [⟨e.1, true, viPark e.2 / 64, viParkn e.2⟩]
  entries ++ nodes
def halvesOf (s : State) (dn : Nat) : List SweepRange := (s.pkg (pkgOf dn)).viMap.flatMap (viHalves dn)

def sweepPassStart (p : Nat) (s : State) : State :=
  if !sweepIdle s p || !(s.pkg p).sweepDue then s
  else
    let s := s.modPkg p (fun k => { k with gens := k.gens.map (fun (v, g) => (v, setField g 8 8 (genRcnt g))) })
    let h0 := halvesOf s (die0 p)
    let h1 := halvesOf s (die1 p)
    (s.setSweep (die0 p) (Sweep.start s.cycle h0)).setSweep (die1 p) (Sweep.start s.cycle h1)

def execSweepPassStart (p : Nat) (s : State) : Result := .next (sweepPassStart p s)

/-! ### The units of a die, in the order of R188 (log entry 12) -/

/-- A pennant-carrying unit of a die. -/
inductive SweepUnit where
  /-- A line of device memory, by its offset divided by 64. -/
  | line (n : Nat)
  | spadLine (core n : Nat)
  | tileWord (core t : Nat)
  | slotLine (core slot n : Nat)
  | slotHeader (core slot : Nat)
  | env (core i : Nat)
  | queue (i : Nat)
  | door (i : Nat)
  /-- A claim entry, and a park node, of a VI, by their first line. -/
  | claim (vi line : Nat)
  | node (vi line : Nat)
  /-- A multicast address group, 64·VI + group. -/
  | mcast (i : Nat)
  | key (i : Nat)
  | counters (cl : Nat)
  | trace (cl : Nat)
  deriving DecidableEq, Repr

def stackedLines : Nat := 805306368
def lpddrLines : Nat := 4294967296
/-- Units of one core in steps 3, 4 and 5: scratchpad lines and tile words; weight-slot lines and headers; environments. -/
def spadUnits : Nat := 32896
def slotUnits : Nat := 2056
def envUnits : Nat := 256
/-- The first unit of steps 3 to 7, and of steps 8 and 9 where there is no claim half. -/
def step3 : Nat := stackedLines + lpddrLines
def step4 : Nat := step3 + 144 * spadUnits
def step5 : Nat := step4 + 144 * slotUnits
def step6 : Nat := step5 + 144 * envUnits
def step8 : Nat := step6 + 4096 + 16384
def step9 : Nat := step8 + 16384 + 4096

/-- Unit number i of the claim halves. -/
def claimUnit : List SweepRange → Nat → Option SweepUnit
  | [], _ => none
  | r :: l, i =>
    if i < r.count then some (if r.node then .node r.vi (r.line + 2 * i) else .claim r.vi (r.line + i))
    else claimUnit l (i - r.count)

/-- Unit number n of a die outside step 7. -/
def fixedUnit (n : Nat) : SweepUnit :=
  if n < stackedLines then .line n
  else if n < step3 then .line (17179869184 + (n - stackedLines))
  else if n < step4 then
    let c := (n - step3) / spadUnits
    let i := (n - step3) % spadUnits
    if i < 32768 then .spadLine c i else .tileWord c (i - 32768)
  else if n < step5 then
    let c := (n - step4) / slotUnits
    let i := (n - step4) % slotUnits
    if i % 257 < 256 then .slotLine c (i / 257) (i % 257) else .slotHeader c (i / 257)
  else if n < step6 then .env ((n - step5) / envUnits) ((n - step5) % envUnits)
  else if n < step6 + 4096 then .queue (n - step6)
  else if n < step8 then .door (n - step6 - 4096)
  else if n < step8 + 16384 then .mcast (n - step8)
  else if n < step9 then .key (n - step8 - 16384)
  else if (n - step9) % 2 == 0 then .counters ((n - step9) / 2)
  else .trace ((n - step9) / 2)

/-- Unit number n of a pass. -/
def Sweep.unit (x : Sweep) (n : Nat) : SweepUnit :=
  if n < step8 then fixedUnit n
  else match claimUnit x.halves (n - step8) with
    | some u => u
    | none => fixedUnit (n - x.extra)

/-! ### A visit (R188) -/

/-- A pennant after the visit of its unit. -/
def sweepPen (k : Pkg) (p : Pen) : Pen := if k.inSnap p then voidPen else p

/-- A line's pennant after the visit. -/
def Memory.sweepLine (m : Memory) (k : Pkg) (l : Nat) : Memory := if k.inSnap (m.pen l) then m.setPen l voidPen else m

/-- A 16-bit pennant field at bit `lo` of a descriptor after the visit. -/
def sweepField {n : Nat} (k : Pkg) (lo : Nat) (x : BitVec n) : BitVec n :=
  if k.inSnap (BitVec.ofNat 16 (field x lo 16)) then setField x lo 16 0xFFFF else x

/-- A line still lies in a claim half, or in the park area, that a VI has on a die. -/
def inHalf (s : State) (dn vi line : Nat) (node : Bool) : Bool :=
  (viHalves dn (vi, (s.pkg (pkgOf dn)).vi vi)).any (fun r =>
    r.node == node && r.line ≤ line && line < r.line + (if node then 2 * r.count else r.count))

/-- The effect of a visit. Key slot i takes manifest i with it (R392). -/
def visitUnit (s : State) (dn : Nat) (u : SweepUnit) : State :=
  let p := pkgOf dn
  let k := s.pkg p
  match u with
  | .line n => { s with mem := s.mem.sweepLine k (dn * dieSpan / 64 + n) }
  | .spadLine c n => s.modCore (coreKey dn c) (fun x => { x with spad := x.spad.sweepLine k n })
  | .tileWord c t =>
    if k.inSnap (s.tile (coreKey dn c) t).pen then
      s.modCore (coreKey dn c) (fun x => x.setTile t { x.tile t with pen := voidPen })
    else s
  | .slotLine c i n =>
    s.modCore (coreKey dn c) (fun x => { x with slots := Table.mapIf x.slots (fun j _ => j == i) (fun (y : Slot) => { y with mem := y.mem.sweepLine k n }) })
  | .slotHeader c i =>
    s.modCore (coreKey dn c) (fun x => { x with slots := Table.mapIf x.slots (fun j _ => j == i) (fun (y : Slot) => { y with hdr := sweepField k 0 y.hdr }) })
  | .env c i =>
    s.modCore (coreKey dn c) (fun x => { x with env := Table.mapIf x.env (fun j _ => j == i) (fun (y : Env) => { y with pen := sweepPen k y.pen }) })
  | .queue i =>
    let q := if isDie1 dn then 4096 + i else i
    s.setPkg p { k with queues := Table.mapIf k.queues (fun j _ => j == q) (sweepField k 432) }
  | .door i =>
    let n := if isDie1 dn then 16384 + i else i
    s.setPkg p { k with doors := Table.mapIf k.doors (fun j _ => j == n) (fun (d : Door) => { d with desc := sweepField k 432 d.desc }) }
  | .claim vi l =>
    let x := s.mem.raw l
    if inHalf s dn vi l false && k.inSnap (clPen x) then { s with mem := s.mem.setLine l (setField x 144 16 0xFFFF) } else s
  | .node vi l => if inHalf s dn vi l true then { s with mem := (s.mem.sweepLine k l).sweepLine k (l + 1) } else s
  | .mcast i => s.setPkg p { k with mcast := Table.mapIf k.mcast (fun j _ => j == i) (sweepField k 48) }
  | .key i =>
    let gone := k.inSnap (keyPen (Table.get k.keys i .reset).hdr)
    s.setPkg p { k with keys := if gone then Table.drop k.keys i else k.keys,
                        manifests := Table.mapIf k.manifests (fun j _ => j == i) (fun (m : Manifest) => { m with pen := sweepPen k m.pen }) }
  | .counters cl =>
    s.modDie dn (fun d => { d with clusters := Table.mapIf d.clusters (fun j _ => j == cl) (fun (x : Cluster) =>
      { x with guest := { x.guest with cfg := sweepField k 48 x.guest.cfg } }) })
  | .trace _ => s

/-- Nothing that carries a pennant of the SNAP generations is under way in a package: no command or request, no packet at
its dies, and no delivery to its tiles (R356). -/
def snapQuiet (s : State) (p : Nat) : Bool :=
  let k := s.pkg p
  !s.packets.any (fun x => pkgOf x.here == p && k.inSnap x.pen) &&
  !s.deliveries.any (fun d => pkgOf d.die == p && k.inSnap d.pen) &&
  !([die0 p, die1 p] : List Nat).any (fun dn => (s.router dn).requests.any (fun q => k.inSnap q.msg.pen)) &&
  !s.ctxs.any (fun e => e.2.pkg == p && e.2.cmds.any (fun m => k.inSnap (cmdPen m.words)))

/-- A unit visits its next unit, once nothing of the SNAP generations is under way, and no earlier than 5 ms after the pass
started (R356, R378). -/
def sweepVisit (dn : Nat) (s : State) : State :=
  let x := s.sweep dn
  let n := x.prog.toNat
  if !x.run || x.target ≤ n || s.cycle < x.begun + cycles5ms || !snapQuiet s (pkgOf dn) then s
  else (visitUnit s dn (x.unit n)).setSweep dn (fun x => { x with prog := x.prog + 1 })

def execSweepVisit (dn : Nat) (s : State) : Result := .next (sweepVisit dn s)

/-! ### The end of a pass (R189) -/

def execSweepPassEnd (p : Nat) (s : State) : Result := .next (sweepPassEnd p s)

end Sys2Proof.Machine
end

