-- ==== Sys2Proof/Machine/Agents.lean ====
section
/-! DEFINITION. The acts of the agents other than the streams, performed: each is the meaning of the row of its name; a window read
and what the loader tells have no row. -/

namespace Sys2Proof.Machine

/-- An act performed. -/
def perform (e : Act) (s : State) : Result :=
  match e with
  | .vPushLand => execVPushLand s
  | .kstepCommit => execKstepCommit s
  | .mhadRowWrite => execMhadRowWrite s
  | .mdrnRowLand => execMdrnRowLand s
  | .mzeroEffect => execMzeroEffect s
  | .mwldSlotWrite => execMwldSlotWrite s
  | .weightPortFetch => execWeightPortFetch s
  | .dispatch k => execDispatch k s
  | .bankSwitch c => execBankSwitch c s
  | .sliceExpiry c => execSliceExpiry c s
  | .tileWaitTimeout k => execTileWaitTimeout k s
  | .contextSave k slot => execContextSave k slot s
  | .contextRestore slot k => execContextRestore slot k s
  | .trapEntry => execTrapEntry s
  | .contextEnd k cause => execContextEnd k cause s
  | .commitComplete g => execCommitComplete g s
  | .barrierEvaluate p q sig => execBarrierEvaluate p q sig s
  | .heldPushEnter p q => execHeldPushEnter p q s
  | .engineTakeCommand k seq => execEngineTakeCommand k seq s
  | .engineCommandComplete k seq => execEngineCommandComplete k seq s
  | .deliveryArrive n => execDeliveryArrive n s
  | .deliveryLanded n => execDeliveryLanded n s
  | .sigwaitSatisfy k seq => execSigwaitSatisfy k seq s
  | .traceRecordWrite dn cl hyp => execTraceRecordWrite dn cl hyp s
  | .hostDoorAppend p vi door ofs data ide => execHostDoorAppend p vi door ofs data ide s
  | .doorHeadWrite p vi door v ide => execDoorHeadWrite p vi door v ide s
  | .hostMemRead p vi va len ide => execHostMemRead p vi va len ide s
  | .hostMemWrite p vi va data ide => execHostMemWrite p vi va data ide s
  | .overflowCounterClear p vi door v => execOverflowCounterClear p vi door v s
  | .counterConfigWrite dn cl hyp vi v => execCounterConfigWrite dn cl hyp vi v s
  | .traceCounterClear dn cl hyp vi lost v => execTraceCounterClear dn cl hyp vi lost v s
  | .tctlWrite dn cl hyp vi v => execTctlWrite dn cl hyp vi v s
  | .trptrWrite dn cl hyp vi v => execTrptrWrite dn cl hyp vi v s
  | .plimWrite p v => execPlimWrite p v s
  | .registerWrite p vi ofs v => execRegisterWrite p vi ofs v s
  | .registerRead p vi ofs => execRegisterRead p vi ofs s
  | .doorRead p vi door ofs ide => execDoorRead p vi door ofs ide s
  | .preempt p vi vcn g => execPreempt p vi vcn g s
  | .release p vi vcn g => execRelease p vi vcn g s
  | .cancel p vi vcn g => execCancel p vi vcn g s
  | .seed p vi index record => execSeed p vi index record s
  | .keyload p vi slot material => execKeyload p vi slot material s
  | .manreg p vi mid key sig body => execManreg p vi mid key sig body s
  | .mandel p vi mid => execMandel p vi mid s
  | .getCertificate p vi => execGetCertificate p vi s
  | .challenge p vi nonce => execChallenge p vi nonce s
  | .getMeasurements p vi => execGetMeasurements p vi s
  | .fabkey p secret => execFabkey p secret s
  | .ideKm p vi key => execIdeKm p vi key s
  | .stopInterface p vi => execStopInterface p vi s
  | .functionLevelReset p vi => execFunctionLevelReset p vi s
  | .flrShutterResume p vi => execFlrShutterResume p vi s
  | .coldReset p imgA imgB => execColdReset p imgA imgB s
  | .thermalHalt p celsius => execThermalHalt p celsius s
  | .powerSample p watts => execPowerSample p watts s
  | .throttleStep p => execThrottleStep p s
  | .sweepPassStart p => execSweepPassStart p s
  | .sweepVisit dn => execSweepVisit dn s
  | .sweepPassEnd p => execSweepPassEnd p s
  | .flitCrcRetry dn link => execFlitCrcRetry dn link s
  | .linkDead dn link => execLinkDead dn link s
  | .linkReturn dn link => execLinkReturn dn link s
  | .packetForward n => execPacketForward n s
  | .packetWaitExpiry n => execPacketWaitExpiry n s
  | .wr n => execWr n s
  | .dlv n => execDlv n s
  | .rd n => execRd n s
  | .rdr n => execRdr n s
  | .red n => execRed n s
  | .hop n => execHop n s
  | .lrp n => execLrp n s
  | .rsp n => execRsp n s
  | .mgt n => execMgt n s
  | .requestReissue dn n => execRequestReissue dn n s
  | .remoteTimeout k seq cmd tdie addr => execRemoteTimeout k seq cmd tdie addr s
  | .admitRepeat n => execAdmitRepeat n s
  | .deliveryRetry n => execDeliveryRetry n s
  | .bootstrapMailboxGo p v => execBootstrapMailboxGo p v s
  | .lockInterface p vi => execLockInterface p vi s
  | .startInterface p vi => execStartInterface p vi s
  | .loadImage p vi spill => .next (loadImage p vi.toNat spill s)
  | .loadGroup p vi die va => .next (loadGroup p vi.toNat die va.toNat s)

end Sys2Proof.Machine
end

