-- ==== Sys2Proof/Machine/VectorControl.lean ====
section
/-! DEFINITION. The mask stack, branches, the loop, outcomes and VAPPLY of the V stream (R312 to R317). -/

namespace Sys2Proof.Machine

/-! ### The mask stack (R79, R312) -/

/-- The lanes with a true element. -/
def trueLanes (w : VWord) (v : VIn) : BitVec 128 :=
  let t := tyOf w
  BitVec.ofNat 128 ((List.range 128).foldl (fun n i =>
    if (List.range t.count).any (fun e => t.truth (elem t (v.x.getD i 0) e)) then n + 2 ^ i else n) 0)

def mpushV (w : VWord) (s : State) : State :=
  issueV w { srcs := [srcX w], overflows := fun c => 16 ≤ c.mask.length,
             act := fun v s =>
               retireV w (s.modCur (fun c => { c with mask := ⟨s.pen, v.top &&& trueLanes w v⟩ :: c.mask })) } s

/-- The top inverted against the entry below it. -/
def Ctx.invertMask (c : Ctx) (p : Pen) : Ctx :=
  match c.mask with
  | [] => c
  | [t] => { c with mask := [⟨p, ~~~ t.read p⟩] }
  | t :: b :: r => { c with mask := ⟨p, b.read p &&& ~~~ t.read p⟩ :: b :: r }

def minvV (w : VWord) (s : State) : State :=
  issueV w { srcs := [], under := fun c => c.mask.isEmpty,
             act := fun _ s =>
               retireV w (s.modCur (fun c => c.invertMask s.pen)) } s

def mpopV (w : VWord) (s : State) : State :=
  issueV w { srcs := [], under := fun c => c.mask.isEmpty,
             act := fun _ s =>
               retireV w (s.modCur (fun c => { c with mask := c.mask.drop 1 })) } s

def execMpush (w : VWord) (s : State) : Result := .next (mpushV w s)
def execMinv (w : VWord) (s : State) : Result := .next (minvV w s)
def execMpop (w : VWord) (s : State) : Result := .next (mpopV w s)

/-! ### Branches (R28, R313, R228) -/

/-- A killed word pushes nothing, posts nothing and updates no zc. -/
def Ctx.squashV (c : Ctx) : Ctx := { c with flights := c.flights.filter (fun f => !f.squash) }

/-- The token post of a word that does not fall through. -/
def postV (w : VWord) (s : State) : State :=
  match postIdx 2 w.tkp with
  | none => s
  | some i => s.modCur (fun c => c.postTok s.pen i)

def targetV (w : VWord) (s : State) : Dword := dispTo s.cur.pcV w.pa 12

/-- A taken branch. -/
def takeV (w : VWord) (s : State) : State := ((postV w s).modCur Ctx.squashV).jump .v (targetV w s)

def vbzV (w : VWord) (s : State) : State :=
  issueV w { srcs := [], act := fun v s => if v.top == 0 then takeV w s else retireV w s } s

def vbrV (w : VWord) (s : State) : State :=
  issueV w { srcs := [], waits := fun c => c.bqSV.isEmpty,
             act := fun _ s =>
               match s.cur.bqSV with
               | [] => s
               | x :: r =>
                 let s' := s.modCur (fun c => { c with bqSV := r })
                 if x.read s.pen == 1 then takeV w s' else retireV w s' } s

/-- VJMP; with displacement 0 the stream ends where it stands. -/
def vjmpV (w : VWord) (s : State) : State :=
  issueV w { srcs := [],
             act := fun _ s =>
               if w.pa == 0 then (postV w s).modCur (fun c => { c with idleV := true }) else takeV w s } s

def execVbz (w : VWord) (s : State) : Result := .next (vbzV w s)
def execVbr (w : VWord) (s : State) : Result := .next (vbrV w s)
def execVjmp (w : VWord) (s : State) : Result := .next (vjmpV w s)

def bqsndV (w : VWord) (s : State) : State :=
  issueV w { srcs := [], waits := fun c => 16 ≤ c.bqVS.length,
             act := fun v s =>
               retireV w (s.modCur (fun c => { c with bqVS := c.bqVS ++ [⟨s.pen, if v.top == 0 then 0 else 1⟩] })) } s

def execVbqsnd (w : VWord) (s : State) : Result := .next (bqsndV w s)

/-! ### The loop (R315) -/

/-- VLOOP. In the body of an active loop it is a decode check that fails, before any wait and whatever its guard (R199, R293,
R315). -/
def vloopV (w : VWord) (s : State) : State :=
  if s.cur.loopV.act then s.illegal .v
  else
    let start := fun (v : VIn) (s : State) => (postV w s).modCur (fun c =>
      c.startLoop s.pen .v (v.x.getD 0 0) (w.pa.toNat / 2048 + 1) (w.pa.toNat % 2048))
    issueV w { srcs := [intSource w.x], act := start } s

def execVloop (w : VWord) (s : State) : Result := .next (vloopV w s)

/-! ### VAPPLY (R316, R317) -/

/-- The active lanes in ascending order. -/
def laneList (m : BitVec 128) : List Nat := (List.range 128).filter (fun i => m.getLsbD i)

/-- The checks of R316's pseudocode, made only with an active lane. -/
def vapplyCheck (v : VIn) (s : State) : Option Nat :=
  let c := s.cur
  let n := (laneList v.active).length
  if n == 0 then none
  else
    let h := c.readK s.pen 0
    match envOf s c.die c.vi.toNat h with
    | none => some fNullK
    | some (_, e) => match routeOfVcn s c.die c.vi.toNat (hVcore h) with
      | none => some fNullK
      | some _ => if 65535 < e.refs.toNat + n then some fEnvFull else none

def vapplyAct (w : VWord) (v : VIn) (s : State) : State :=
  let c := s.cur
  let lanes := laneList v.active
  let h := c.readK s.pen 0
  let recs := lanes.map (fun i => taskRecord true h c.frame 0 ((v.x.getD i 0).setWidth 64) (BitVec.ofNat 64 i)
    (c.vcn.setWidth 64) 0)
  match (if lanes.isEmpty then none else routeOfVcn s c.die c.vi.toNat (hVcore h)) with
  | none => flyV w 4 (.push .nothing Lanes.zero) s
  | some (p, q) =>
    let s := (takeRefs s c.die c.vi.toNat h lanes.length).getD s
    flyV w 4 { Flight.push .nothing Lanes.zero with recs := recs, queue := 8192 * p + q } s

def execVapply (w : VWord) (s : State) : Result :=
  .next (issueV w { srcs := [srcX w], check := vapplyCheck, act := vapplyAct w } s)

end Sys2Proof.Machine
end

