-- ==== Sys2Proof/Machine/Dispatch.lean ====
section
/-! DEFINITION. Every instruction of the opcode table to its meaning. -/

namespace Sys2Proof.Machine

def exec (i : Instr) (s : State) : Host.Outcome State Fault Refusal :=
  match i with
  | .add d a b => Sys2Proof.Machine.execAdd d a b s
  | .sub d a b => Sys2Proof.Machine.execSub d a b s
  | .and d a b => Sys2Proof.Machine.execAnd d a b s
  | .or d a b => Sys2Proof.Machine.execOr d a b s
  | .xor d a b => Sys2Proof.Machine.execXor d a b s
  | .sll d a b => Sys2Proof.Machine.execSll d a b s
  | .srl d a b => Sys2Proof.Machine.execSrl d a b s
  | .sra d a b => Sys2Proof.Machine.execSra d a b s
  | .mul d a b => Sys2Proof.Machine.execMul d a b s
  | .mulh d a b => Sys2Proof.Machine.execMulh d a b s
  | .mulhu d a b => Sys2Proof.Machine.execMulhu d a b s
  | .div d a b => Sys2Proof.Machine.execDiv d a b s
  | .divu d a b => Sys2Proof.Machine.execDivu d a b s
  | .rem d a b => Sys2Proof.Machine.execRem d a b s
  | .remu d a b => Sys2Proof.Machine.execRemu d a b s
  | .slt d a b => Sys2Proof.Machine.execSlt d a b s
  | .sltu d a b => Sys2Proof.Machine.execSltu d a b s
  | .min d a b => Sys2Proof.Machine.execMin d a b s
  | .max d a b => Sys2Proof.Machine.execMax d a b s
  | .minu d a b => Sys2Proof.Machine.execMinu d a b s
  | .maxu d a b => Sys2Proof.Machine.execMaxu d a b s
  | .clz d a => Sys2Proof.Machine.execClz d a s
  | .popc d a => Sys2Proof.Machine.execPopc d a s
  | .addi d a imm => Sys2Proof.Machine.execAddi d a imm s
  | .andi d a imm => Sys2Proof.Machine.execAndi d a imm s
  | .ori d a imm => Sys2Proof.Machine.execOri d a imm s
  | .xori d a imm => Sys2Proof.Machine.execXori d a imm s
  | .slli d a imm => Sys2Proof.Machine.execSlli d a imm s
  | .srli d a imm => Sys2Proof.Machine.execSrli d a imm s
  | .srai d a imm => Sys2Proof.Machine.execSrai d a imm s
  | .slti d a imm => Sys2Proof.Machine.execSlti d a imm s
  | .sltiu d a imm => Sys2Proof.Machine.execSltiu d a imm s
  | .lui d imm => Sys2Proof.Machine.execLui d imm s
  | .li d imm => Sys2Proof.Machine.execLi d imm s
  | .ldb d a imm => Sys2Proof.Machine.execLdb d a imm s
  | .ldbu d a imm => Sys2Proof.Machine.execLdbu d a imm s
  | .ldh d a imm => Sys2Proof.Machine.execLdh d a imm s
  | .ldhu d a imm => Sys2Proof.Machine.execLdhu d a imm s
  | .ldw d a imm => Sys2Proof.Machine.execLdw d a imm s
  | .ldwu d a imm => Sys2Proof.Machine.execLdwu d a imm s
  | .ldd d a imm => Sys2Proof.Machine.execLdd d a imm s
  | .stb d a imm => Sys2Proof.Machine.execStb d a imm s
  | .sth d a imm => Sys2Proof.Machine.execSth d a imm s
  | .stw d a imm => Sys2Proof.Machine.execStw d a imm s
  | .std d a imm => Sys2Proof.Machine.execStd d a imm s
  | .beq a b disp => Sys2Proof.Machine.execBeq a b disp s
  | .bne a b disp => Sys2Proof.Machine.execBne a b disp s
  | .blt a b disp => Sys2Proof.Machine.execBlt a b disp s
  | .bge a b disp => Sys2Proof.Machine.execBge a b disp s
  | .bltu a b disp => Sys2Proof.Machine.execBltu a b disp s
  | .bgeu a b disp => Sys2Proof.Machine.execBgeu a b disp s
  | .j disp => Sys2Proof.Machine.execJ disp s
  | .jal disp => Sys2Proof.Machine.execJal disp s
  | .jr a => Sys2Proof.Machine.execJr a s
  | .jalr d a => Sys2Proof.Machine.execJalr d a s
  | .strm d a => Sys2Proof.Machine.execStrm d a s
  | .loop a stg len => Sys2Proof.Machine.execLoop a stg len s
  | .bqrcv q disp => Sys2Proof.Machine.execBqrcv q disp s
  | .toks d => Sys2Proof.Machine.execToks d s
  | .tokw d => Sys2Proof.Machine.execTokw d s
  | .bqsnd d a => Sys2Proof.Machine.execBqsnd d a s
  | .phase => Sys2Proof.Machine.execPhase s
  | .gbar a b => Sys2Proof.Machine.execGbar a b s
  | .join d a b => Sys2Proof.Machine.execJoin d a b s
  | .leave a => Sys2Proof.Machine.execLeave a s
  | .spawn d a b => Sys2Proof.Machine.execSpawn d a b s
  | .tend => Sys2Proof.Machine.execTend s
  | .yield => Sys2Proof.Machine.execYield s
  | .claim d a b c => Sys2Proof.Machine.execClaim d a b c s
  | .clpark a b c => Sys2Proof.Machine.execClpark a b c s
  | .fulfil d a b c => Sys2Proof.Machine.execFulfil d a b c s
  | .abandon d a b => Sys2Proof.Machine.execAbandon d a b s
  | .capt d a b => Sys2Proof.Machine.execCapt d a b s
  | .captr d a b => Sys2Proof.Machine.execCaptr d a b s
  | .apply d a b => Sys2Proof.Machine.execApply d a b s
  | .kdup d a => Sys2Proof.Machine.execKdup d a s
  | .krel d => Sys2Proof.Machine.execKrel d s
  | .kenv d a => Sys2Proof.Machine.execKenv d a s
  | .doorw d a => Sys2Proof.Machine.execDoorw d a s
  | .doors a b => Sys2Proof.Machine.execDoors a b s
  | .csrr d csr => Sys2Proof.Machine.execCsrr d csr s
  | .csrw d csr => Sys2Proof.Machine.execCsrw d csr s
  | .nop => Sys2Proof.Machine.execNop s
  | .eret => Sys2Proof.Machine.execEret s
  | .wfe => Sys2Proof.Machine.execWfe s
  | .brk => Sys2Proof.Machine.execBrk s
  | .trap imm => Sys2Proof.Machine.execTrap imm s
  | .vishut d a b => Sys2Proof.Machine.execVishut d a b s
  | .vikeyz d a b => Sys2Proof.Machine.execVikeyz d a b s
  | .virev d a b => Sys2Proof.Machine.execVirev d a b s
  | .vimapLeaf d a => Sys2Proof.Machine.execVimapLeaf d a s
  | .vimapLink d a => Sys2Proof.Machine.execVimapLink d a s
  | .vimapOwn d a => Sys2Proof.Machine.execVimapOwn d a s
  | .vimapEvict d a => Sys2Proof.Machine.execVimapEvict d a s
  | .vimapReturn d a => Sys2Proof.Machine.execVimapReturn d a s
  | .vimapFail d a => Sys2Proof.Machine.execVimapFail d a s
  | .vimapVient d a => Sys2Proof.Machine.execVimapVient d a s
  | .vimapCore d a => Sys2Proof.Machine.execVimapCore d a s
  | .vimapQueue d a => Sys2Proof.Machine.execVimapQueue d a s
  | .vimapDoor d a => Sys2Proof.Machine.execVimapDoor d a s
  | .vimapWindow d a => Sys2Proof.Machine.execVimapWindow d a s
  | .vimapKey d a => Sys2Proof.Machine.execVimapKey d a s
  | .vimapRoute d a => Sys2Proof.Machine.execVimapRoute d a s
  | .vimapMcast d a => Sys2Proof.Machine.execVimapMcast d a s
  | .vimapTblpg d a => Sys2Proof.Machine.execVimapTblpg d a s
  | .addA d a b => Sys2Proof.Machine.execAddA d a b s
  | .subA d a b => Sys2Proof.Machine.execSubA d a b s
  | .andA d a b => Sys2Proof.Machine.execAndA d a b s
  | .orA d a b => Sys2Proof.Machine.execOrA d a b s
  | .xorA d a b => Sys2Proof.Machine.execXorA d a b s
  | .sllA d a b => Sys2Proof.Machine.execSllA d a b s
  | .srlA d a b => Sys2Proof.Machine.execSrlA d a b s
  | .sraA d a b => Sys2Proof.Machine.execSraA d a b s
  | .mulA d a b => Sys2Proof.Machine.execMulA d a b s
  | .minA d a b => Sys2Proof.Machine.execMinA d a b s
  | .maxA d a b => Sys2Proof.Machine.execMaxA d a b s
  | .minuA d a b => Sys2Proof.Machine.execMinuA d a b s
  | .maxuA d a b => Sys2Proof.Machine.execMaxuA d a b s
  | .addiA d a imm => Sys2Proof.Machine.execAddiA d a imm s
  | .andiA d a imm => Sys2Proof.Machine.execAndiA d a imm s
  | .oriA d a imm => Sys2Proof.Machine.execOriA d a imm s
  | .xoriA d a imm => Sys2Proof.Machine.execXoriA d a imm s
  | .slliA d a imm => Sys2Proof.Machine.execSlliA d a imm s
  | .srliA d a imm => Sys2Proof.Machine.execSrliA d a imm s
  | .sraiA d a imm => Sys2Proof.Machine.execSraiA d a imm s
  | .luiA d imm => Sys2Proof.Machine.execLuiA d imm s
  | .liA d imm => Sys2Proof.Machine.execLiA d imm s
  | .ldv d a consume post => Sys2Proof.Machine.execLdv d a consume post s
  | .ldvs d a b consume post => Sys2Proof.Machine.execLdvs d a b consume post s
  | .ldvg d a b consume post => Sys2Proof.Machine.execLdvg d a b consume post s
  | .stv d a post => Sys2Proof.Machine.execStv d a post s
  | .stvs d a b post => Sys2Proof.Machine.execStvs d a b post s
  | .stvg d a b post => Sys2Proof.Machine.execStvg d a b post s
  | .abrEq a b disp => Sys2Proof.Machine.execAbrEq a b disp s
  | .abrNe a b disp => Sys2Proof.Machine.execAbrNe a b disp s
  | .abrLt a b disp => Sys2Proof.Machine.execAbrLt a b disp s
  | .abrGe a b disp => Sys2Proof.Machine.execAbrGe a b disp s
  | .abrLtu a b disp => Sys2Proof.Machine.execAbrLtu a b disp s
  | .abrGeu a b disp => Sys2Proof.Machine.execAbrGeu a b disp s
  | .ajmp disp => Sys2Proof.Machine.execAjmp disp s
  | .aloop a stg len => Sys2Proof.Machine.execAloop a stg len s
  | .abrBq disp => Sys2Proof.Machine.execAbrBq disp s
  | .toksA d => Sys2Proof.Machine.execToksA d s
  | .tokwA d => Sys2Proof.Machine.execTokwA d s
  | .bqsndA a => Sys2Proof.Machine.execBqsndA a s
  | .talloc d => Sys2Proof.Machine.execTalloc d s
  | .tfree a => Sys2Proof.Machine.execTfree a s
  | .twaitf a => Sys2Proof.Machine.execTwaitf a s
  | .twaite a => Sys2Proof.Machine.execTwaite a s
  | .tsetf a => Sys2Proof.Machine.execTsetf a s
  | .tclr a => Sys2Proof.Machine.execTclr a s
  | .tstat d a => Sys2Proof.Machine.execTstat d a s
  | .wdset d a b => Sys2Proof.Machine.execWdset d a b s
  | .cpy d a b => Sys2Proof.Machine.execCpy d a b s
  | .cpyf d a b => Sys2Proof.Machine.execCpyf d a b s
  | .cpymc d a b => Sys2Proof.Machine.execCpymc d a b s
  | .cpylr d a b => Sys2Proof.Machine.execCpylr d a b s
  | .cpyrd d a b => Sys2Proof.Machine.execCpyrd d a b s
  | .pref a b => Sys2Proof.Machine.execPref a b s
  | .sacc d a => Sys2Proof.Machine.execSacc d a s
  | .sigdec a => Sys2Proof.Machine.execSigdec a s
  | .sigwait a b => Sys2Proof.Machine.execSigwait a b s
  | .jdec a => Sys2Proof.Machine.execJdec a s
  | .cres d => Sys2Proof.Machine.execCres d s
  | .nopA => Sys2Proof.Machine.execNopA s
  | .brkA => Sys2Proof.Machine.execBrkA s
  | .vadd w => Sys2Proof.Machine.execVadd w s
  | .vsub w => Sys2Proof.Machine.execVsub w s
  | .vmul w => Sys2Proof.Machine.execVmul w s
  | .vdiv w => Sys2Proof.Machine.execVdiv w s
  | .vmin w => Sys2Proof.Machine.execVmin w s
  | .vmax w => Sys2Proof.Machine.execVmax w s
  | .vabs w => Sys2Proof.Machine.execVabs w s
  | .vneg w => Sys2Proof.Machine.execVneg w s
  | .vfma w => Sys2Proof.Machine.execVfma w s
  | .vfms w => Sys2Proof.Machine.execVfms w s
  | .vand w => Sys2Proof.Machine.execVand w s
  | .vor w => Sys2Proof.Machine.execVor w s
  | .vxor w => Sys2Proof.Machine.execVxor w s
  | .vshl w => Sys2Proof.Machine.execVshl w s
  | .vshr w => Sys2Proof.Machine.execVshr w s
  | .vmulh w => Sys2Proof.Machine.execVmulh w s
  | .vexp2 w => Sys2Proof.Machine.execVexp2 w s
  | .vlog2 w => Sys2Proof.Machine.execVlog2 w s
  | .vrcp w => Sys2Proof.Machine.execVrcp w s
  | .vrsq w => Sys2Proof.Machine.execVrsq w s
  | .vtanh w => Sys2Proof.Machine.execVtanh w s
  | .vsig w => Sys2Proof.Machine.execVsig w s
  | .vceq w => Sys2Proof.Machine.execVceq w s
  | .vcne w => Sys2Proof.Machine.execVcne w s
  | .vclt w => Sys2Proof.Machine.execVclt w s
  | .vcle w => Sys2Proof.Machine.execVcle w s
  | .vsel w => Sys2Proof.Machine.execVsel w s
  | .vcvt w => Sys2Proof.Machine.execVcvt w s
  | .vqd8 w => Sys2Proof.Machine.execVqd8 w s
  | .vqi8 w => Sys2Proof.Machine.execVqi8 w s
  | .vsca w => Sys2Proof.Machine.execVsca w s
  | .vscd w => Sys2Proof.Machine.execVscd w s
  | .vssel w => Sys2Proof.Machine.execVssel w s
  | .vrsum w => Sys2Proof.Machine.execVrsum w s
  | .vrmax w => Sys2Proof.Machine.execVrmax w s
  | .vrmin w => Sys2Proof.Machine.execVrmin w s
  | .vrot w => Sys2Proof.Machine.execVrot w s
  | .vperm w => Sys2Proof.Machine.execVperm w s
  | .vpack w => Sys2Proof.Machine.execVpack w s
  | .vunpk w => Sys2Proof.Machine.execVunpk w s
  | .vmov w => Sys2Proof.Machine.execVmov w s
  | .vldi w => Sys2Proof.Machine.execVldi w s
  | .vrseed w => Sys2Proof.Machine.execVrseed w s
  | .mpush w => Sys2Proof.Machine.execMpush w s
  | .minv w => Sys2Proof.Machine.execMinv w s
  | .mpop w => Sys2Proof.Machine.execMpop w s
  | .vbz w => Sys2Proof.Machine.execVbz w s
  | .vbr w => Sys2Proof.Machine.execVbr w s
  | .vjmp w => Sys2Proof.Machine.execVjmp w s
  | .vloop w => Sys2Proof.Machine.execVloop w s
  | .vapply w => Sys2Proof.Machine.execVapply w s
  | .vscat w => Sys2Proof.Machine.execVscat w s
  | .vbqsnd w => Sys2Proof.Machine.execVbqsnd w s
  | .mma w => Sys2Proof.Machine.execMma w s
  | .mmaw w => Sys2Proof.Machine.execMmaw w s
  | .mmaq w => Sys2Proof.Machine.execMmaq w s
  | .mhad w => Sys2Proof.Machine.execMhad w s
  | .mwld w => Sys2Proof.Machine.execMwld w s
  | .mdrn w => Sys2Proof.Machine.execMdrn w s
  | .mzero w => Sys2Proof.Machine.execMzero w s
  | .mloop w => Sys2Proof.Machine.execMloop w s
  | .mbr w => Sys2Proof.Machine.execMbr w s
  | .mjmp w => Sys2Proof.Machine.execMjmp w s
  | .mnop w => Sys2Proof.Machine.execMnop w s
  | .vPushLand => Sys2Proof.Machine.execVPushLand s
  | .kstepCommit => Sys2Proof.Machine.execKstepCommit s
  | .mhadRowWrite => Sys2Proof.Machine.execMhadRowWrite s
  | .mdrnRowLand => Sys2Proof.Machine.execMdrnRowLand s
  | .mzeroEffect => Sys2Proof.Machine.execMzeroEffect s
  | .mwldSlotWrite => Sys2Proof.Machine.execMwldSlotWrite s
  | .weightPortFetch => Sys2Proof.Machine.execWeightPortFetch s
  | .dispatch k => Sys2Proof.Machine.execDispatch k s
  | .bankSwitch c => Sys2Proof.Machine.execBankSwitch c s
  | .sliceExpiry c => Sys2Proof.Machine.execSliceExpiry c s
  | .tileWaitTimeout k => Sys2Proof.Machine.execTileWaitTimeout k s
  | .contextSave k slot => Sys2Proof.Machine.execContextSave k slot s
  | .contextRestore slot k => Sys2Proof.Machine.execContextRestore slot k s
  | .trapEntry => Sys2Proof.Machine.execTrapEntry s
  | .contextEnd k cause => Sys2Proof.Machine.execContextEnd k cause s
  | .commitComplete g => Sys2Proof.Machine.execCommitComplete g s
  | .barrierEvaluate p q sig => Sys2Proof.Machine.execBarrierEvaluate p q sig s
  | .heldPushEnter p q => Sys2Proof.Machine.execHeldPushEnter p q s
  | .engineTakeCommand k seq => Sys2Proof.Machine.execEngineTakeCommand k seq s
  | .engineCommandComplete k seq => Sys2Proof.Machine.execEngineCommandComplete k seq s
  | .deliveryArrive n => Sys2Proof.Machine.execDeliveryArrive n s
  | .deliveryLanded n => Sys2Proof.Machine.execDeliveryLanded n s
  | .sigwaitSatisfy k seq => Sys2Proof.Machine.execSigwaitSatisfy k seq s
  | .traceRecordWrite dn cl hyp => Sys2Proof.Machine.execTraceRecordWrite dn cl hyp s
  | .hostDoorAppend p vi door ofs data ide => Sys2Proof.Machine.execHostDoorAppend p vi door ofs data ide s
  | .doorHeadWrite p vi door v ide => Sys2Proof.Machine.execDoorHeadWrite p vi door v ide s
  | .hostMemRead p vi va len ide => Sys2Proof.Machine.execHostMemRead p vi va len ide s
  | .hostMemWrite p vi va data ide => Sys2Proof.Machine.execHostMemWrite p vi va data ide s
  | .overflowCounterClear p vi door v => Sys2Proof.Machine.execOverflowCounterClear p vi door v s
  | .counterConfigWrite dn cl hyp vi v => Sys2Proof.Machine.execCounterConfigWrite dn cl hyp vi v s
  | .traceCounterClear dn cl hyp vi lost v => Sys2Proof.Machine.execTraceCounterClear dn cl hyp vi lost v s
  | .tctlWrite dn cl hyp vi v => Sys2Proof.Machine.execTctlWrite dn cl hyp vi v s
  | .trptrWrite dn cl hyp vi v => Sys2Proof.Machine.execTrptrWrite dn cl hyp vi v s
  | .plimWrite p v => Sys2Proof.Machine.execPlimWrite p v s
  | .registerWrite p vi ofs v => Sys2Proof.Machine.execRegisterWrite p vi ofs v s
  | .preempt p vi vcn g => Sys2Proof.Machine.execPreempt p vi vcn g s
  | .release p vi vcn g => Sys2Proof.Machine.execRelease p vi vcn g s
  | .cancel p vi vcn g => Sys2Proof.Machine.execCancel p vi vcn g s
  | .seed p vi index record => Sys2Proof.Machine.execSeed p vi index record s
  | .keyload p vi slot material => Sys2Proof.Machine.execKeyload p vi slot material s
  | .manreg p vi mid key sig body => Sys2Proof.Machine.execManreg p vi mid key sig body s
  | .mandel p vi mid => Sys2Proof.Machine.execMandel p vi mid s
  | .getCertificate p vi => Sys2Proof.Machine.execGetCertificate p vi s
  | .challenge p vi nonce => Sys2Proof.Machine.execChallenge p vi nonce s
  | .getMeasurements p vi => Sys2Proof.Machine.execGetMeasurements p vi s
  | .fabkey p secret => Sys2Proof.Machine.execFabkey p secret s
  | .ideKm p vi key => Sys2Proof.Machine.execIdeKm p vi key s
  | .stopInterface p vi => Sys2Proof.Machine.execStopInterface p vi s
  | .functionLevelReset p vi => Sys2Proof.Machine.execFunctionLevelReset p vi s
  | .flrShutterResume p vi => Sys2Proof.Machine.execFlrShutterResume p vi s
  | .coldReset p imgA imgB => Sys2Proof.Machine.execColdReset p imgA imgB s
  | .thermalHalt p celsius => Sys2Proof.Machine.execThermalHalt p celsius s
  | .powerSample p watts => Sys2Proof.Machine.execPowerSample p watts s
  | .throttleStep p => Sys2Proof.Machine.execThrottleStep p s
  | .sweepPassStart p => Sys2Proof.Machine.execSweepPassStart p s
  | .sweepVisit dn => Sys2Proof.Machine.execSweepVisit dn s
  | .sweepPassEnd p => Sys2Proof.Machine.execSweepPassEnd p s
  | .flitCrcRetry dn link => Sys2Proof.Machine.execFlitCrcRetry dn link s
  | .linkDead dn link => Sys2Proof.Machine.execLinkDead dn link s
  | .linkReturn dn link => Sys2Proof.Machine.execLinkReturn dn link s
  | .packetForward n => Sys2Proof.Machine.execPacketForward n s
  | .packetWaitExpiry n => Sys2Proof.Machine.execPacketWaitExpiry n s
  | .wr n => Sys2Proof.Machine.execWr n s
  | .dlv n => Sys2Proof.Machine.execDlv n s
  | .rd n => Sys2Proof.Machine.execRd n s
  | .rdr n => Sys2Proof.Machine.execRdr n s
  | .red n => Sys2Proof.Machine.execRed n s
  | .hop n => Sys2Proof.Machine.execHop n s
  | .lrp n => Sys2Proof.Machine.execLrp n s
  | .rsp n => Sys2Proof.Machine.execRsp n s
  | .mgt n => Sys2Proof.Machine.execMgt n s
  | .requestReissue dn n => Sys2Proof.Machine.execRequestReissue dn n s
  | .remoteTimeout k seq cmd tdie addr => Sys2Proof.Machine.execRemoteTimeout k seq cmd tdie addr s
  | .admitRepeat n => Sys2Proof.Machine.execAdmitRepeat n s
  | .deliveryRetry n => Sys2Proof.Machine.execDeliveryRetry n s
  | .bootstrapMailboxGo p v => Sys2Proof.Machine.execBootstrapMailboxGo p v s
  | .lockInterface p vi => Sys2Proof.Machine.execLockInterface p vi s
  | .startInterface p vi => Sys2Proof.Machine.execStartInterface p vi s

end Sys2Proof.Machine
end

