-- ==== Sys2Proof/Machine/Sequencer.lean ====
section
/-! DEFINITION. Who acts next: fetching (R198, R129), which stream issues (R22, R31, R333), and what the other agents have to
do in a cycle. -/

namespace Sys2Proof.Machine

/-! ### Fetch (R198) -/

/-- The bytes of committed memory at an address, or the failing check and where it fails. A page on a die that does not
answer is waited for as a load's is (R423; DESIGN CHOICE, log entry 57). -/
def fetchPieces (s : State) (a : Accessor) : List (Nat × Nat × Nat) → Except (Fail × Nat) (List Byte)
  | [] => .ok []
  | (va, o, n) :: r => match checkS s a Need.fetch va false with
    | .error f => .error (f, va)
    | .ok w => match readLine s a w with
      | .error f => .error (f, va)
      | .ok l => match fetchPieces s a r with
        | .error e => .error e
        | .ok bs => .ok (((lineBytes l).drop o).take n ++ bs)

/-- n bytes fetched by the issuing context. -/
def fetchBytes (s : State) (va n : Nat) : Except (Fail × Nat) (List Byte) :=
  fetchPieces s (s.cur.accessor s) (piecesOf va n)

/-- The word at a stream's program counter, with the second word of an X form. -/
def fetchWord (s : State) (st : Stream) : Except (Fail × Nat) Nat :=
  let pc := (s.cur.pc st).toNat
  match fetchBytes s pc st.wordBytes with
  | .error e => .error e
  | .ok bs =>
    if isX st (natOfBytes bs) then
      match fetchBytes s (pc + 4) 4 with
      | .error e => .error e
      | .ok more => .ok (natOfBytes (bs ++ more))
    else .ok (natOfBytes bs)

/-- What a fetch leaves behind: its translation in the S TLB (R120), an error it found, and the numbers of a request to
another die. -/
def fetchUse (s : State) (va : Nat) : State :=
  let k := s.focus.key
  let c := s.cur
  let a := c.accessor s
  let s := if isSlot k then s else translate s (.s (coreOf k)) c a va
  match checkSource s a Need.fetch va with
  | .error _ => s
  | .ok w =>
    if dieOfGpa w.gpa == a.die || c.begun || c.lost.isSome then meetTarget s a.die a.pen w false else meetS s k a w va

/-- The same for a word: the line it begins in, and the next where it ends there. -/
def useWord (s : State) (st : Stream) : State :=
  let pc := (s.cur.pc st).toNat
  let last := pc + st.wordBytes - 1
  let s := fetchUse s pc
  if last / 64 == pc / 64 then s else fetchUse s (last / 64 * 64)

/-! ### Issue (R22, R31, R333, R350) -/

/-- The cycle from which a stream may issue again. -/
def Ctx.nextOf (c : Ctx) : Stream → Nat
  | .s => c.nextS | .a => c.nextA | .v => c.nextV | .m => c.nextM

/-- A stream issues at most one word a cycle. -/
def Ctx.noteIssue (c : Ctx) (st : Stream) (cycle : Nat) : Ctx :=
  match st with
  | .s => { c with nextS := cycle + 1 }
  | .a => { c with nextA := cycle + 1 }
  | .v => { c with nextV := cycle + 1 }
  | .m => { c with nextM := cycle + 1 }

/-- A stream can issue now: it runs, and in handler state it is S. -/
def Ctx.canIssue (c : Ctx) (st : Stream) (cycle : Nat) : Bool :=
  !c.ended st && c.nextOf st ≤ cycle && (st == .s || !c.handler)

/-- A context runs, and is not held back by a PREEMPT or by a package that has halted. -/
def runs (s : State) (k : Nat) (c : Ctx) : Bool :=
  !isSlot k && c.status == .running && !awaitsHalt s c && !(s.pkg c.pkg).halted

/-- A stream has met a fault in this cycle that does not trap at once. -/
def Ctx.softOf (c : Ctx) (st : Stream) : Bool := c.soft.any (fun f => f.stream == st)

/-- Faults met in the cycle are taken now: one traps, or no commit that has begun is in the way of waiting. -/
def Ctx.softDue (c : Ctx) : Bool := c.soft.any (fun f => !f.awaits) || (!c.soft.isEmpty && !c.committing)

/-- What a context does next in this cycle: a trap that is due, else the first stream that can issue, else the faults that
its streams have met (R346). -/
def Ctx.turn (c : Ctx) (k cycle : Nat) : Option Turn :=
  if c.dueTrap.isSome then some (.on k .trapEntry)
  else match [Stream.s, .a, .v, .m].find? (fun st => c.canIssue st cycle && !c.softOf st && (c.heldAt st).isNone) with
    | some st => some (.issue ⟨k, st⟩)
    | none => if c.softDue then some (.on k .trapEntry) else none

/-- The next turn of this cycle. -/
def nextTurn (s : State) : Option Turn :=
  s.ctxs.findSome? (fun e => if runs s e.1 e.2 then e.2.turn e.1 s.cycle else none)

/-! ### What is to be done in a cycle -/

/-- Array words make K-steps and rows in 16 − k of every 16 cycles at throttle level k (R413). -/
def arrayRuns (s : State) (c : Ctx) : Bool := s.cycle % 16 < 16 - (s.pkg c.pkg).throttle

/-- The array's event of a running word that is due. -/
def arrayActs (s : State) (k : Nat) (c : Ctx) : List Turn :=
  match c.run with
  | none => []
  | some r =>
    if c.softOf .m then [] else
    let fetch : List Turn := if r.op == .mmaw && !r.checked && r.fault.isNone then [.on k .weightPortFetch] else []
    let due := r.due ≤ s.cycle
    let act : List Turn := match r.op with
      | .mma => if due && arrayRuns s c then [.on k .kstepCommit] else []
      | .mmaw => if due && arrayRuns s c then [.on k .kstepCommit] else []
      | .mhad => if due && arrayRuns s c then [.on k .mhadRowWrite] else []
      | .mdrn => if arrayRuns s c then [.on k .mdrnRowLand] else []
      | .mzero => if due then [.on k .mzeroEffect] else []
    fetch ++ act

/-- Events of a running context: pushes and slot writes that are due, the array, and a long tile wait. -/
def streamActs (s : State) (k : Nat) (c : Ctx) : List Turn :=
  if !runs s k c then []
  else
    (c.flights.filter (fun f => f.due ≤ s.cycle)).map (fun _ => .on k .vPushLand) ++ arrayActs s k c ++
    (c.fills.filter (fun f => f.due ≤ s.cycle)).map (fun _ => .on k .mwldSlotWrite) ++
    (if c.tileWait.isSome then [.act (.tileWaitTimeout k)] else [])

/-- The engine's events of a context's commands. -/
def commandActs (k : Nat) (c : Ctx) : List Turn :=
  c.cmds.filterMap (fun m => match m.state with
    | .queued => some (.act (.engineTakeCommand k m.seq))
    | .taken _ => some (.act (if cmdFn m.words == 8 then .sigwaitSatisfy k m.seq else .engineTakeCommand k m.seq))
    | .failing _ _ => some (.act (.engineTakeCommand k m.seq))
    | .ended _ _ => some (.act (.engineCommandComplete k m.seq))
    | _ => none)

/-- A delivery's events. -/
def deliveryActs (s : State) (d : Delivery) : List Turn :=
  match d.state, d.remote with
  | .presented, none => [.act (.deliveryArrive d.n)]
  | .admitted, none => if d.lines != 0 && d.landed.length == d.lines then [.act (.deliveryLanded d.n)] else []
  | .admitted, some _ => if d.waited && !d.more && d.since + cycles20us ≤ s.cycle then [.act (.admitRepeat d.n)] else []
  | _, _ => []

/-- A packet's event: it is forwarded, given up, or performed where it has arrived. -/
def packetActs (s : State) (p : Packet) : List Turn :=
  if p.here != p.dst then
    [.act (if p.since + cycles50us < s.cycle then .packetWaitExpiry p.n else .packetForward p.n)]
  else [.act (match p.type with
    | some .wr => .wr p.n
    | some .dlv => .dlv p.n
    | some .rd => .rd p.n
    | some .rdr => .rdr p.n
    | some .red => .red p.n
    | some .hop => .hop p.n
    | some .lrp => .lrp p.n
    | some .rsp => .rsp p.n
    | some .mgt => .mgt p.n
    | none => .mgt p.n)]

/-- The ring that a push of VAPPLY names; 0 for any other request (R380). -/
def pushAddr (s : State) (q : Request) : Dword :=
  if q.msg.op == .push then
    let k := s.pkg (q.msg.queue / 8192)
    BitVec.ofNat 64 (qBase (k.queue (viQfirst (k.vi (penVi q.msg.pen)) + q.msg.queue % 8192)))
  else 0

/-- A request's event at its source. -/
def requestActs (s : State) (dn : Nat) (q : Request) : List Turn :=
  match q.state with
  | .sent =>
    if q.pkt.first + cycles2ms ≤ s.cycle then
      match s.keyOfId q.ctx with
      | some k => [.act (.remoteTimeout k q.cmd (q.msg.op != .push) (BitVec.ofNat 14 q.msg.dst) (pushAddr s q))]
      | none => [.act (.requestReissue dn q.pkt.n)]
    else if q.last + cycles20us ≤ s.cycle then [.act (.requestReissue dn q.pkt.n)] else []
  | .busy => if q.last + cycles20us ≤ s.cycle then [.act (.deliveryRetry q.pkt.n)] else []
  | .held => []

/-- The requests of a router, those to the lowest target first, so that the record names it (R380). -/
def insertRequest (q : Request) : List Request → List Request
  | [] => [q]
  | x :: r => if q.msg.dst < x.msg.dst then q :: x :: r else x :: insertRequest q r

/-- A die's events: its requests, its sweep unit and its trace units. -/
def dieActs (s : State) (e : Nat × Die) : List Turn :=
  let (dn, d) := e
  (d.router.requests.foldl (fun l q => insertRequest q l) []).flatMap (requestActs s dn) ++
  (if d.sweep.run && d.sweep.prog.toNat < d.sweep.target then [.act (.sweepVisit dn)] else []) ++
  d.clusters.flatMap (fun (cl, x) =>
    (if x.traceHyp.queue.isEmpty then [] else [.act (.traceRecordWrite dn cl true)]) ++
    (if x.traceGuest.queue.isEmpty || x.traceSeized then [] else [.act (.traceRecordWrite dn cl false)]))

/-- Barrier records that have reached the heads of a package's queues and have not been evaluated (R152). -/
def unseenActs (s : State) (p : Nat) : List Turn :=
  ((s.pkg p).queues.map Prod.fst).filterMap (fun q =>
    match (ownerOf (s.pkg p) viQfirst viQcount q).bind (fun vi => unseenHead s p vi q) with
    | some _ => some (.act (.barrierEvaluate p q 0))
    | none => none)

/-- A package's events: held pushes, barrier records, the sweep and the throttle. -/
def pkgActs (s : State) (e : Nat × Pkg) : List Turn :=
  let (p, k) := e
  k.heldPushes.map (fun h => .act (.heldPushEnter p h.queue)) ++
  k.notices.map (fun n => .act (.barrierEvaluate p n.queue n.sig)) ++
  (k.barriers.filter (fun b => b.aside.isNone && b.verdict.isNone)).map (fun b => .act (.barrierEvaluate p b.queue 0)) ++ unseenActs s p ++
  (if k.sweepDue && sweepIdle s p then [.act (.sweepPassStart p)] else []) ++
  (if (s.sweep (die0 p)).finished && (s.sweep (die1 p)).finished then [.act (.sweepPassEnd p)] else []) ++
  (if s.cycle % cycles1ms == 0 then [.act (.throttleStep p)] else [])

/-- The cores that the core maps of a die name. -/
def mappedCores (d : Nat × Die) : List Nat :=
  d.2.coreMap.filterMap (fun e => if ceValid e.2 && ceDie e.2 == d.1 then some (coreKey d.1 (ceCore e.2)) else none)

/-- Cores with something to schedule, each once. -/
def busyCores (s : State) : List Nat :=
  (s.dies.flatMap mappedCores ++ (s.ctxs.filter (fun e => !isSlot e.1)).map (fun e => coreOf e.1)).foldl
    (fun l c => if l.contains c then l else l ++ [c]) []

/-- Saved contexts that a bank may take. -/
def restoreActs (s : State) (k : Nat) : List Turn :=
  (s.ctxs.filter (fun e => isSlot e.1 && e.2.status == .ready && !e.2.held && mayRestore s e.1 e.2 (coreOf k))).map
    (fun e => .act (.contextRestore e.1 k))

/-- A bank's events: an EMPTY one takes a saved context or a dispatch; a WAITING one may be saved. -/
def bankActs (s : State) (k : Nat) : List Turn :=
  let c := s.ctx k
  match c.status with
  | .empty => restoreActs s k ++ [.act (.dispatch k)]
  | .waiting =>
    if Sys2Proof.Config.schedulerSaves s.cycle k then
      match (List.range (2 * viVcores (s.ctxVi c))).find? (fun n => !Table.has s.ctxs (slotKey c.pkg c.vi.toNat n)) with
      | some n => [.act (.contextSave k n)]
      | none => []
    else []
  | _ => []

/-- A core's events. A core with no running bank turns to a READY bank before an EMPTY bank takes a dispatch (R32), and
again after it. -/
def coreActs (s : State) (ck : Nat) : List Turn :=
  let turn : Turn := .act (if (s.core ck).running.isSome then .sliceExpiry ck else .bankSwitch ck)
  turn :: (bankActs s (bankKey ck false) ++ bankActs s (bankKey ck true) ++ [turn])

/-- Everything that may be due in a cycle. An act that is not due changes nothing. -/
def acts (s : State) : List Turn :=
  s.ctxs.flatMap (fun e => streamActs s e.1 e.2) ++ s.ctxs.flatMap (fun e => commandActs e.1 e.2) ++
  s.deliveries.flatMap (deliveryActs s) ++
  (s.groups.filter (fun g => g.commit.isSome)).map (fun g => .act (.commitComplete g.n)) ++
  s.packets.flatMap (packetActs s) ++ s.dies.flatMap (dieActs s) ++ s.pkgs.flatMap (pkgActs s) ++
  (busyCores s).flatMap (coreActs s)

/-- PREEMPTs that wait for a commit or a slot go on, and contexts that breakpoints halt are saved (R351, R401). -/
def preemptTick (s : State) : State :=
  haltStops ((s.pkgs.filter (fun e => !e.2.preq.isEmpty || !e.2.cancelq.isEmpty)).foldl (fun s e => preemptGoOn s e.1) s)

/-- Mailbox requests whose last outstanding packet has been answered have ended (R123, R411). -/
def mailTick (s : State) : State :=
  (s.pkgs.filter (fun e => e.2.mailRun.isSome)).foldl (fun s e => mailGoOn s e.1) s

/-- The next cycle, with what may be due in it. -/
def tick (s : State) : State :=
  let s := keepSlots (mailTick (preemptTick (profileTick { s with cycle := s.cycle + 1 })))
  { s with agenda := s.agenda ++ acts s }

/-! ### Placing one instruction (log entry 17) -/

/-- The stream whose word a table row's bits are. -/
def tableStream (nbits w : Nat) : Stream :=
  if nbits == 192 then .m
  else if nbits == 96 then .v
  else match decodeBits .s w with
    | .ok _ => .s
    | .error _ => .a

/-- Pages of die 0 that hold the three levels of tables and the instruction, which stands at virtual address 0. -/
def placeRoot : Nat := 4096
def placePage : Nat := 4099

/-- A table entry that leads to page n, and the leaf of the instruction's page: present and executable. -/
def placeLink (n : Nat) : BitVec 128 := BitVec.ofNat 128 (1 + 65536 * n)
def placeLeaf : BitVec 128 := BitVec.ofNat 128 (9 + 65536 * placePage)

/-- The tables, and the 24 bytes from the instruction on, with VI 0's pennant. -/
def placeMemory (m : Memory) (pen : Pen) (w : Nat) : Memory :=
  let m := m.pokeBytes (65536 * placeRoot) (leBytes 16 (placeLink (placeRoot + 1)).toNat)
  let m := m.pokeBytes (65536 * (placeRoot + 1)) (leBytes 16 (placeLink (placeRoot + 2)).toNat)
  let m := m.pokeBytes (65536 * (placeRoot + 2)) (leBytes 16 placeLeaf.toNat)
  (m.pokeBytes (65536 * placePage) (leBytes 24 w)).setPen (1024 * placePage) pen

/-- The context of VI 0 in bank 0 of core 0 of die 0, running, with a stream at the instruction. -/
def placeCtx (c : Ctx) (st : Stream) : Ctx :=
  { (c.setPc st 0).setEnded st false with home := 0, status := .running, vi := 0 }

/-- The package with VI 0's tables at the root, and not halted. -/
def placePkg (k : Pkg) : Pkg :=
  { k with viMap := Table.put k.viMap 0 (setField (k.vi 0) 0 64 (65536 * placeRoot)), halted := false }

/-- Die 0 with the ownership entry of the instruction's page, and its routing entry for itself: in the domain, link 6, this
die (R15, R173). -/
def placeDie (d : Die) : Die :=
  let o := { d.page placePage with vi := 0, valid := true, prot := false, tbl := false, evicted := false }
  { d.setPage placePage o with routes := Table.put d.routes 0 0xE0000000 }

/-- An instruction placed where the machine issues next. -/
def placeWord (s : State) (nbits w : Nat) : State :=
  let st := tableStream nbits w
  let s := s.modPkg 0 placePkg
  let s := { s.sound (1024 * placePage) 1 with mem := placeMemory s.mem (s.penOf 0 0) (w % 2 ^ nbits) }
  let s := s.modDie 0 placeDie
  let s := s.modCtx 0 (fun c => placeCtx c st)
  { s with focus := ⟨0, st⟩, agenda := [.issue ⟨0, st⟩] }

end Sys2Proof.Machine
end

