-- ==== Sys2Proof/Machine/Step.lean ====
section
/-! DEFINITION. One step of the domain: one stream issues its word, or one other agent performs an act, or the next cycle
begins. -/

namespace Sys2Proof.Machine

/-- A word decoded (R199): ILLEGAL where it is none, else its meaning, and what the trace units see of it. -/
def runWord (st : Stream) (n : Nat) (s : State) : Result :=
  match decodeBits st n with
  | .error _ => .next (s.illegal st)
  | .ok i => match exec i s with
    | .next t => .next (observeIssue s t st n i)
    | .fault r => .fault r
    | .refused r => .refused r

/-- A stream of the issuing context fetches its word and runs it (R120, R126, R198). A stale loop state reads as zero
(R71). -/
def issue (st : Stream) (s : State) : Result :=
  let pc := (s.cur.pc st).toNat
  if pc % st.wordAlign != 0 then .next (s.fault st fAlign pc)
  else match fetchWord s st with
    | .error (f, va) => .next (s.failAccess st .fetch f va)
    | .ok n => runWord st n (useWord s st)

/-- An act, and what the trace units see of it. -/
def act (e : Act) (s : State) : Result :=
  match perform e s with
  | .next t => .next (observeAct s t e)
  | .fault r => .fault r
  | .refused r => .refused r

/-- A turn taken; a context whose package has halted issues nothing (R413). -/
def takeTurn (t : Turn) (s : State) : Result :=
  match t with
  | .issue f =>
    let s := { s with focus := f }
    if (s.pkg s.cur.pkg).halted then .next s
    else issue f.stream (s.modCur (fun c => (c.readLoops s.pen).noteIssue f.stream s.cycle))
  | .act e => act e s
  | .on k e => act e { s with focus := ⟨k, .s⟩ }

/-- Every package that has been brought into use has halted by temperature: only a cold reset restarts one (R413). -/
def State.halted (s : State) : Bool := !s.pkgs.isEmpty && s.pkgs.all (fun e => e.2.halted)

/-- One step: the first turn that is due, else the first stream that can issue in this cycle, else the next cycle. -/
def step (s : State) : Host.Outcome State Fault Refusal :=
  match s.agenda with
  | t :: r => takeTurn t { s with agenda := r }
  | [] => match nextTurn s with
    | some t => takeTurn t s
    | none => if s.halted then .fault .halted else .next (tick s)

/-- The state with the instruction of a table row where the next step fetches (log entry 17). -/
def State.withFetchWord (s : State) (nbits w : Nat) : State := placeWord s nbits w

end Sys2Proof.Machine
end

