-- ==== Sys2Proof/Safety.lean ====
section
/-! DEFINITION. What counts as a safe run, in the terms the statements use. -/

namespace Sys2Proof.Machine

/-- Every memory a core holds is in canonical form: its scratchpad and its weight slots. -/
def Core.memOk (c : Core) : Bool := c.spad.wf && c.slots.all (fun e => e.2.mem.wf)

/-- Every memory of the domain is in canonical form, the tiles of saved contexts among them. -/
def State.memOk (s : State) : Bool :=
  s.mem.wf && s.cores.all (fun e => e.2.memOk) && s.ctxs.all (fun e => e.2.savedSpad.wf)

/-- A step goes on. -/
def goesOn (r : Result) : Bool :=
  match r with
  | .next _ => true
  | _ => false

/-- No package has halted by temperature, which is the one way a run stops (R413). -/
def State.live (s : State) : Prop := ∀ p, (s.pkg p).halted = false

/-- A safe run of n steps: every one of them answers a next state. -/
def safeFor : Nat → State → Bool
  | 0, _ => true
  | n + 1, s => match step s with
    | .next t => safeFor n t
    | _ => false

end Sys2Proof.Machine
end

