-- ==== Sys2Proof/Certificates/Slice0/Obligations.lean ====
section
/-! DEFINITION. The statements of this row about the machine, for the provers, and the terms they are said in. -/

namespace Sys2Proof.Slice0

open Sys2Proof.Machine

/-! ### Terms of frames -/

/-- Nothing differs but the issuing context. -/
def ownOnly (s t : State) : Prop := t = { s with ctxs := t.ctxs } ∧ ∀ k, k ≠ s.focus.key → t.ctx k = s.ctx k

/-- Nothing differs but the issuing context; what its core and the dies keep for accesses to come (translations, L1 lines,
staged weights, a scratchpad bank's last use, the numbers of requests); counters; and what a read has found of errors. -/
def lightly (s t : State) : Prop :=
  t = { s with ctxs := t.ctxs, cores := t.cores, dies := t.dies, errors := t.errors, poison := t.poison } ∧
  (∀ k, k ≠ s.focus.key → t.ctx k = s.ctx k) ∧ (∀ c, c ≠ s.curCore → t.core c = s.core c) ∧
  t.core s.curCore = { s.core s.curCore with
    tlb := (t.core s.curCore).tlb, wtlb := (t.core s.curCore).wtlb, l1 := (t.core s.curCore).l1,
    staging := (t.core s.curCore).staging, bankUse := (t.core s.curCore).bankUse } ∧
  ∀ d, t.die d = { s.die d with counters := (t.die d).counters, clusters := (t.die d).clusters, units := (t.die d).units,
                                router := (t.die d).router }

/-- Every byte of device memory reads as before, to a reader of any pennant. -/
def bytesKept (s t : State) : Prop := ∀ (p : Pen) (a : Nat), t.mem.readByte p a = s.mem.readByte p a

/-- The s registers after a write of s[d]: s0 reads zero and keeps nothing. -/
def wroteS (s t : State) (d : Reg) (v : Dword) : Prop :=
  ∀ r, t.rS r = if r = 0 then 0 else if r = d then v else s.rS r

/-- The a registers after a write of a[d]. -/
def wroteA (s t : State) (d : Reg) (v : Dword) : Prop :=
  ∀ r, t.rA r = if r = 0 then 0 else if r = d then v else s.rA r

/-- A stream has moved past a word of `len` bytes, with the back-edge of its loop (R227). -/
def past (st : Stream) (s t : State) (len : Nat) : Prop :=
  (t.cur.loop st, t.cur.pc st) = (s.cur.loop st).next (s.cur.pc st) len

/-- A stream has jumped to an address; its loop ends if that lies outside the loop's body. -/
def jumped (st : Stream) (s t : State) (x : Dword) : Prop :=
  t.cur.pc st = x ∧ t.cur.loop st = (s.cur.loop st).jump x

/-- Of the issuing context nothing differs but the s registers, the program counter of S and its loop. -/
def restS (s t : State) : Prop := t.cur = { s.cur with s := t.cur.s, pcS := t.cur.pcS, loopS := t.cur.loopS }

/-- Of the issuing context nothing differs but the a registers, the program counter of A and its loop. -/
def restA (s t : State) : Prop := t.cur = { s.cur with a := t.cur.a, pcA := t.cur.pcA, loopA := t.cur.loopA }

/-- i completes at s: it writes s[d], S moves past it, and nothing else changes. -/
def setsS (i : Instr) (s : State) (d : Reg) (v : Dword) (len : Nat) : Prop :=
  ∃ t, exec i s = .next t ∧ wroteS s t d v ∧ past .s s t len ∧ restS s t ∧ ownOnly s t ∧ bytesKept s t

/-- The same for a word of A. -/
def setsA (i : Instr) (s : State) (d : Reg) (v : Dword) (len : Nat) : Prop :=
  ∃ t, exec i s = .next t ∧ wroteA s t d v ∧ past .a s t len ∧ restA s t ∧ ownOnly s t ∧ bytesKept s t

/-! ### Integer arithmetic (R219 to R222, R257) -/

def bool64 (b : Bool) : Dword := if b then 1 else 0

/-- The two-operand words of S and their functions (R219, R220). -/
def scalarR : List ((Reg → Reg → Reg → Instr) × (Dword → Dword → Dword)) :=
  [(.add, fun x y => x + y), (.sub, fun x y => x - y), (.and, fun x y => x &&& y), (.or, fun x y => x ||| y),
   (.xor, fun x y => x ^^^ y), (.sll, fun x y => x <<< (y.toNat % 64)), (.srl, fun x y => x >>> (y.toNat % 64)),
   (.sra, fun x y => x.sshiftRight (y.toNat % 64)), (.mul, fun x y => x * y),
   (.mulh, fun x y => BitVec.ofInt 64 (x.toInt * y.toInt / 2 ^ 64)),
   (.mulhu, fun x y => BitVec.ofNat 64 (x.toNat * y.toNat / 2 ^ 64)),
   (.div, fun x y => if y = 0 then BitVec.allOnes 64 else BitVec.ofInt 64 (x.toInt.tdiv y.toInt)),
   (.divu, fun x y => if y = 0 then BitVec.allOnes 64 else x / y),
   (.rem, fun x y => if y = 0 then x else BitVec.ofInt 64 (x.toInt.tmod y.toInt)), (.remu, fun x y => if y = 0 then x else x % y),
   (.slt, fun x y => bool64 (x.slt y)), (.sltu, fun x y => bool64 (x.ult y)),
   (.min, fun x y => if x.toInt ≤ y.toInt then x else y), (.max, fun x y => if x.toInt ≤ y.toInt then y else x),
   (.minu, fun x y => if x ≤ y then x else y), (.maxu, fun x y => if x ≤ y then y else x)]

/-- The words of S with a 16-bit immediate (R221). -/
def scalarI : List ((Reg → Reg → BitVec 16 → Instr) × (Dword → Dword → Dword)) :=
  [(.addi, fun x i => x + i), (.andi, fun x i => x &&& i), (.ori, fun x i => x ||| i), (.xori, fun x i => x ^^^ i),
   (.slli, fun x i => x <<< (i.toNat % 64)), (.srli, fun x i => x >>> (i.toNat % 64)),
   (.srai, fun x i => x.sshiftRight (i.toNat % 64)), (.slti, fun x i => bool64 (x.slt i)),
   (.sltiu, fun x i => bool64 (x.ult i))]

/-- The two-operand words of A (R257). -/
def accessR : List ((Reg → Reg → Reg → Instr) × (Dword → Dword → Dword)) :=
  [(.addA, fun x y => x + y), (.subA, fun x y => x - y), (.andA, fun x y => x &&& y), (.orA, fun x y => x ||| y),
   (.xorA, fun x y => x ^^^ y), (.sllA, fun x y => x <<< (y.toNat % 64)), (.srlA, fun x y => x >>> (y.toNat % 64)),
   (.sraA, fun x y => x.sshiftRight (y.toNat % 64)), (.mulA, fun x y => x * y),
   (.minA, fun x y => if x.toInt ≤ y.toInt then x else y), (.maxA, fun x y => if x.toInt ≤ y.toInt then y else x),
   (.minuA, fun x y => if x ≤ y then x else y), (.maxuA, fun x y => if x ≤ y then y else x)]

/-- The words of A with a 16-bit immediate. -/
def accessI : List ((Reg → Reg → BitVec 16 → Instr) × (Dword → Dword → Dword)) :=
  [(.addiA, fun x i => x + i), (.andiA, fun x i => x &&& i), (.oriA, fun x i => x ||| i), (.xoriA, fun x i => x ^^^ i),
   (.slliA, fun x i => x <<< (i.toNat % 64)), (.srliA, fun x i => x >>> (i.toNat % 64)),
   (.sraiA, fun x i => x.sshiftRight (i.toNat % 64))]

/-- A value is the leading-zero count of x: the bits above it are clear, and the next is set unless all are clear. -/
def isClz (x : Dword) (n : Nat) : Prop :=
  n ≤ 64 ∧ (∀ i, 64 - n ≤ i → x.getLsbD i = false) ∧ (n < 64 → x.getLsbD (63 - n) = true)

/-- The number of set bits of x. -/
def setBits (x : Dword) : Nat := ((List.range 64).filter (fun i => x.getLsbD i)).length

/-! ### Loads and stores of S (R223, R224) -/

/-- The loads of S: their size in bytes, and whether they extend by sign. -/
def scalarLoads : List ((Reg → Reg → BitVec 16 → Instr) × Nat × Bool) :=
  [(.ldb, 1, true), (.ldbu, 1, false), (.ldh, 2, true), (.ldhu, 2, false), (.ldw, 4, true), (.ldwu, 4, false),
   (.ldd, 8, false)]

/-- The stores of S and their size in bytes. -/
def scalarStores : List ((Reg → Reg → BitVec 16 → Instr) × Nat) := [(.stb, 1), (.sth, 2), (.stw, 4), (.std, 8)]

/-- The address of a load or store. -/
def ea (s : State) (a : Reg) (imm : BitVec 16) : Nat := (s.rS a + imm.signExtend 64).toNat

/-- The n bytes at byte o of a line as a 64-bit value, extended by sign or by zeros. -/
def extended (n : Nat) (sign : Bool) (l : Line) (o : Nat) : Dword :=
  let v := l.extractLsb' (8 * o) (8 * n)
  if sign then v.signExtend 64 else v.setWidth 64

/-- The accessor of the issuing context. -/
def own (s : State) : Accessor := s.cur.accessor s

/-- Byte j of a line. -/
def byteOf (l : Line) (j : Nat) : Byte := l.extractLsb' (8 * j) 8

/-! ### Branches, jumps and loops (R225 to R227, R258) -/

/-- The conditional branches of S and their conditions. -/
def scalarBranches : List ((Reg → Reg → BitVec 16 → Instr) × (Dword → Dword → Bool)) :=
  [(.beq, fun x y => x == y), (.bne, fun x y => x != y), (.blt, fun x y => x.slt y), (.bge, fun x y => y.sle x),
   (.bltu, fun x y => x.ult y), (.bgeu, fun x y => y.ule x)]

/-- The conditional branches of A. -/
def accessBranches : List ((Reg → Reg → BitVec 16 → Instr) × (Dword → Dword → Bool)) :=
  [(.abrEq, fun x y => x == y), (.abrNe, fun x y => x != y), (.abrLt, fun x y => x.slt y), (.abrGe, fun x y => y.sle x),
   (.abrLtu, fun x y => x.ult y), (.abrGeu, fun x y => y.ule x)]

/-- The target of a word with a displacement. -/
def target {n : Nat} (pc : Dword) (disp : BitVec n) (bytes : Nat) : Dword := pc + disp.signExtend 64 * BitVec.ofNat 64 bytes

/-- Of the issuing context nothing differs but the program counter of a stream and its loop. -/
def onlyMoved (st : Stream) (s t : State) : Prop :=
  t.cur = (s.cur.setPc st (t.cur.pc st)).setLoop st (t.cur.loop st) ∧ ownOnly s t ∧ bytesKept s t

/-- A branch taken or not. -/
def branches (i : Instr) (st : Stream) (s : State) (taken : Bool) (to_ : Dword) (len : Nat) : Prop :=
  ∃ t, exec i s = .next t ∧ onlyMoved st s t ∧ if taken then jumped st s t to_ else past st s t len

/-- A loop word has begun a loop of N passes over `len` words with S stages, or skipped its body (R227). -/
def loopBegun (st : Stream) (s t : State) (n : BitVec 32) (stages len : Nat) : Prop :=
  let start := s.cur.pc st + BitVec.ofNat 64 st.wordBytes
  let fin := start + BitVec.ofNat 64 (st.wordBytes * len)
  if n = 0 then t.cur.pc st = fin ∧ t.cur.loop st = s.cur.loop st
  else t.cur.pc st = start ∧ (t.cur.loop st).act = true ∧ (t.cur.loop st).p = 0 ∧ (t.cur.loop st).n = n ∧
    (t.cur.loop st).s = BitVec.ofNat 3 stages ∧ (t.cur.loop st).start = start ∧ (t.cur.loop st).fin = fin ∧
    (t.cur.loop st).pen = s.pen

/-! ### Tokens and branch outcomes (R23, R25, R229, R230) -/

/-- Of the issuing context nothing differs but token counts, the program counter of a stream and its loop. -/
def restTok (st : Stream) (s t : State) : Prop :=
  t.cur = { (s.cur.setPc st (t.cur.pc st)).setLoop st (t.cur.loop st) with tok := t.cur.tok } ∧ ownOnly s t ∧ bytesKept s t

/-- A token queue has n tokens, and every other as many as before. -/
def tokensAre (s t : State) (i n : Nat) : Prop :=
  t.cur.tokens t.pen i = n ∧ ∀ j, j ≠ i → t.cur.tokens t.pen j = s.cur.tokens s.pen j

/-- The queue from one stream to another, in the order sa, sv, sm, as, av, am, vs, va, vm, ms, ma, mv of R23. -/
def tokenQueue (src dst : Stream) : Nat := 3 * src.code + (if dst.code < src.code then dst.code else dst.code - 1)

/-- Nothing differs: the word waits, to issue again. -/
def waits (i : Instr) (s : State) : Prop := exec i s = .next s

/-! ### Words of S with larger effects -/

/-- i completes at s with an effect. -/
def ends (i : Instr) (s : State) (q : State → Prop) : Prop := ∃ t, exec i s = .next t ∧ q t

/-- A branch-outcome queue's contents, in the order sa, sv, sm, as, vs, and every other queue as before. -/
def outcomesAre (s t : State) (i : Nat) (q : List (Tag 1)) : Prop :=
  t.cur.bq i = q ∧ ∀ j, j ≠ i → j < 5 → t.cur.bq j = s.cur.bq j

/-- Of the issuing context nothing differs but branch-outcome queues, the program counter of a stream and its loop. -/
def restBq (st : Stream) (s t : State) : Prop :=
  t.cur = { (s.cur.setPc st (t.cur.pc st)).setLoop st (t.cur.loop st) with
      bqSA := t.cur.bqSA, bqSV := t.cur.bqSV, bqSM := t.cur.bqSM, bqAS := t.cur.bqAS, bqVS := t.cur.bqVS } ∧
  ownOnly s t ∧ bytesKept s t

/-- The registers after a run of values has been written from s[d] on. -/
def wroteRun (s t : State) (d : Nat) (vs : List Dword) : Prop :=
  ∀ r : Reg, t.rS r = if r = 0 then 0 else if d ≤ r.toNat ∧ r.toNat < d + vs.length then vs.getD (r.toNat - d) 0 else s.rS r

/-- The generations and the VI map of every package are as before. -/
def samePennants (s t : State) : Prop := ∀ p v, t.penOf p v = s.penOf p v

/-- The bank of the issuing context. -/
def here (s : State) : Nat := s.focus.key
/-- The other bank of its core. -/
def otherBank (s : State) : Nat := bankKey s.curCore (!bankOf s.focus.key)

/-- An operation of S on an address is answered now by its home controller's die, which has not performed it before (R374,
R423); and the state in which that die performs it, its packets exchanged. -/
def reached (s : State) (die addr : Nat) : Prop :=
  answersNow s (here s) die addr = true ∧ (s.cur.lostFor die addr).bind Lost.answer = none
def sent (s : State) (die addr : Nat) : State := exchange s (here s) die addr homeBytes

/-- The state in which a descriptor's home controller performs a JOIN, GBAR or LEAVE of the issuing context. -/
def atDesc (s : State) (a : Reg) (w : Where) : State :=
  meetTarget (sent (xlatS s (here s) (s.rS a).toNat) (dieOfGpa w.gpa) (s.rS a).toNat) s.cur.die s.pen w false

/-- The descriptor that s[a] names lies at w, holds l, and is reached now. -/
def describes (s : State) (a : Reg) (w : Where) (l : Line) : Prop :=
  (s.rS a).toNat % 64 = 0 ∧ checkSource s (own s) Need.both (s.rS a).toNat = .ok w ∧
  reached (xlatS s (here s) (s.rS a).toNat) (dieOfGpa w.gpa) (s.rS a).toNat ∧ descAt (atDesc s a w) (own s) w = .ok l

/-- On a page with neither compression nor encryption, the line at w reads as l. -/
def holdsLine (t : State) (p : Pen) (w : Where) (l : Line) : Prop :=
  w.leaf.cmp = 0 → w.leaf.e = false → w.leaf.wct = false →
    ∀ j, j < 64 → t.mem.readByte p (64 * (w.gpa / 64) + j) = byteOf l j

/-- The arrival of the issuing context under a membership record. -/
def arrivalOf (s : State) (m : Membership) (leave : Bool) : Arrival :=
  ⟨s.cur.id, m.index, m.np, leave, s.pen, s.cur.die, m.addr.toNat⟩

/-- The bucket of a name, and the way of its eight that holds the name. -/
def claimed (s : State) (n0 n1 n2 : Dword) : Option (Bucket × Nat) :=
  let b := bucketOf (s.ctxVi s.cur) n0 n1 n2
  (findWay (ways s b s.pen) n0 n1 n2).map (fun w => (b, w))

/-- What the entry of a name holds. -/
def claimEntry (s : State) (x : Bucket × Nat) : ClaimEntry := (ways s x.1 s.pen).getD x.2 0

/-- The environment entry a k register names, with its core. -/
def envNamed (s : State) (k : Reg) : Option (Nat × Env) :=
  envOf s s.cur.die s.cur.vi.toNat (s.cur.readK s.pen k.toNat)

/-- S does not stand in a privileged word that has been performed and waits for requests (R123). -/
def atStart (s : State) : Prop := ∀ (w : Dword) (ns : List Use), s.cur.inside ≠ .settling s.cur.pcS w ns

/-- The rows of the opcode table that are VIMAP with one OP, by OP. -/
def vimapRows : List ((Reg → Reg → Instr) × Nat × VOpcode) :=
  [(.vimapLeaf, 1, .leaf), (.vimapLink, 2, .link), (.vimapOwn, 3, .own), (.vimapEvict, 4, .evict), (.vimapReturn, 5, .ret),
   (.vimapFail, 6, .fail), (.vimapVient, 7, .vient), (.vimapCore, 8, .core), (.vimapQueue, 9, .queue),
   (.vimapDoor, 10, .door), (.vimapWindow, 11, .window), (.vimapKey, 12, .key), (.vimapRoute, 13, .route),
   (.vimapMcast, 14, .mcast), (.vimapTblpg, 15, .tblpg)]

/-- The writable CSRs of R87 but the c registers: number, the bits that are kept, and where the value stands. -/
def writableCsrs : List (Nat × Dword × (Ctx → Tag 64)) :=
  [(0x008, 0x1F, fun c => c.rmode), (0x020, 0xFFFFFFFFFFFFFFFC, fun c => c.tvec), (0x024, BitVec.allOnes 64, fun c => c.epcS),
   (0x025, BitVec.allOnes 64, fun c => c.epcA), (0x026, BitVec.allOnes 64, fun c => c.epcV),
   (0x027, BitVec.allOnes 64, fun c => c.epcM), (0x029, BitVec.allOnes 64, fun c => c.epcMN)]

/-- The read-only and computed CSRs, and pcore (R87). -/
def readOnlyCsrs : List Nat := [0x000, 0x001, 0x002, 0x003, 0x004, 0x021, 0x022, 0x028, 0x030]

/-! ### Traps (R30, R333) -/

/-- Nothing of the issuing context is in flight. -/
def quiet (s : State) : Prop := s.cur.flights = [] ∧ s.cur.fills = [] ∧ s.cur.run = none

/-- The issuing context can take a trap to a handler. -/
def canTrap (s : State) : Prop := quiet s ∧ s.cur.handler = false ∧ s.cur.tvec.read s.pen ≠ 0

/-- A program counter as its epc shows it: bit 0 set for an idle stream. -/
def epcOf (pc : Dword) (idle : Bool) : Dword := if idle then pc ||| 1 else pc

/-- The issuing context of s has trapped in t with a code, for a stream: its own place saved, and nothing of its registers
and queues changed. -/
def trapped (s t : State) (st : Stream) (code : Nat) : Prop :=
  let c := s.cur
  t.cur.handler = true ∧ t.cur.pcS = c.tvec.read s.pen ∧
  t.cur.tcause.read s.pen = BitVec.ofNat 64 (256 * st.code + code) ∧
  t.cur.epcS.read s.pen = c.pcS ∧ t.cur.epcA.read s.pen = epcOf c.pcA c.idleA ∧
  t.cur.epcV.read s.pen = epcOf c.pcV c.idleV ∧ t.cur.epcM.read s.pen = epcOf c.pcM c.idleM ∧
  t.cur = { c with handler := true, pcS := t.cur.pcS, tcause := t.cur.tcause, tinfo := t.cur.tinfo, epcS := t.cur.epcS,
                   epcA := t.cur.epcA, epcV := t.cur.epcV, epcM := t.cur.epcM, epcMN := t.cur.epcMN,
                   lastTrap := t.cur.lastTrap, view := [], soft := [], pend := none, tileWait := none,
                   blocked := .nothing, begun := false }

/-! ### Scratchpad words and tiles (R259 to R268) -/

/-- The scratchpad of the issuing context's core. -/
def pad (s : State) : Memory := (s.core s.curCore).spad
/-- Tile n of the issuing context's core. -/
def tileHere (s : State) (n : Nat) : Tile := s.tile s.curCore n

/-- The address of lane i of a scratchpad word, none where its index excludes it (R259). -/
def laneAt (s : State) (f : SpForm) (base off : Dword) (i : Nat) : Option Dword := (laneAddrs s f base off).getD i none

/-- The a registers after a scratchpad word: with P, the base or the offset has moved on (R259). -/
def moved (s t : State) (f : SpForm) (a b : Reg) (post : Bool) : Prop :=
  if post then
    match f with
    | .contiguous => wroteA s t a (s.rA a + 512)
    | .strided => wroteA s t a (s.rA a + ((s.rA b).extractLsb' 32 32).signExtend 64)
    | .indexed => wroteA s t b (s.rA b + 512)
  else ∀ r, t.rA r = s.rA r

/-- A scratchpad load completes: one entry more in its queue, of the lanes' words; with C the tile of the base no longer
FULL, and without it nothing else changed but what the core counts of its banks. -/
def padLoads (i : Instr) (f : SpForm) (s : State) (d a b : Reg) (con post : Bool) : Prop :=
  ends i s (fun t => ∃ e : Lanes,
    (∀ n, n < 128 → e.getD n 0 = match laneAt s f (s.rA a) (s.rA b) n with | some x => spWord s x | none => 0) ∧
    t.cur.lq = s.cur.lq.setIfInBounds d.toNat (s.cur.lq.getD d.toNat [] ++ [⟨s.pen, e⟩]) ∧
    moved s t f a b post ∧ past .a s t 4 ∧ t.mem = s.mem ∧ pad t = pad s ∧
    (con = true → (tileHere t ((s.rA a).toNat / 16384)).full = false) ∧
    (con = false → lightly s t ∧
      t.cur = { s.cur with lq := t.cur.lq, lqNew := t.cur.lqNew, a := t.cur.a, pcA := t.cur.pcA, loopA := t.cur.loopA }))

/-- A scratchpad store completes: its queue's oldest entry taken; each word a lane names holds the lane of the highest
that names it, and every byte that no lane names reads as before to the context. -/
def padStores (i : Instr) (f : SpForm) (s : State) (d a b : Reg) (post : Bool) (e : Entry) (r : List Entry) : Prop :=
  let at_ := laneAt s f (s.rA a) (s.rA b)
  ends i s (fun t => t.cur.sq = s.cur.sq.setIfInBounds d.toNat r ∧ moved s t f a b post ∧ past .a s t 4 ∧
    (∀ n x, n < 128 → at_ n = some x → (∀ m, n < m → m < 128 → at_ m ≠ some x) → spWord t x = (e.read s.pen).getD n 0) ∧
    (∀ x : Nat, (∀ n y, n < 128 → at_ n = some y → ¬ (y.toNat ≤ x ∧ x < y.toNat + 4)) →
      (pad t).readByte s.pen x = (pad s).readByte s.pen x) ∧
    t = { s with ctxs := t.ctxs, cores := t.cores, dies := t.dies } ∧ (∀ k, k ≠ here s → t.ctx k = s.ctx k) ∧
    t.cur = { s.cur with sq := t.cur.sq, a := t.cur.a, pcA := t.cur.pcA, loopA := t.cur.loopA } ∧
    (∀ c, c ≠ s.curCore → t.core c = s.core c) ∧
    t.core s.curCore = { s.core s.curCore with spad := pad t, bankUse := (t.core s.curCore).bankUse } ∧
    ∀ n, t.die n = { s.die n with clusters := (t.die n).clusters })

/-- A tile operand of the issuing context. -/
def holdsTile (s : State) (a : Reg) : Prop := (s.rA a).toNat < 128 ∧ ownsTile s (s.rA a).toNat = true

/-! ### Engine commands at issue (R273) -/

/-- The context as an engine push finds it: after the push's release where it makes one. -/
def released (s : State) (sel : Option (Nat → Bool)) (u : State) : Prop :=
  match sel with
  | none => u = s
  | some f => commitOwn s (here s) f = (true, u)

/-- i completes at s by pushing a command, of u's next sequence number, that its engine has not taken. -/
def pushes (i : Instr) (s u : State) (fn : Nat) (opd opa opb : Dword) (follow : BitVec 192) : Prop :=
  ends i s (fun t => ∃ m : Cmd, t.cur.cmds = u.cur.cmds ++ [m] ∧ m.seq = u.cur.seqNext ∧ m.state = .queued ∧
    cmdFn m.words = fn ∧ cmdOpd m.words = opd ∧ cmdOpa m.words = opa ∧ cmdOpb m.words = opb ∧
    m.words.extractLsb' 128 192 = follow ∧ cmdPen m.words = u.pen ∧ cmdVcn m.words = u.cur.vcn.toNat ∧
    m.words.extractLsb' 32 16 = u.cur.seqNext ∧ past .a u t 4 ∧
    t.cur = { u.cur with cmds := t.cur.cmds, seqNext := u.cur.seqNext + 1, pcA := t.cur.pcA, loopA := t.cur.loopA } ∧
    t.mem = u.mem ∧ ∀ k, k ≠ here u → t.ctx k = u.ctx k)

/-- The copy commands with their kinds. -/
def copies : List ((Reg → Reg → Reg → Instr) × CopyFn) :=
  [(.cpy, .cpy), (.cpyf, .cpyf), (.cpymc, .cpymc), (.cpylr, .cpylr), (.cpyrd, .cpyrd)]

/-! ### V words (R27, R199, R287 to R291) -/

/-- The rounding code of a V word and its random source (R55, R57, R207). -/
def rcOf (w : VWord) (s : State) : Rc × Nat := (roundingOf w (s.cur.rmode.read s.pen)).getD (.rne, 0)

/-- A V word can issue: its stage guard is 1, it finds its token, the entries its sources read, of a load queue those that
entered before this cycle (R261), and room in its destination, room for its token post, and no random source of its own under a random rmode. -/
def vReady (w : VWord) (srcs : List Source) (d : PushDest) (s : State) : Prop :=
  (w.grd = 0 ∨ s.cur.loopV.g (w.grd.toNat % 4) = true) ∧ (∀ i, waitIdx 2 w.tkw = some i → s.cur.tokens s.pen i ≠ 0) ∧
  (∀ (n : Nat) (x : Source), srcs[n]? = some x → x.key.isFifo = true → x.place (srcs.take n) < ((s.cur.settledLq s.cycle).fifo x.key).length) ∧
  s.cur.destFull d = false ∧ s.cur.destOver d srcs = false ∧
  (∀ i, postIdx 2 w.tkp = some i → s.cur.postFull s.pen i = false) ∧
  (roundingOf w (s.cur.rmode.read s.pen)).isSome = true

/-- What a V word reads at issue: its sources' lanes through their views, the active lanes, the top of the mask stack and
its random source. -/
def seen (w : VWord) (srcs : List Source) (s : State) : VIn :=
  let src := fun (n : Nat) => match srcs[n]? with | some x => x.lanes (srcs.take n) s.cur s.pen | none => Lanes.zero
  let top := match s.cur.mask with | [] => BitVec.allOnes 128 | t :: _ => t.read s.pen
  ⟨src 0, src 1, src 2, if w.msk then top else BitVec.allOnes 128, top, (rcOf w s).1,
   (s.cur.rb.getD (rcOf w s).2 .void).read s.pen⟩

/-- What every V word does to the queues it names: each source that pops takes an entry, its token is taken, with `post`
its own is posted, and under random rounding every lane of its random source makes `draws` draws. -/
def vTook (w : VWord) (srcs : List Source) (draws : Nat) (post : Bool) (s t : State) : Prop :=
  (∀ k, t.cur.fifo k = (s.cur.fifo k).drop (popsOf srcs k)) ∧
  (∀ k, t.cur.tokens t.pen k = s.cur.tokens s.pen k - (if waitIdx 2 w.tkw = some k then 1 else 0) +
    (if post = true ∧ postIdx 2 w.tkp = some k then 1 else 0)) ∧
  (∀ n, n < 4 → (t.cur.rb.getD n .void).read s.pen = if rcOf w s = (.rsr, n)
    then ((s.cur.rb.getD n .void).read s.pen).map (rbAfter draws) else (s.cur.rb.getD n .void).read s.pen)

/-- Of the issuing context, `g` of it differs but by the queues a V word names, its random source, and V's place. -/
def vRest (s t : State) (g : Ctx → Ctx) : Prop :=
  t.cur = { g s.cur with v := t.cur.v, lq := t.cur.lq, dq := t.cur.dq, tok := t.cur.tok, rb := t.cur.rb,
                         pcV := t.cur.pcV, loopV := t.cur.loopV } ∧ ownOnly s t ∧ bytesKept s t

/-- i completes at s: its push is in flight to its destination, to land after its latency. -/
def vFlies (i : Instr) (w : VWord) (srcs : List Source) (draws lat : Nat) (d : PushDest) (s : State)
    (q : Flight → Prop) : Prop :=
  ends i s (fun t => ∃ f : Flight, vRest s t (fun c => { c with flights := c.flights ++ [f] }) ∧ past .v s t 12 ∧
    vTook w srcs draws false s t ∧ f.due = s.cycle + lat ∧ f.squash = w.sq ∧ f.dest = d ∧ f.pen = s.pen ∧
    f.post = w.tkp ∧ q f)

/-- A flight of lanes and nothing else. -/
def carries (f : Flight) (l : Nat → Word) : Prop := (∀ n, n < 128 → f.lanes.getD n 0 = l n) ∧ f.zcs = [] ∧ f.recs = []

/-- i completes at s without a push: g of the context, its token posted at once, and V moves past it. -/
def vPasses (i : Instr) (w : VWord) (srcs : List Source) (s : State) (g : Ctx → Ctx) : Prop :=
  ends i s (fun t => vRest s t g ∧ past .v s t 12 ∧ vTook w srcs 0 true s t)

/-- A branch of V to its target: what is in flight under SQ is gone. -/
def vTakes (i : Instr) (w : VWord) (s : State) (g : Ctx → Ctx) : Prop :=
  ends i s (fun t => vRest s t (fun c => { g c with flights := c.flights.filter (fun f => !f.squash) }) ∧
    jumped .v s t (target s.cur.pcV w.pa 12) ∧ vTook w [] 0 true s t)

/-- An element result: one rounding of the exact result, or an integer truncated or clamped (R50, R54, R294). -/
def rounded (w : VWord) (fi : Int → Int → Int) (fv : Rc → Val → Val → Val) (rc : Rc) (r a b : Nat) : Nat :=
  match tyOf w with
  | .int n u => intResult n u w.sat (fi (intOf n u a) (intOf n u b))
  | t => t.enc rc r w.sat (fv rc (t.dec a) (t.dec b))

/-- A transcendental of an element. -/
def bounded (f : Sys2Proof.Config.Transcendental) (a : Nat) : Nat := (transcendental f (BitVec.ofNat 32 a)).toNat

/-- The V words that work element by element: constructor, how many operands, latency for integers and for the other types,
and the element's value by rounding code, random number and operands (R294 to R300, R305, R292). -/
def elementWords : List ((VWord → Instr) × Nat × Nat × Nat × (VWord → Rc → Nat → Nat → Nat → Nat → Nat)) :=
  [(.vadd, 2, 2, 4, fun w rc r a b _ => rounded w (fun x y => x + y) (fun rc x y => x.add y (rc == .rdn)) rc r a b),
   (.vsub, 2, 2, 4, fun w rc r a b _ => rounded w (fun x y => x - y) (fun rc x y => x.add y.neg (rc == .rdn)) rc r a b),
   (.vmul, 2, 3, 4, fun w rc r a b _ => rounded w (fun x y => x * y) (fun _ x y => x.mul y) rc r a b),
   (.vdiv, 2, 12, 12, fun w rc r a b _ => rounded w (fun x _ => x) (fun _ x y => x.div y) rc r a b),
   (.vmin, 2, 2, 4, fun w _ _ a b _ => extremum w false a b), (.vmax, 2, 2, 4, fun w _ _ a b _ => extremum w true a b),
   (.vabs, 1, 2, 2, fun w _ _ a _ _ => absElem w a), (.vneg, 1, 2, 2, fun w _ _ a _ _ => negElem w a),
   (.vfma, 3, 4, 4, fun w rc r a b c => (tyOf w).enc rc r w.sat
     ((((tyOf w).dec a).mul ((tyOf w).dec b)).add ((tyOf w).dec c) (rc == .rdn))),
   (.vfms, 3, 4, 4, fun w rc r a b c => (tyOf w).enc rc r w.sat
     ((((tyOf w).dec a).mul ((tyOf w).dec b)).add ((tyOf w).dec c).neg (rc == .rdn))),
   (.vand, 2, 2, 2, fun _ _ _ a b _ => a &&& b), (.vor, 2, 2, 2, fun _ _ _ a b _ => a ||| b),
   (.vxor, 2, 2, 2, fun _ _ _ a b _ => a ^^^ b),
   (.vshl, 2, 2, 2, fun w _ _ a b _ => intResult (tyOf w).width w.u w.sat (intOf (tyOf w).width w.u a * 2 ^ (b % (tyOf w).width))),
   (.vshr, 2, 2, 2, fun w _ _ a b _ => intResult (tyOf w).width w.u false (intOf (tyOf w).width w.u a / 2 ^ (b % (tyOf w).width))),
   (.vmulh, 2, 3, 3, fun w _ _ a b _ =>
     let p := intOf (tyOf w).width w.u a * intOf (tyOf w).width w.u b
     if w.sat then intResult (tyOf w).width false true (2 * p / 2 ^ (tyOf w).width)
     else intResult (tyOf w).width w.u false (p / 2 ^ (tyOf w).width)),
   (.vexp2, 1, 10, 10, fun _ _ _ a _ _ => bounded .exp2 a), (.vlog2, 1, 10, 10, fun _ _ _ a _ _ => bounded .log2 a),
   (.vrcp, 1, 10, 10, fun _ _ _ a _ _ => bounded .rcp a), (.vrsq, 1, 10, 10, fun _ _ _ a _ _ => bounded .rsq a),
   (.vtanh, 1, 10, 10, fun _ _ _ a _ _ => bounded .tanh a), (.vsig, 1, 10, 10, fun _ _ _ a _ _ => bounded .sig a),
   (.vceq, 2, 2, 2, fun w _ _ a b _ => if ((tyOf w).dec a).eq ((tyOf w).dec b) then 2 ^ (tyOf w).width - 1 else 0),
   (.vcne, 2, 2, 2, fun w _ _ a b _ => if ((tyOf w).dec a).eq ((tyOf w).dec b) then 0 else 2 ^ (tyOf w).width - 1),
   (.vclt, 2, 2, 2, fun w _ _ a b _ => if ((tyOf w).dec a).lt ((tyOf w).dec b) then 2 ^ (tyOf w).width - 1 else 0),
   (.vcle, 2, 2, 2, fun w _ _ a b _ => if ((tyOf w).dec a).lt ((tyOf w).dec b) || ((tyOf w).dec a).eq ((tyOf w).dec b)
     then 2 ^ (tyOf w).width - 1 else 0),
   (.vsel, 3, 2, 2, fun w _ _ a b c => if (tyOf w).truth c then a else b),
   (.vsca, 2, 4, 4, fun w rc r a b _ => Fmt.f32.round rc r w.sat ((Fmt.f32.decode a).mul (Fmt.f32.decode b)))]

/-- The sources of a word with one, two or three operands. -/
def sources (w : VWord) (n : Nat) : List Source := [srcX w, srcY w, zSource w].take n

/-- The words that rearrange or convert lanes: constructor, sources, latency, draws, and lane n of the result (R292,
R301 to R303, R305, R307 to R310). -/
def laneWords : List ((VWord → Instr) × (VWord → List Source) × Nat × (VWord → Nat) × (VWord → VIn → Nat → Word)) :=
  [(.vrot, fun w => [srcX w], 3, fun _ => 0, fun w v n => if v.on n then v.x.getD ((n + w.pa.toNat / 64) % 128) 0 else 0),
   (.vperm, fun w => [srcX w, intSource w.y], 3, fun _ => 0,
     fun _ v n => if v.on n then v.x.getD ((v.y.getD n 0).toNat % 128) 0 else 0),
   (.vmov, fun w => [srcX w], 2, fun _ => 0, fun _ v n => if v.on n then v.x.getD n 0 else 0),
   (.vldi, fun w => [srcX w], 2, fun _ => 0, fun w v n => if v.on n then ldiLane w v n else 0),
   (.vrsum, fun w => [srcX w], 8, fun _ => 1, fun w v n => (broadcast w v (sumElem w v)).getD n 0),
   (.vrmax, fun w => [srcX w], 8, fun _ => 0, fun w v n => (broadcast w v (extremeElem true w v)).getD n 0),
   (.vrmin, fun w => [srcX w], 8, fun _ => 0, fun w v n => (broadcast w v (extremeElem false w v)).getD n 0),
   (.vscd, fun w => [srcX w, intSource w.y], 4, fun _ => 1, fun w v n => if v.on n then
     BitVec.ofNat 32 (scdElem w v (v.draw n 0) (v.x.getD n 0).toNat (v.y.getD n 0).toNat) else 0),
   (.vcvt, fun w => [sourceOf w.x (cvtSrc w)], 4, fun w => min (cvtSrc w).count (tyOf w).count, fun w v n => if v.on n then
     elemLane (tyOf w).width (min (cvtSrc w).count (tyOf w).count) (fun e =>
       convElem (cvtSrc w) (tyOf w) v.rc (v.draw n e) w.sat (elem (cvtSrc w) (v.x.getD n 0) e)) else 0),
   (.vpack, fun w => [srcX w, srcY w], 4, fun w => (tyOf w).count, fun w v n => if n < 256 / (tyOf w).count then
     elemLane (tyOf w).width (tyOf w).count (fun e => packElem w v n e) else 0),
   (.vunpk, fun w => [srcX w, intSource w.y], 4, fun _ => 0, fun w v n => if v.on n then
     (let k := 128 * ((v.y.getD 0 0).toNat % (tyOf w).count) + n
      BitVec.ofNat 32 (widen (tyOf w) (elem (tyOf w) (v.x.getD (k / (tyOf w).count) 0) (k % (tyOf w).count)))) else 0)]

/-! ### M words (R199, R319 to R332) -/

/-- An M word can issue: a stopped array word issues again, or the stage guard is 1 and the token there; no running word
can still fault (R328); an array word finds the array idle; and its token post has room. -/
def mReady (w : MWord) (array : Bool) (s : State) : Prop :=
  (s.cur.again = true ∨ ((w.grd = 0 ∨ s.cur.loopM.g (w.grd.toNat % 4) = true) ∧
    ∀ i, waitIdx 3 w.tkw = some i → s.cur.tokens s.pen i ≠ 0)) ∧
  s.cur.holdsBack = false ∧ (array = true → s.cur.run = none) ∧
  (∀ i, postIdx 3 w.tkp = some i → s.cur.postFull s.pen i = false)

/-- The token queues after an M word: its token taken, unless it issues again, and with `post` its own posted. -/
def mTokens (w : MWord) (post : Bool) (s t : State) : Prop :=
  ∀ k, t.cur.tokens t.pen k = s.cur.tokens s.pen k - (if s.cur.again = false ∧ waitIdx 3 w.tkw = some k then 1 else 0) +
    (if post = true ∧ postIdx 3 w.tkp = some k then 1 else 0)

/-- M's place after an array word: the word that follows, or for one that issues again the word it stopped before, where
the stream may have ended (R322). How MNX says so is the model's reading (log entry 24). -/
def mMoved (s t : State) : Prop :=
  t.cur.mnx = none ∧ match s.cur.mnx with
  | none => past .m s t 24 ∧ t.cur.idleM = s.cur.idleM
  | some none => past .m s t 24 ∧ t.cur.idleM = s.cur.idleM
  | some (some x) => t.cur.loopM = s.cur.loopM ∧
      if x.getLsbD 0 then t.cur.pcM = x - 1 ∧ t.cur.idleM = true
      else t.cur.pcM = x ∧ t.cur.idleM = s.cur.idleM

/-- An array word starts: `r` runs, MRS keeps the place of a word that issues again and is 0 otherwise, and g of the context
is all that differs besides. -/
def mStarts (i : Instr) (w : MWord) (s : State) (r : ArrayRun) (g : Ctx → Ctx) : Prop :=
  ends i s (fun t => mMoved s t ∧ mTokens w false s t ∧ ownOnly s t ∧ bytesKept s t ∧
    t.cur = { g s.cur with run := some r, mrs := if s.cur.again then s.cur.mrs else 0, tok := t.cur.tok, pcM := t.cur.pcM,
                           loopM := t.cur.loopM, idleM := t.cur.idleM, mnx := t.cur.mnx, mwd := t.cur.mwd,
                           mslot := t.cur.mslot })

/-- The word as it runs: named by its place, posting its token and squashed as the word at M's place says. -/
def running (op : ArrayOp) (w o : MWord) (viaQ : Bool) (due : Nat) (s : State) : ArrayRun :=
  { op := op, w := w, addr := s.cur.pcM, viaQ := viaQ, sq := o.sq, post := o.tkp, due := due, staged := 0, wd := 0,
    checked := true, keys := [], fault := none, fresh := true, rows := [] }

/-- ZI zeroes the accumulator of a word that has made no K-step yet (R327). -/
def zeroed (w : MWord) (s : State) (c : Ctx) : Ctx :=
  if w.zi = true ∧ (s.cur.again = false ∨ s.cur.mrs = 0) then { c with acc := c.acc.setIfInBounds w.acc.toNat (zeroRows s.pen) }
  else c

/-- The run of an MMA or MMAW with n bytes to an element: its first K-step six cycles and a K-step after the start (R320). -/
def firstStep (w : MWord) (s : State) : Nat := s.cycle + 6 + (if 2 ≤ w.mode.toNat then 4 else 1)

/-- The material that an MMA decodes the blocks of its slots with, by key: what the key slots hold when it issues (R29, R385; log
entry 25). -/
def keysOf (w : MWord) (s : State) : Table (BitVec 512) := slotKeys s s.curCore s.cur.die s.pen w

/-- The checks of an MMA and of an MMAW at issue (R325 to R327); a block of an MMA's slots that no decoding delivers is INTEGRITY at
its issue (log entry 25). -/
def mmaOk (w : MWord) (s : State) : Prop :=
  (∀ n ∈ allTiles w, ownsTile s n = true) ∧ (∀ n ∈ slotsOf w, wrongFormat s w n = false) ∧ s.cur.slotsFilling (slotsOf w) = false ∧
  slotsPlain (fun n => Table.get (keysOf w s) n 0) s s.curCore s.pen w = true
def mmawOk (w : MWord) (s : State) (d : BitVec 128) : Prop :=
  (∀ n ∈ allTiles w, ownsTile s n = true) ∧ d = (s.cur.wd.getD (w.wsrc.toNat % 4) .void).read s.pen ∧
  wdOk d s.cur.done (stepsOf w) = true ∧ wdFmt d = w.mode.toNat

/-- What an MMA runs with. -/
def slotted (w o : MWord) (viaQ : Bool) (s : State) : ArrayRun :=
  { running .mma w o viaQ (firstStep w s) s with keys := keysOf w s }

/-- What an MMAW runs with: its weights staged from the tile it stands in, by the descriptor as it began. -/
def streaming (w o : MWord) (viaQ : Bool) (d : BitVec 128) (s : State) : ArrayRun :=
  { running .mmaw w o viaQ (firstStep w s) s with
    staged := s.cur.done / 128 * 128, wd := setField d 0 32 (wdPos d - s.cur.done), checked := false }

/-- An M word without array work completes: its token posted at once, and g of the context. -/
def mPasses (i : Instr) (w : MWord) (s : State) (g : Ctx → Ctx) (q : State → Prop) : Prop :=
  ends i s (fun t => mTokens w true s t ∧ lightly s t ∧ bytesKept s t ∧
    t.cur = { g s.cur with tok := t.cur.tok, pcM := t.cur.pcM, loopM := t.cur.loopM } ∧ q t)

/-- A taken branch of M kills a squashable array word that has not completed (R321). -/
def squashed (c : Ctx) : Ctx :=
  match c.run with
  | some r => if r.sq = true then { c with run := none, mrs := 0, mqw := none } else c
  | none => c

/-- M's branch target (R321). -/
def targetOfM (w : MWord) (s : State) : Dword := target s.cur.pcM (w.pa.extractLsb' 112 16) 24

/-- Of the issuing context nothing differs but what the array unit may write: an accumulator, a wd register, a dq queue, token
counts, and the running word. -/
def arrayOnly (s t : State) : Prop :=
  t.cur = { s.cur with acc := t.cur.acc, wd := t.cur.wd, dq := t.cur.dq, tok := t.cur.tok, run := t.cur.run,
                       mrs := t.cur.mrs, mqw := t.cur.mqw }

/-- Row n of an accumulator as the issuing context reads it. -/
def rowOf (s : State) (acc : Bool) (n : Nat) : Lanes := s.cur.accRow s.pen acc n

/-- One row of an accumulator has a new value, and every other row its old one. -/
def rowSet (s t : State) (acc : Bool) (n : Nat) (l : Lanes) : Prop :=
  rowOf t acc n = l ∧ ∀ (b : Bool) (j : Nat), (b ≠ acc ∨ j ≠ n) → rowOf t b j = rowOf s b j

/-- What a K-step or row of a word does besides: with its consume bit the tiles of a step whose last row it has read are no
longer FULL, and otherwise nothing outside the array unit changes (R99). -/
def consumed (s t : State) (r : ArrayRun) (tiles : List Nat) (row : Nat) : Prop :=
  bytesKept s t ∧ (∀ n ∈ tiles, r.w.con = true → row = 127 → (t.tile s.curCore n).full = false) ∧
  (r.w.con = false ∨ row ≠ 127 → arrayOnly s t ∧ lightly s t)

/-- After one K-step or row more, the word goes on, or after the last it has completed. -/
def steppedOn (s t : State) (r : ArrayRun) (total period : Nat) : Prop :=
  if s.cur.mrs + 1 = total then t.cur.run = none ∧ t.cur.mrs = 0
  else t.cur.run = some { r with due := s.cycle + period, fresh := false } ∧ t.cur.mrs = s.cur.mrs + 1

/-! ### The other agents -/

/-- A register of a context, by number, under a pennant. -/
def regOf (c : Ctx) (p : Pen) (r : Reg) : Dword := c.readS p r

/-- A command of a context with a given sequence number, and its state. -/
def cmdState (s : State) (k : Nat) (seq : BitVec 16) : Option CmdState := ((s.ctx k).cmd seq).map (fun m => m.state)

/-- A plain page of a context's own die: neither compressed nor encrypted nor of weights. -/
def plain (s : State) (d : Nat) (pen : Pen) (w : Where) : Prop :=
  dieOfGpa w.gpa = d ∧ checkTarget s pen w.leaf w.gpa false = none ∧ w.leaf.cmp = 0 ∧ w.leaf.e = false ∧ w.leaf.wct = false

/-- A package that answers the function of a VI on BAR0, and on BAR2 and BAR4. -/
def answers0 (s : State) (p vi : Nat) : Prop := s.rejects0 p vi = false ∧ (s.pkg p).resetting vi = false
def answers (s : State) (p vi : Nat) (ide : Bool) : Prop := s.rejects p vi ide = false ∧ (s.pkg p).resetting vi = false

/-- A trace copy of a cluster, and a counter copy. -/
def traceOf (s : State) (dn cl : Nat) (hyp : Bool) : TraceCopy :=
  if hyp then (s.cluster dn cl).traceHyp else (s.cluster dn cl).traceGuest

/-- A response answers: how the access has completed, and its bytes. -/
def hostAnswer (s t : State) (p : Nat) (st : Completion) (bs : List Byte) : Prop :=
  (t.pkg p).reply = ⟨st, bs⟩ ∧ t.mem = s.mem ∧ t.ctxs = s.ctxs

/-- A session of a function reaches the package (R410, R413). -/
def session (s : State) (p vi : Nat) : Prop := noSession s p vi = false

/-! ### Steps, encodings and reset -/

/-- The row of the opcode table that an act performs: the event row of its name, with its operands. A read of a window, and
what the loader tells, have none. -/
def isRow : Act → Instr → Prop
  | .vPushLand, i => i = .vPushLand
  | .kstepCommit, i => i = .kstepCommit
  | .mhadRowWrite, i => i = .mhadRowWrite
  | .mdrnRowLand, i => i = .mdrnRowLand
  | .mzeroEffect, i => i = .mzeroEffect
  | .mwldSlotWrite, i => i = .mwldSlotWrite
  | .weightPortFetch, i => i = .weightPortFetch
  | .dispatch k, i => i = .dispatch k
  | .bankSwitch c, i => i = .bankSwitch c
  | .sliceExpiry c, i => i = .sliceExpiry c
  | .tileWaitTimeout k, i => i = .tileWaitTimeout k
  | .contextSave k slot, i => i = .contextSave k slot
  | .contextRestore slot k, i => i = .contextRestore slot k
  | .trapEntry, i => i = .trapEntry
  | .contextEnd k cause, i => i = .contextEnd k cause
  | .commitComplete g, i => i = .commitComplete g
  | .barrierEvaluate p q sig, i => i = .barrierEvaluate p q sig
  | .heldPushEnter p q, i => i = .heldPushEnter p q
  | .engineTakeCommand k seq, i => i = .engineTakeCommand k seq
  | .engineCommandComplete k seq, i => i = .engineCommandComplete k seq
  | .deliveryArrive n, i => i = .deliveryArrive n
  | .deliveryLanded n, i => i = .deliveryLanded n
  | .sigwaitSatisfy k seq, i => i = .sigwaitSatisfy k seq
  | .traceRecordWrite dn cl hyp, i => i = .traceRecordWrite dn cl hyp
  | .hostDoorAppend p vi door ofs data ide, i => i = .hostDoorAppend p vi door ofs data ide
  | .doorHeadWrite p vi door v ide, i => i = .doorHeadWrite p vi door v ide
  | .hostMemRead p vi va len ide, i => i = .hostMemRead p vi va len ide
  | .hostMemWrite p vi va data ide, i => i = .hostMemWrite p vi va data ide
  | .overflowCounterClear p vi door v, i => i = .overflowCounterClear p vi door v
  | .counterConfigWrite dn cl hyp vi v, i => i = .counterConfigWrite dn cl hyp vi v
  | .traceCounterClear dn cl hyp vi lost v, i => i = .traceCounterClear dn cl hyp vi lost v
  | .tctlWrite dn cl hyp vi v, i => i = .tctlWrite dn cl hyp vi v
  | .trptrWrite dn cl hyp vi v, i => i = .trptrWrite dn cl hyp vi v
  | .plimWrite p v, i => i = .plimWrite p v
  | .registerWrite p vi ofs v, i => i = .registerWrite p vi ofs v
  | .registerRead _ _ _, _ => False
  | .doorRead _ _ _ _ _, _ => False
  | .preempt p vi vcn g, i => i = .preempt p vi vcn g
  | .release p vi vcn g, i => i = .release p vi vcn g
  | .cancel p vi vcn g, i => i = .cancel p vi vcn g
  | .seed p vi index record, i => i = .seed p vi index record
  | .keyload p vi slot material, i => i = .keyload p vi slot material
  | .manreg p vi mid key sig body, i => i = .manreg p vi mid key sig body
  | .mandel p vi mid, i => i = .mandel p vi mid
  | .getCertificate p vi, i => i = .getCertificate p vi
  | .challenge p vi nonce, i => i = .challenge p vi nonce
  | .getMeasurements p vi, i => i = .getMeasurements p vi
  | .fabkey p secret, i => i = .fabkey p secret
  | .ideKm p vi key, i => i = .ideKm p vi key
  | .stopInterface p vi, i => i = .stopInterface p vi
  | .functionLevelReset p vi, i => i = .functionLevelReset p vi
  | .flrShutterResume p vi, i => i = .flrShutterResume p vi
  | .coldReset p imgA imgB, i => i = .coldReset p imgA imgB
  | .thermalHalt p celsius, i => i = .thermalHalt p celsius
  | .powerSample p watts, i => i = .powerSample p watts
  | .throttleStep p, i => i = .throttleStep p
  | .sweepPassStart p, i => i = .sweepPassStart p
  | .sweepVisit dn, i => i = .sweepVisit dn
  | .sweepPassEnd p, i => i = .sweepPassEnd p
  | .flitCrcRetry dn link, i => i = .flitCrcRetry dn link
  | .linkDead dn link, i => i = .linkDead dn link
  | .linkReturn dn link, i => i = .linkReturn dn link
  | .packetForward n, i => i = .packetForward n
  | .packetWaitExpiry n, i => i = .packetWaitExpiry n
  | .wr n, i => i = .wr n
  | .dlv n, i => i = .dlv n
  | .rd n, i => i = .rd n
  | .rdr n, i => i = .rdr n
  | .red n, i => i = .red n
  | .hop n, i => i = .hop n
  | .lrp n, i => i = .lrp n
  | .rsp n, i => i = .rsp n
  | .mgt n, i => i = .mgt n
  | .requestReissue dn n, i => i = .requestReissue dn n
  | .remoteTimeout k seq cmd tdie addr, i => i = .remoteTimeout k seq cmd tdie addr
  | .admitRepeat n, i => i = .admitRepeat n
  | .deliveryRetry n, i => i = .deliveryRetry n
  | .bootstrapMailboxGo p v, i => i = .bootstrapMailboxGo p v
  | .lockInterface p vi, i => i = .lockInterface p vi
  | .startInterface p vi, i => i = .startInterface p vi
  | .loadImage _ _ _, _ => False
  | .loadGroup _ _ _ _, _ => False

/-- The state in which a stream issues its word: its context is the issuing one, a stale loop state reads as zero, and
the cycle is noted (R71). -/
def issuing (s : State) (f : Focus) : State :=
  let s := { s with focus := f }
  s.modCur (fun c => (c.readLoops s.pen).noteIssue f.stream s.cycle)

/-- The words of a stream that have an encoding of their own: all but the rows that share VIMAP's. -/
def ownWord (i : Instr) (st : Stream) : Prop :=
  i.stream = some st ∧ ∀ e ∈ vimapRows, ∀ d a, i = e.1 d a → i = .vimapLeaf d a

/-- How many bits the instruction of a stream at n has. -/
def bitsOf (st : Stream) (n : Nat) : Nat := 8 * lengthOf st n

/-- A V word all of whose fields are zero, and an M word. -/
def blankV : VWord := ⟨0, false, false, false, 0, 0, 0, ⟨0, false, 0, 0⟩, ⟨0, false, 0, 0⟩, ⟨0, false, 0, 0⟩, 0, 0, false, 0⟩
def blankM : MWord := ⟨0, false, 0, 0, 0, false, false, false, 0, 0, 0, 0, 0, false, 0, 0, 0, 0⟩

/-- Worked words of the spec (R198, R202 to R211), the 32-bit parts from the highest down, and what they stand for. -/
def specWords : List (Stream × Nat × Instr) :=
  [(.s, 0x12345678_30E00000, .li 7 0x12345678), (.s, 0x6922FFFC, .stw 9 2 0xFFFC), (.s, 0xA4800008, .loop 4 0 8),
   (.s, 0xA0490002, .strm 2 9), (.s, 0xAC400000, .toks 2), (.s, 0xB48110C0, .claim 4 1 2 3), (.s, 0xBD030000, .doorw 8 3),
   (.s, 0xBC032001, .doors 3 4), (.s, 0xC0E00000, .csrr 7 0), (.s, 0xE0000001, .eret), (.s, 0xE4000007, .trap 7),
   (.a, 0x08C60200, .addiA 6 6 512), (.a, 0xA4840006, .aloop 4 1 6), (.a, 0x40060600, .ldv 0 6 true true),
   (.a, 0x60270200, .stv 1 7 true), (.a, 0xA0080002, .twaitf 8), (.a, 0xA1280006, .tstat 9 8), (.a, 0xA1000000, .talloc 8),
   (.a, 0xA02C6807, .wdset 1 12 13), (.a, 0xC0642800, .cpy 3 4 5), (.a, 0xC0090007, .sigdec 9), (.a, 0xC140000A, .cres 10),
   (.a, 0xC0648001, .cpyf 3 4 16), (.a, 0xC0042805, .pref 4 5),
   (.v, 0x09000020_00400008_80000200, .vfma { blankV with
      d := ⟨4, false, 0, 0⟩, x := ⟨32, false, 0, 0⟩, y := ⟨17, false, 0, 0⟩, pa := 0x200 }),
   (.v, 0x40020000_00020000_00000000, .mpush { blankV with ty := 4, x := ⟨1, false, 0, 0⟩ }),
   (.v, 0x48000000_00000000_00000005, .vbz { blankV with pa := 5 }),
   (.m, 0x02000184_09000000_00000000_00000000_00000000_00000000, .mmaw { blankM with zi := true, con := true, atile := 4, wsrc := 9 }),
   (.m, 0x03000000_00000000_00000000_00000000_00000000_00000000, .mmaq blankM),
   (.m, 0x04000086_00800000_00000000_00000000_00000000_00000000, .mhad { blankM with con := true, atile := 6, hsz := 2 }),
   (.m, 0x07000200_00000000_00000000_00000000_00000000_00000000, .mzero { blankM with acc := true })]

end Sys2Proof.Slice0

section Statements

open Sys2Proof Sys2Proof.Machine Sys2Proof.Slice0

/-- The R-form words of S (R219, R220, R217, R72): each completes in every state, writes s[d] with the value of its row
and changes nothing else; a write of s0 is discarded. -/
def Obligations.ScalarRFormsComplete : Prop :=
  ∀ e ∈ scalarR, ∀ (d a b : Reg) (s : State), setsS (e.1 d a b) s d (e.2 (s.rS a) (s.rS b)) 4

/-- CLZ and POPC (R219). -/
def Obligations.CountsComplete : Prop :=
  ∀ (d a : Reg) (s : State),
    (∃ n, isClz (s.rS a) n ∧ setsS (.clz d a) s d (BitVec.ofNat 64 n) 4) ∧
    setsS (.popc d a) s d (BitVec.ofNat 64 (setBits (s.rS a))) 4

/-- The I-form words of S and the constants (R221, R222). -/
def Obligations.ScalarIFormsComplete : Prop :=
  (∀ e ∈ scalarI, ∀ (d a : Reg) (imm : BitVec 16) (s : State),
    setsS (e.1 d a imm) s d (e.2 (s.rS a) (imm.signExtend 64)) 4) ∧
  (∀ (d : Reg) (imm : BitVec 16) (s : State), setsS (.lui d imm) s d (imm.signExtend 64 <<< 16) 4) ∧
  (∀ (d : Reg) (imm : Word) (s : State), setsS (.li d imm) s d (imm.signExtend 64) 8)

/-- The integer words of A (R257): the same, on the a registers and the program counter of A. -/
def Obligations.AccessArithmeticCompletes : Prop :=
  (∀ e ∈ accessR, ∀ (d a b : Reg) (s : State), setsA (e.1 d a b) s d (e.2 (s.rA a) (s.rA b)) 4) ∧
  (∀ e ∈ accessI, ∀ (d a : Reg) (imm : BitVec 16) (s : State),
    setsA (e.1 d a imm) s d (e.2 (s.rA a) (imm.signExtend 64)) 4) ∧
  (∀ (d : Reg) (imm : BitVec 16) (s : State), setsA (.luiA d imm) s d (imm.signExtend 64 <<< 16) 4) ∧
  (∀ (d : Reg) (imm : Word) (s : State), setsA (.liA d imm) s d (imm.signExtend 64) 8)

/-- The loads of S (R223): where the address is aligned and the line that holds it can be loaded, s[d] takes the bytes
extended by sign or zeros, and nothing else changes but what the context and its core keep of the line. -/
def Obligations.ScalarLoadsComplete : Prop :=
  ∀ e ∈ scalarLoads, ∀ (d a : Reg) (imm : BitVec 16) (s u : State) (x : Line),
    ea s a imm % e.2.1 = 0 → viewLine s s.focus.key (ea s a imm) = .ok (x, u) →
    ∃ t, exec (e.1 d a imm) s = .next t ∧ wroteS s t d (extended e.2.1 e.2.2 x (ea s a imm % 64)) ∧ past .s s t 4 ∧
      t.cur = { s.cur with s := t.cur.s, pcS := t.cur.pcS, loopS := t.cur.loopS, view := t.cur.view, lost := t.cur.lost,
                           begun := t.cur.begun } ∧ lightly s t ∧ bytesKept s t

/-- What S sees of memory (R111, R129): a line it has neither loaded nor stored to, on a page without compression or
encryption on its own die, reads as memory holds it if the line's pennant is the reader's, and as zero otherwise. That
the view is the line as it stands at the first load is the model's reading (log entry 4). -/
def Obligations.FirstLoadSeesMemory : Prop :=
  ∀ (s : State) (va : Nat) (w : Where),
    checkSource s (own s) Need.read va = .ok w → checkTarget s (own s).pen w.leaf w.gpa false = none →
    dieOfGpa w.gpa = s.cur.die → w.leaf.cmp = 0 → w.leaf.e = false → s.cur.sbuf = [] → s.cur.spill = [] →
    seenLine s (here s) (own s).pen (w.gpa / 64) = none →
    ∃ u, viewLine s s.focus.key va =
      .ok (if s.mem.pen (w.gpa / 64) = s.pen then s.mem.raw (w.gpa / 64) else 0, u)

/-- The stores of S (R224, R108): where the address is aligned, steps 1 to 7 of R125 pass and the buffer has room, the
store is buffered, with another of its line that no boundary has taken; no byte of memory and no register changes. -/
def Obligations.ScalarStoresComplete : Prop :=
  ∀ e ∈ scalarStores, ∀ (d a : Reg) (imm : BitVec 16) (s : State) (w : Where),
    ea s a imm % e.2 = 0 → checkSource s (own s) Need.write (ea s a imm) = .ok w → isDescriptor s w.gpa s.pen = false →
    s.cur.sbuf.length < 128 →
    let lines := fun (c : Ctx) => c.sbuf.map (fun x => (x.line, x.taken))
    let mine : Dword × Option Nat := (BitVec.ofNat 64 (ea s a imm / 64), none)
    ∃ t, exec (e.1 d a imm) s = .next t ∧ past .s s t 4 ∧
      t.cur = { s.cur with sbuf := t.cur.sbuf, pcS := t.cur.pcS, loopS := t.cur.loopS } ∧ lightly s t ∧ bytesKept s t ∧
      lines t.cur = if (lines s.cur).contains mine then lines s.cur else lines s.cur ++ [mine]

/-- A context sees its own store (R129): right after a store into an empty buffer, the bytes stored overlay whatever
its view of the line holds, and no other byte does. It rests on the model's views (log entry 4). -/
def Obligations.OwnStoreIsSeen : Prop :=
  ∀ e ∈ scalarStores, ∀ (d a : Reg) (imm : BitVec 16) (s t : State) (w : Where) (x : Line) (j : Nat),
    ea s a imm % e.2 = 0 → checkSource s (own s) Need.write (ea s a imm) = .ok w → isDescriptor s w.gpa s.pen = false →
    s.cur.sbuf = [] → s.cur.spill = [] → exec (e.1 d a imm) s = .next t → j < 64 →
    byteOf (t.cur.overlay s.pen (ea s a imm / 64) x) j =
      if ea s a imm % 64 ≤ j ∧ j < ea s a imm % 64 + e.2 then (s.rS d).extractLsb' (8 * (j - ea s a imm % 64)) 8
      else byteOf x j

/-- The conditional branches of S and A by two registers (R225, R258). A's branch on an outcome is among the outcomes' words. -/
def Obligations.BranchesComplete : Prop :=
  (∀ e ∈ scalarBranches, ∀ (a b : Reg) (disp : BitVec 16) (s : State),
    branches (e.1 a b disp) .s s (e.2 (s.rS a) (s.rS b)) (target s.cur.pcS disp 4) 4) ∧
  (∀ e ∈ accessBranches, ∀ (a b : Reg) (disp : BitVec 16) (s : State),
    branches (e.1 a b disp) .a s (e.2 (s.rA a) (s.rA b)) (target s.cur.pcA disp 4) 4)

/-- The jumps of S and A (R226, R258): JAL and JALR write the address of the next word, and JALR jumps to its source as
it stood before. A's AJMP with displacement 0 is its end instruction (R228). -/
def Obligations.JumpsComplete : Prop :=
  ∀ (s : State),
    (∀ disp, branches (.j disp) .s s true (target s.cur.pcS disp 4) 4) ∧
    (∀ a, branches (.jr a) .s s true (s.rS a) 4) ∧
    (∀ disp, ∃ t, exec (.jal disp) s = .next t ∧ wroteS s t 31 (s.cur.pcS + 4) ∧ jumped .s s t (target s.cur.pcS disp 4) ∧
      restS s t ∧ ownOnly s t ∧ bytesKept s t) ∧
    (∀ d a, ∃ t, exec (.jalr d a) s = .next t ∧ wroteS s t d (s.cur.pcS + 4) ∧ jumped .s s t (s.rS a) ∧ restS s t ∧
      ownOnly s t ∧ bytesKept s t) ∧
    (∀ disp, disp ≠ 0 → branches (.ajmp disp) .a s true (target s.cur.pcA disp 4) 4) ∧
    (∃ t, exec (.ajmp 0) s = .next t ∧ t.cur = { s.cur with idleA := true } ∧ ownOnly s t ∧ bytesKept s t)

/-- LOOP and ALOOP (R227, R201): outside a loop, with a count below 2^32, they begin one, or skip the body of a count of
zero. -/
def Obligations.LoopsBegin : Prop :=
  ∀ (a : Reg) (stg : BitVec 3) (len : BitVec 16) (s : State),
    (s.cur.loopS.act = false → (s.rS a).toNat < 2 ^ 32 →
      ∃ t, exec (.loop a stg len) s = .next t ∧ onlyMoved .s s t ∧
        loopBegun .s s t ((s.rS a).setWidth 32) (stg.toNat + 1) len.toNat) ∧
    (s.cur.loopA.act = false → (s.rA a).toNat < 2 ^ 32 →
      ∃ t, exec (.aloop a stg len) s = .next t ∧ onlyMoved .a s t ∧
        loopBegun .a s t ((s.rA a).setWidth 32) (stg.toNat + 1) len.toNat)

/-- The back-edge of a loop (R227): at the last word of the body a pass below N + S − 2 goes round, the last pass ends the
loop, a word elsewhere in the body moves on, and a word that passes END ends it. A branch out of the body ends the loop, and
one inside keeps it. -/
def Obligations.LoopBackEdge : Prop :=
  (∀ (l : Loop) (pc : Dword) (len : Nat), l.act = true → l.start ≤ pc → pc < l.fin →
    let nx := pc + BitVec.ofNat 64 len
    l.next pc len =
      if nx = l.fin then
        (if l.p.toNat + 1 < l.n.toNat + l.s.toNat - 1 then ({ l with p := l.p + 1 }, l.start) else ({ l with act := false }, nx))
      else if l.fin < nx then ({ l with act := false }, nx) else (l, nx)) ∧
  (∀ (l : Loop) (x : Dword), l.act = true →
    (l.start ≤ x ∧ x < l.fin → l.jump x = l) ∧ (¬ (l.start ≤ x ∧ x < l.fin) → l.jump x = { l with act := false }))

/-- TOKS and TOKW of S and A (R229, R23): a post adds one token to its queue where 63 would not be passed, a take removes
one where the queue holds one, and waits where it holds none. -/
def Obligations.TokensComplete : Prop :=
  ∀ (s : State) (src dst : Stream), src ≠ dst → (src = .s ∨ src = .a) →
    (s.cur.tokens s.pen (tokenQueue src dst) + s.cur.pendingPosts (tokenQueue src dst) < 63 →
      ∃ t, exec (if src = .s then .toks (BitVec.ofNat 5 dst.code) else .toksA (BitVec.ofNat 5 dst.code)) s = .next t ∧
        tokensAre s t (tokenQueue src dst) (s.cur.tokens s.pen (tokenQueue src dst) + 1) ∧ past src s t 4 ∧ restTok src s t) ∧
    (0 < s.cur.tokens s.pen (tokenQueue dst src) →
      ∃ t, exec (if src = .s then .tokw (BitVec.ofNat 5 dst.code) else .tokwA (BitVec.ofNat 5 dst.code)) s = .next t ∧
        tokensAre s t (tokenQueue dst src) (s.cur.tokens s.pen (tokenQueue dst src) - 1) ∧ past src s t 4 ∧ restTok src s t) ∧
    (s.cur.tokens s.pen (tokenQueue dst src) = 0 →
      waits (if src = .s then .tokw (BitVec.ofNat 5 dst.code) else .tokwA (BitVec.ofNat 5 dst.code)) s)

/-- BQSND and BQRCV of S, BQSND and ABR.BQ of A (R230, R258): a send adds one outcome where 16 would not be passed; a
receive takes the oldest and branches if it is 1. -/
def Obligations.OutcomesComplete : Prop :=
  ∀ (s : State),
    (∀ (i : Nat) (a : Reg), i < 3 → (s.cur.bq i).length < 16 →
      ends (.bqsnd (BitVec.ofNat 5 (i + 1)) a) s (fun t =>
        outcomesAre s t i (s.cur.bq i ++ [⟨s.pen, (s.rS a).setWidth 1⟩]) ∧ past .s s t 4 ∧ restBq .s s t)) ∧
    (∀ (a : Reg), (s.cur.bq 3).length < 16 →
      ends (.bqsndA a) s (fun t =>
        outcomesAre s t 3 (s.cur.bq 3 ++ [⟨s.pen, (s.rA a).setWidth 1⟩]) ∧ past .a s t 4 ∧ restBq .a s t)) ∧
    (∀ (i : Nat) (disp : BitVec 16) (x : Tag 1) (r : List (Tag 1)), (i = 3 ∨ i = 4) → s.cur.bq i = x :: r →
      ends (.bqrcv (BitVec.ofNat 5 (i - 2)) disp) s (fun t => outcomesAre s t i r ∧ restBq .s s t ∧
        if x.read s.pen = 1 then jumped .s s t (target s.cur.pcS disp 4) else past .s s t 4)) ∧
    (∀ (disp : BitVec 16) (x : Tag 1) (r : List (Tag 1)), s.cur.bq 0 = x :: r →
      ends (.abrBq disp) s (fun t => outcomesAre s t 0 r ∧ restBq .a s t ∧
        if x.read s.pen = 1 then jumped .a s t (target s.cur.pcA disp 4) else past .a s t 4))

/-- STRM (R228): outside a handler, once stream X is idle, X leaves idle at s[a], and nothing else of X changes. -/
def Obligations.StrmStarts : Prop :=
  ∀ (s : State) (x : Stream) (a : Reg), x ≠ .s → s.cur.handler = false → s.cur.idle x = true →
    ends (.strm (BitVec.ofNat 5 x.code) a) s (fun t =>
      t.cur = (((s.cur.setPc x (s.rS a)).setEnded x false).setPc .s t.cur.pcS).setLoop .s t.cur.loopS ∧
      past .s s t 4 ∧ ownOnly s t ∧ bytesKept s t)

/-- PHASE (R232, R131, R107): one buffered store to a page of the context's own die, without compression or encryption,
reaches memory, byte for byte under its mask; no other line changes; the buffer is empty, the view is refreshed and no
L1 line of the bank is left. With nothing buffered it changes nothing but these and its place. It waits for engine
commands, which is the model's reading (log entry 55). It rests on the model's views and on what an unwritten byte holds
(log entries 1 and 4). -/
def Obligations.PhaseCommits : Prop :=
  let fresh := fun (s t : State) => t.cur.view = [] ∧ t.cur.begun = false ∧ past .s s t 4 ∧
    (isSlot (here s) = false → ∀ x ∈ (t.core s.curCore).l1, x.bank ≠ bankOf (here s))
  (∀ (s : State) (e : SbEntry) (w : Where),
    s.cur.cmdsDone = true → s.cur.sbuf = [e] → s.cur.spill = [] → s.cur.paused = [] → e.pen = s.pen → e.taken = none →
    checkSource s (own s) Need.write (64 * e.line.toNat) = .ok w → dieOfGpa w.gpa = s.cur.die →
    checkTarget s s.pen w.leaf w.gpa false = none → w.leaf.cmp = 0 → w.leaf.e = false → w.leaf.wct = false →
    ends .phase s (fun t => t.cur.sbuf = [] ∧ fresh s t ∧
      (∀ j, j < 64 → t.mem.readByte s.pen (64 * (w.gpa / 64) + j) =
        if e.mask.getLsbD j then byteOf e.data j else s.mem.readByte s.pen (64 * (w.gpa / 64) + j)) ∧
      (∀ p a, a / 64 ≠ w.gpa / 64 → t.mem.readByte p a = s.mem.readByte p a))) ∧
  (∀ (s : State), s.cur.cmdsDone = true → s.cur.sbuf = [] → s.cur.spill = [] →
    ends .phase s (fun t => fresh s t ∧ lightly s t ∧ bytesKept s t ∧
      t.cur = { s.cur with view := [], begun := false, pcS := t.cur.pcS, loopS := t.cur.loopS })) ∧
  (∀ (s : State), s.cur.cmdsDone = false → waits .phase s)

/-- JOIN, GBAR and LEAVE (R233 to R235, R42 to R44). Where the descriptor's home controller answers now: a JOIN with a free
index and room adds a membership and a member, declares the line a descriptor, counts it in MEM and answers 0. A GBAR or LEAVE
that has not arrived does, in an open phase that counts somebody: its arrival enters the group, its parity's ARR is one more,
and S waits. One that has arrived waits until its phase has completed, and then retires. The rights that the words need of the
descriptor's page are the model's reading (log entry 29). -/
def Obligations.GroupWordsComplete : Prop :=
  ∀ (s : State) (a b : Reg),
    (∀ (d : Reg) (w : Where) (l : Line), describes s a w l → (s.rS b).toNat < 4096 → s.cur.member.length < 4 →
      s.cur.membership (s.rS a) = none → gdMem l < 4096 →
      (∀ g, s.groupAt w.gpa s.pen = some g → g.members.any (fun m => m.index == (s.rS b).toNat) = false) →
      ends (.join d a b) s (fun t => wroteS s t d 0 ∧ past .s s t 4 ∧
        t.cur.member = s.cur.member ++ [⟨s.rS a, (s.rS b).toNat, !gdP l⟩] ∧
        (∃ g, t.groupAt w.gpa s.pen = some g ∧ ⟨s.cur.id, (s.rS b).toNat, !gdP l, false⟩ ∈ g.members) ∧
        Table.get t.descriptors (w.gpa / 64) voidPen = s.pen ∧ holdsLine t s.pen w (setField l 0 16 (gdMem l + 1)))) ∧
    (∀ (w : Where) (l : Line) (m : Membership) (g : Group), describes s a w l → s.cur.groupWait (s.rS a) = none →
      s.cur.membership (s.rS a) = some m → s.groupAt w.gpa s.pen = some g →
      g.arrivals.any (fun x => x.ctx == s.cur.id && x.index == m.index) = false → g.counting g.parity ≠ 0 →
      let arrives := fun (i : Instr) (leave : Bool) => ends i s (fun t => t.cur.pcS = s.cur.pcS ∧ t.cur.s = s.cur.s ∧
        t.cur.groupWait (s.rS a) = some ⟨s.cur.pcS, s.rS a, false⟩ ∧
        (∃ h, t.groups.find? (fun x => x.n == g.n) = some h ∧ h.arrivals = g.arrivals ++ [arrivalOf s m leave]) ∧
        holdsLine t s.pen w (setArr l m.np (gdArr l m.np + 1)))
      (((s.rS b).getLsbD 1 = true → (s.rS b).getLsbD 0 = m.np) → arrives (.gbar a b) false) ∧ arrives (.leave a) true) ∧
    (∀ (w : GroupWait), s.cur.groupWait (s.rS a) = some w → s.cur.lost.any (fun l => l.addr == (s.rS a).toNat) = false →
      ∀ i ∈ ([.gbar a b, .leave a] : List Instr),
        (w.passed = false → waits i s) ∧
        (w.passed = true → ends i s (fun t => past .s s t 4 ∧
          onlyMoved .s { s with ctxs := (s.modCur (fun c => c.leftWait (s.rS a))).ctxs } t)))

/-- SPAWN, TEND and YIELD (R236 to R238). A SPAWN, its release made and its queue's home controller answering now, answers 0
on an open queue and puts the record into it, a closure's with the handle its k register holds and one reference more; on one
that is full or closed, or has pushes held before it, it answers 1. A TEND with idle streams, its release made, empties its bank. A YIELD gives the core to the other bank where that is READY,
and else only moves on. -/
def Obligations.TaskWordsComplete : Prop :=
  ∀ (s : State),
    (∀ (d a b : Reg) (r : Line) (u w v x : State), (s.rS a).toNat < viQcount (s.ctxVi s.cur) → (s.rS b).toNat % 64 = 0 →
      viewLine s (here s) (s.rS b).toNat = .ok (r, u) → release u (here u) = (true, w) →
      let h := u.cur.readK u.pen (recCode r).toNat
      (recClo r = true → (recCode r).toNat < 8 ∧ (envOf u u.cur.die u.cur.vi.toNat h).isSome = true) →
      let r' := if recClo r then setField r 448 64 h.toNat else r
      let q := viQfirst (w.ctxVi w.cur) + (s.rS a).toNat
      let home := queueHome w w.cur.pkg w.cur.vi.toNat q
      let ring := qBase ((w.pkg w.cur.pkg).queue q)
      let y := sent w home ring
      reached w home ring →
      ((queueOpen (y.pkg w.cur.pkg) q w.pen = false ∨ (y.pkg w.cur.pkg).heldPushes.any (fun h => h.queue == q) = true) →
        ends (.spawn d a b) s (fun t => t = (y.wS d 1).nextS)) ∧
      (queueOpen (y.pkg w.cur.pkg) q w.pen = true → (y.pkg w.cur.pkg).heldPushes.any (fun h => h.queue == q) = false →
        (if recClo r' then takeRefs y w.cur.die w.cur.vi.toNat (recCode r') 1 else some y) = some v →
        queueWrite v w.cur.pkg w.cur.vi.toNat q w.pen r' = .ok x →
        ends (.spawn d a b) s (fun t => t = (x.wS d 0).nextS ∧
          qTail ((t.pkg w.cur.pkg).queue q) = (qTail ((freshQueue (y.pkg w.cur.pkg) q w.pen).queue q) + 1) % 2 ^ 32))) ∧
    (∀ (u : State), s.cur.allIdle = true → landing s = false → release s (here s) = (true, u) →
      ends .tend s (fun t => (t.ctx (here s)).status = .empty ∧ ¬ (isSlot (here s) = false ∧
        (t.core (coreOf (here s))).running = some (bankOf (here s))))) ∧
    (isSlot (here s) = false → (s.ctx (otherBank s)).status = .ready → otherBank s ≠ here s →
      ends .yield s (fun t => (t.ctx (otherBank s)).status = .running ∧
        (t.core s.curCore).running = some (!bankOf (here s)) ∧ t.focus.key = otherBank s)) ∧
    ((s.ctx (otherBank s)).status ≠ .ready → otherBank s ≠ here s →
      ends .yield s (fun t => onlyMoved .s s t ∧ past .s s t 4))

/-- CLAIM, CLPARK, FULFIL and ABANDON (R178 to R181, R239 to R243). A claim answers DONE and its VALUE for a DONE name,
MAKING and 0 for one being made, INSTALLED for a new name where its context's maker set and a way have room, and FULL
otherwise. A CLPARK does the same in s6 and s5 after its release, but leaves its bank for a name being made where it finds
a free node. The maker of an entry settles it, and the entry leaves the maker set; anyone else is answered NOTMAKER. FULFIL puts
VALUE and STATE DONE into the entry and wakes its waiting nodes, oldest first, each with the value and DONE. ABANDON makes an
entry with no waiter EMPTY, and hands one with waiters to the oldest: its record goes out with the next maker token, and the
entry is PEND; a record that its queue drops hands it on again. The answers are of operations that the bucket's die answers now
and has not performed before. Answers where the VI has no table are the model's reading (log entry 30). -/
def Obligations.ClaimWordsComplete : Prop :=
  ∀ (s : State) (a b c : Reg),
    (∀ (d : Reg), let x := claimed s (s.rS a) (s.rS b) (s.rS c)
      let bk := bucketOf (s.ctxVi s.cur) (s.rS a) (s.rS b) (s.rS c)
      let answers := fun (outcome : Nat) (v : Dword) (q : State → Prop) => ends (.claim d a b c) s (fun t => past .s s t 4 ∧
        (∃ st, claimOutcome st = outcome ∧ wroteRun s t d.toNat [st, v]) ∧ q t)
      (hasClaims (s.ctxVi s.cur) = false → answers 3 0 (fun t => ownOnly s t ∧ bytesKept s t)) ∧
      (hasClaims (s.ctxVi s.cur) = true → reached s (dieOfGpa bk.addr) bk.addr →
        (∀ y, x = some y → clState (claimEntry s y) = 2 → answers 2 (clValue (claimEntry s y)) (fun t => t.cur.view = [])) ∧
        (∀ y, x = some y → clState (claimEntry s y) ≠ 2 → answers 1 0 (fun t => t.cur.maker = s.cur.maker)) ∧
        (x = none → s.cur.maker.length < 4 → (installWay (ways s bk s.pen)).isSome = true →
          answers 0 0 (fun t => ∃ m, t.cur.maker = s.cur.maker ++ [m] ∧ m.n0 = s.rS a ∧ m.n1 = s.rS b ∧ m.n2 = s.rS c)) ∧
        (x = none → (4 ≤ s.cur.maker.length ∨ installWay (ways s bk s.pen) = none) →
          answers 3 0 (fun t => t.cur.maker = s.cur.maker ∧ bytesKept s t)))) ∧
    (s.cur.allIdle = true → landing s = false →
      (hasClaims (s.ctxVi s.cur) = false → ends (.clpark a b c) s (fun t => past .s s t 4 ∧ claimOutcome (t.rS 6) = 3 ∧
        t.rS 5 = 0)) ∧
      (hasClaims (s.ctxVi s.cur) = true → viQcount (s.ctxVi s.cur) ≤ s.taskOf s.cur →
        exec (.clpark a b c) s = .next (s.fault .s fPerm 0)) ∧
      (∀ (u : State), hasClaims (s.ctxVi s.cur) = true → s.taskOf s.cur < viQcount (s.ctxVi s.cur) →
        release s (here s) = (true, u) → let v := acquire u (here s)
        let bk := bucketOf (v.ctxVi v.cur) (v.rS a) (v.rS b) (v.rS c)
        let x := claimed v (v.rS a) (v.rS b) (v.rS c)
        let answers := fun (outcome : Nat) (y : Dword) => ends (.clpark a b c) s (fun t => past .s v t 4 ∧
          claimOutcome (t.rS 6) = outcome ∧ t.rS 5 = y)
        reached v (dieOfGpa bk.addr) bk.addr →
        (∀ y, x = some y → clState (claimEntry v y) = 2 → answers 2 (clValue (claimEntry v y))) ∧
        (∀ y, x = some y → clState (claimEntry v y) ≠ 2 → (freeNodeOf v (v.ctxVi v.cur) v.pen).isSome = true →
          clWait (claimEntry v y) ≠ 65535 → ends (.clpark a b c) s (fun t => (t.ctx (here s)).status = .empty)) ∧
        (∀ y, x = some y → clState (claimEntry v y) ≠ 2 →
          (freeNodeOf v (v.ctxVi v.cur) v.pen = none ∨ clWait (claimEntry v y) = 65535) → answers 3 0) ∧
        (x = none → v.cur.maker.length < 4 → (installWay (ways v bk v.pen)).isSome = true → answers 0 0) ∧
        (x = none → (4 ≤ v.cur.maker.length ∨ installWay (ways v bk v.pen) = none) → answers 3 0))) ∧
    (∀ (d : Reg), let m := s.cur.makerOf (s.rS a) (s.rS (a + 1)) (s.rS (a + 2)) (s.rS b)
      (m = none ∨ hasClaims (s.ctxVi s.cur) = false →
        setsS (.fulfil d a b c) s d statusNotMaker 4 ∧ setsS (.abandon d a b) s d statusNotMaker 4) ∧
      (∀ (k : Maker) (u : State), m = some k → hasClaims (s.ctxVi s.cur) = true → release s (here s) = (true, u) →
        let v := u.ctxVi u.cur
        let bk := bucketOfEntry v k.entry.toNat
        let way := k.entry.toNat % 8
        let e := readClaim u bk way u.pen
        let y := sent u (dieOfGpa bk.addr) bk.addr
        -- the answer, and the entry out of the maker set, once the act has left z
        let settles := fun (t z : State) => t = setS d (claimStatus 2 k.entry.toNat 0 false) (z.modCur (fun c =>
          { c with maker := c.maker.filter (fun x => x.entry != k.entry) })) ∧ (d ≠ 0 → claimOutcome (t.rS d) = 2) ∧
          past .s u t 4 ∧ t.cur.maker = u.cur.maker.filter (fun x => x.entry != k.entry)
        reached u (dieOfGpa bk.addr) bk.addr →
        (clState e = 1 → clPend e = false → clMtok e = k.mtok.toNat → clNamed e k.n0 k.n1 k.n2 = true →
          let node := nodeLine v (clHead e)
          -- an entry with its oldest node off the list
          let popped := fun (w z : State) => clWait (readClaim z bk way u.pen) + 1 = clWait e ∧
            clHead (readClaim z bk way u.pen) = nodeNext (w.mem.raw (node + 1)) ∧ z.pkgs = y.pkgs ∧ z.cores = y.cores
          ends (.fulfil d a b c) s (fun t =>
            let w := writeClaim y bk way (setField (setField e 256 64 (s.rS c).toNat) 110 2 2)
            let full := fun (z : State) => clState (readClaim z bk way u.pen) = 2 ∧ clValue (readClaim z bk way u.pen) = s.rS c
            full w ∧ (clWait e = 0 → settles t w) ∧
            (clWait e ≠ 0 → ∃ z, popped w z ∧ full z ∧ settles t (wakeAll (pushHome z u.cur.pkg u.cur.vi.toNat
              (nodeQueue (w.mem.raw (node + 1))) u.pen (wokenRecord (w.mem.raw node) (s.rS c)
                (claimStatus 2 (bk.entry + way) 0 false))).2 u.cur.pkg u.cur.vi.toNat bk way u.pen (clWait e)))) ∧
          ends (.abandon d a b) s (fun t =>
            (clWait e = 0 → ∃ z, settles t z ∧ clState (readClaim z bk way u.pen) = 0) ∧
            (clWait e ≠ 0 → ∃ z, popped y z ∧ clState (readClaim z bk way u.pen) = 1 ∧
              clPend (readClaim z bk way u.pen) = true ∧ clMtok (readClaim z bk way u.pen) = (clMtok e + 1) % 2 ^ 32 ∧
              match pushHome z u.cur.pkg u.cur.vi.toNat (nodeQueue (y.mem.raw (node + 1))) u.pen (wokenRecord (y.mem.raw node) 0
                  (claimStatus 0 (bk.entry + way) ((clMtok e + 1) % 2 ^ 32) true)) with
              | (.dropped, x) => settles t (handOver x u.cur.pkg u.cur.vi.toNat bk way u.pen (clWait e))
              | (_, x) => settles t x))) ∧
        (clState e ≠ 1 ∨ clPend e = true ∨ clMtok e ≠ k.mtok.toNat ∨ clNamed e k.n0 k.n1 k.n2 = false →
          ∀ i ∈ ([.fulfil d a b c, .abandon d a b] : List Instr), ends i s (fun t => past .s u t 4 ∧
            (d ≠ 0 → t.rS d = statusNotMaker) ∧ t.cur.maker = u.cur.maker))))

/-- CAPT, CAPTR, APPLY, KDUP, KREL and KENV (R244 to R251, R76, R104, R105). A capture's entry has the pennant, one reference,
the KINDS and the values captured, and its handle the pennant, the virtual core, LIVE and the entry address. -/
def Obligations.ClosureWordsComplete : Prop :=
  ∀ (s : State) (a b : Reg),
    -- a capture takes the lowest free entry, with one reference; its handle names it
    (∀ (d : Reg) (i : Nat) (vs : List Dword) (kinds : Nat), d.toNat < 8 → freeEnv s s.curCore = some i →
      let w := s.rS b
      let old := s.cur.readK s.pen d.toNat
      let q := fun (t : State) => past .s s t 4 ∧ (let h := t.cur.readK t.pen d.toNat
        hEnv h = i ∧ hPen h = s.pen ∧ hVcore h = s.cur.vcn.toNat ∧ hLive h = true ∧ hEntry h = field w 0 23) ∧
        -- the handle that the register held is released first, which may name this entry only where it is stale
        (hLive old = false ∨ hEnv old ≠ i → (t.core s.curCore).envAt i =
          ⟨s.pen, 1, BitVec.ofNat 16 kinds, true, Vector.ofFn (fun j => vs.getD j.val 0), s.cur.vcn⟩)
      a.toNat + field w 24 3 ≤ 31 → field w 48 16 = 0 → field w 27 5 = 0 →
      -- of plain values, with either word
      (field w 32 16 = 0 → kinds = 0 → vs = (List.range (field w 24 3 + 1)).map (fun j => s.rS (BitVec.ofNat 5 (a.toNat + j))) →
        ends (.capt d a b) s q ∧ ends (.captr d a b) s q) ∧
      -- of references too, where what they name stands
      ((∀ j, j < 8 → field w 32 16 / 4 ^ j % 4 ≠ 3) → kinds = field w 32 16 % 4 ^ (field w 24 3 + 1) →
        captValues s a.toNat (field w 32 16) (field w 24 3 + 1) 0 = .ok vs → ends (.captr d a b) s q)) ∧
    -- a call of a live handle of the own virtual core jumps to its entry
    (∀ (d : Reg) (e : Nat × Env), envNamed s a = some e → (s.rS b).getLsbD 0 = false →
      hVcore (s.cur.readK s.pen a.toNat) = s.cur.vcn.toNat → refsOk s s.cur (s.cur.readK s.pen a.toNat) e.2 = true → a = 0 →
      ends (.apply d a b) s (fun t => wroteS s t d (s.cur.pcS + 4) ∧ restS s t ∧ ownOnly s t ∧
        jumped .s s t (entryOf (s.cur.cbase.read s.pen) (s.cur.readK s.pen a.toNat)))) ∧
    -- with another register than k0 it also takes a reference and copies the handle to k0
    (∀ (d : Reg) (e : Nat × Env) (u : State), envNamed s a = some e → (s.rS b).getLsbD 0 = false → a ≠ 0 →
      hVcore (s.cur.readK s.pen a.toNat) = s.cur.vcn.toNat → refsOk s s.cur (s.cur.readK s.pen a.toNat) e.2 = true →
      takeRefs s s.cur.die s.cur.vi.toNat (s.cur.readK s.pen a.toNat) 1 = some u →
      ends (.apply d a b) s (fun t => wroteS s t d (s.cur.pcS + 4) ∧ t.cur.readK t.pen 0 = s.cur.readK s.pen a.toNat ∧
        jumped .s s t (entryOf (s.cur.cbase.read s.pen) (s.cur.readK s.pen a.toNat)))) ∧
    -- one of another virtual core, or that is asked to, is pushed as a record to that core's first queue
    (∀ (d : Reg) (e : Nat × Env) (p q : Nat) (u w : State), envNamed s a = some e →
      ((s.rS b).getLsbD 0 = true ∨ hVcore (s.cur.readK s.pen a.toNat) ≠ s.cur.vcn.toNat) →
      routeOfVcn s s.cur.die s.cur.vi.toNat (hVcore (s.cur.readK s.pen a.toNat)) = some (p, q) → release s (here s) = (true, u) →
      let phys := viQfirst ((u.pkg p).vi s.cur.vi.toNat) + q
      let home := queueHome u p s.cur.vi.toNat phys
      let ring := qBase ((u.pkg p).queue phys)
      reached u home ring →
      takeRefs (sent u home ring) s.cur.die s.cur.vi.toNat (s.cur.readK s.pen a.toNat) 1 = some w →
      ends (.apply d a b) s (fun t => t = setS d 0 (pushHome w p s.cur.vi.toNat q w.pen (taskRecord true
        (s.cur.readK s.pen a.toNat) (w.rS 1) 0 (w.rS 3) (w.rS 4) (w.rS 5) (w.rS 6))).2)) ∧
    -- a null handle is copied as null
    (∀ (d : Reg), d.toNat < 8 → hLive (s.cur.readK s.pen a.toNat) = false →
      ends (.kdup d a) s (fun t => t.cur.readK t.pen d.toNat = 0 ∧ past .s s t 4)) ∧
    -- a copy of a live handle takes a reference
    (∀ (d : Reg) (e : Nat × Env) (u : State), d.toNat < 8 → envNamed s a = some e →
      takeRefs s s.cur.die s.cur.vi.toNat (s.cur.readK s.pen a.toNat) 1 = some u →
      ends (.kdup d a) s (fun t => t.cur.readK t.pen d.toNat = s.cur.readK s.pen a.toNat ∧ past .s s t 4)) ∧
    (∀ (d : Reg), d.toNat < 8 → ends (.krel d) s (fun t => t.cur.readK t.pen d.toNat = 0 ∧ past .s s t 4)) ∧
    (∀ (d : Reg) (e : Nat × Env), 1 ≤ d.toNat → d.toNat ≤ 24 → envNamed s a = some e →
      ends (.kenv d a) s (fun t => wroteRun s t d.toNat e.2.vals.toList ∧ past .s s t 4 ∧ restS s t ∧ ownOnly s t))

/-- DOORW and DOORS (R252, R253, R41), where the door's home controller answers now. A DOORW that finds a message and nobody before it takes it: eight registers, HEAD one
more, and a new view; one that has been given its message takes that; and one that finds none waits. A DOORS, its release
made, on an open outbound door appends its message, TAIL one more; and a door that is full or closed holds it up. -/
def Obligations.DoorWordsComplete : Prop :=
  ∀ (s : State) (a : Reg),
    (∀ (d : Reg) (n : Nat), d.toNat ≤ 24 → (∀ m q, s.cur.inside ≠ .message m q) → doorOfNum s s.cur (s.rS a).toNat false = some n →
      let free := doorHas s s.cur.pkg s.cur.vi.toNat n && !(s.pkg s.cur.pkg).doorWaiters.any (fun e => e.1 == n)
      let home := doorHome s s.cur.pkg s.cur.vi.toNat n
      let ring := dBase ((s.pkg s.cur.pkg).door n).desc
      (∀ (m : Line) (u : State), free = true → reached s home ring →
        doorTake (sent s home ring) s.cur.pkg s.cur.vi.toNat n = .ok (m, u) →
        ends (.doorw d a) s (fun t => wroteRun s t d.toNat ((List.range 8).map (lineDword m)) ∧ past .s s t 4 ∧
          t.cur.view = [] ∧ dHead ((t.pkg s.cur.pkg).door n).desc =
            (dHead (freshDoor ((s.pkg s.cur.pkg).door n) s.pen).desc + 1) % 2 ^ 32)) ∧
      (free = false → ends (.doorw d a) s (fun t => (t.ctx (here s)).status = .waiting ∧
        (t.ctx (here s)).blocked = .door n ∧ (t.ctx (here s)).pcS = s.cur.pcS))) ∧
    (∀ (d : Reg) (m : Line) (q : Nat), d.toNat ≤ 24 → s.cur.inside = .message m q →
      ends (.doorw d a) s (fun t => wroteRun s t d.toNat ((List.range 8).map (lineDword m)) ∧ past .s s t 4 ∧
        t.cur.view = [] ∧ t.cur.inside = .nothing ∧ lightly s t)) ∧
    (∀ (b : Reg) (n : Nat) (m : Line) (u : State), doorOfNum s s.cur (s.rS a).toNat true = some n →
      (s.rS b).toNat % 64 = 0 → viewLine s (here s) (s.rS b).toNat = .ok (m, u) →
      (∀ (w x : State) (i : Nat), doorOpen u s.cur.pkg s.cur.vi.toNat n = true → release u (here u) = (true, w) →
        let home := doorHome w s.cur.pkg s.cur.vi.toNat n
        let ring := dBase ((w.pkg s.cur.pkg).door n).desc
        reached w home ring → doorAppend (sent w home ring) s.cur.pkg s.cur.vi.toNat n m = .ok (i, x) →
        ends (.doors a b) s (fun t => t = x.nextS ∧ i = dTail (freshDoor ((w.pkg s.cur.pkg).door n)
          (w.penOf s.cur.pkg s.cur.vi.toNat)).desc ∧ dTail ((t.pkg s.cur.pkg).door n).desc = (i + 1) % 2 ^ 32)) ∧
      (doorOpen u s.cur.pkg s.cur.vi.toNat n = false → ends (.doors a b) s (fun t => t = u)))

/-- CSRR and CSRW (R87, R88, R254): a read of a listed CSR writes its value to s[d]: what the context holds under its pennant,
the die of the core map's entry, the cycles since the package's birth, or in VI 0 alone the physical core and bank; a write of a writable CSR keeps the bits it has, of
a c register its low word; of a read-only or computed CSR and of pcore it traps with PERM; an unlisted number traps with
ILLEGAL. -/
def Obligations.CsrWordsComplete : Prop :=
  ∀ (s : State) (d : Reg) (csr : BitVec 12),
    (∀ v, readCsr s (here s) csr.toNat = some v → setsS (.csrr d csr) s d v 4) ∧
    (let shows := fun (n : Nat) (v : Dword) => csr.toNat = n → setsS (.csrr d csr) s d v 4
     let c := s.cur
     shows 0x000 (c.vcn.setWidth 64) ∧ shows 0x002 (s.pen.setWidth 64) ∧
     shows 0x001 (BitVec.ofNat 64 (ceVdie ((s.die c.die).coreEntry c.vi.toNat c.vcn.toNat))) ∧
     shows 0x003 ((c.taskq.read s.pen).setWidth 64) ∧ shows 0x004 (BitVec.ofNat 64 (s.cycle - (s.pkg c.pkg).born)) ∧
     shows 0x008 (c.rmode.read s.pen) ∧ (∀ n, n < 16 → shows (0x010 + n) (((c.c.getD n .void).read s.pen).setWidth 64)) ∧
     shows 0x020 (c.tvec.read s.pen) ∧ shows 0x021 (c.tcause.read s.pen) ∧ shows 0x022 (c.tinfo.read s.pen) ∧
     shows 0x024 (c.epcS.read s.pen) ∧ shows 0x025 (c.epcA.read s.pen) ∧ shows 0x026 (c.epcV.read s.pen) ∧
     shows 0x027 (c.epcM.read s.pen) ∧ shows 0x028 (c.cbase.read s.pen) ∧ shows 0x029 (c.epcMN.read s.pen) ∧
     shows 0x030 (if c.vi = 0 then BitVec.ofNat 64 (65536 * c.die + 256 * (c.home % 144) + (bankOf (here s)).toNat) else 0)) ∧
    (∀ e ∈ writableCsrs, csr.toNat = e.1 → ends (.csrw d csr) s (fun t => e.2.2 t.cur = ⟨s.pen, s.rS d &&& e.2.1⟩ ∧
      past .s s t 4 ∧ ownOnly s t ∧ bytesKept s t ∧ t.cur.s = s.cur.s ∧ t.cur.c = s.cur.c)) ∧
    (0x010 ≤ csr.toNat → csr.toNat ≤ 0x01F → ends (.csrw d csr) s (fun t =>
      t.cur = { s.cur with c := s.cur.c.setIfInBounds (csr.toNat - 0x010) ⟨s.pen, (s.rS d).setWidth 32⟩,
                           pcS := t.cur.pcS, loopS := t.cur.loopS } ∧ past .s s t 4 ∧ ownOnly s t ∧ bytesKept s t)) ∧
    (csr.toNat ∈ readOnlyCsrs → exec (.csrw d csr) s = .next (s.fault .s fPerm 0)) ∧
    (csr.toNat ∉ readOnlyCsrs → csr.toNat ∉ writableCsrs.map (fun e => e.1) → ¬ (0x010 ≤ csr.toNat ∧ csr.toNat ≤ 0x01F) →
      exec (.csrw d csr) s = .next (s.fault .s fIllegal 0) ∧ exec (.csrr d csr) s = .next (s.fault .s fIllegal 0))

/-- Trap entry (R333, R30): a fault of any stream of a context with a handler and nothing in flight, of another stream than S
where no operation of S has begun and is not complete (R218), saves every program
counter, records the cause and enters the handler; no general register, queue, mask or accumulator changes. -/
def Obligations.TrapEntry : Prop :=
  ∀ (s : State) (st : Stream) (code addr : Nat), canTrap s → (st = .s ∨ s.cur.begun = false) →
    trapped s (s.fault st code addr) st code

/-- BRK of S and A and TRAP (R334): BRK saves its own word and TRAP the word that follows. What TRAP saves is the
model's reading of two rules (log entry 20). -/
def Obligations.TrapWordsComplete : Prop :=
  ∀ (s : State), canTrap s →
    ends .brk s (fun t => trapped s t .s fBrk) ∧
    (s.cur.begun = false → ends .brkA s (fun t => trapped s t .a fBrk)) ∧
    (∀ imm, ends (.trap imm) s (fun t => trapped s.nextS t .s fTrap ∧ past .s s s.nextS 4))

/-- ERET in handler state (R335): every stream resumes at its epc, but one whose epc has bit 0 set, which stays idle where it
was; nothing else changes but the handler state, and the restart state of M. ERET outside it traps with ILLEGAL. -/
def Obligations.EretReturns : Prop :=
  ∀ (s : State),
    (s.cur.handler = true → ends .eret s (fun t =>
      t.cur.handler = false ∧ t.cur.pcS = s.cur.epcS.read s.pen ∧
      (∀ x : Dword, s.cur.epcA.read s.pen = x → t.cur.idleA = x.getLsbD 0 ∧ t.cur.pcA = if x.getLsbD 0 then s.cur.pcA else x) ∧
      (∀ x : Dword, s.cur.epcV.read s.pen = x → t.cur.idleV = x.getLsbD 0 ∧ t.cur.pcV = if x.getLsbD 0 then s.cur.pcV else x) ∧
      (∀ x : Dword, s.cur.epcM.read s.pen = x → t.cur.idleM = x.getLsbD 0 ∧ t.cur.pcM = if x.getLsbD 0 then s.cur.pcM else x) ∧
      t.cur = { s.cur with handler := false, pcS := t.cur.pcS, pcA := t.cur.pcA, idleA := t.cur.idleA, pcV := t.cur.pcV,
                           idleV := t.cur.idleV, pcM := t.cur.pcM, idleM := t.cur.idleM, mnx := t.cur.mnx, mwd := t.cur.mwd,
                           mslot := t.cur.mslot, mrs := t.cur.mrs, mqw := t.cur.mqw } ∧ ownOnly s t ∧ bytesKept s t)) ∧
    (s.cur.handler = false → exec .eret s = .next (s.fault .s fIllegal 0))

/-- A handler that returns at once resumes the program (R333, R335): after a fault, ERET restores the program counters and the
idle streams, and leaves every s, a, k, v and c register as the trap found it. -/
def Obligations.TrapThenEretResumes : Prop :=
  ∀ (s t : State) (st : Stream) (code addr : Nat), canTrap s → (st = .s ∨ s.cur.begun = false) → s.cur.pcA.getLsbD 0 = false → s.cur.pcV.getLsbD 0 = false →
    s.cur.pcM.getLsbD 0 = false → exec .eret (s.fault st code addr) = .next t →
    t.cur.handler = false ∧ t.cur.pcS = s.cur.pcS ∧ t.cur.pcA = s.cur.pcA ∧ t.cur.idleA = s.cur.idleA ∧
    t.cur.pcV = s.cur.pcV ∧ t.cur.idleV = s.cur.idleV ∧ t.cur.pcM = s.cur.pcM ∧ t.cur.idleM = s.cur.idleM ∧
    t.cur.s = s.cur.s ∧ t.cur.a = s.cur.a ∧ t.cur.k = s.cur.k ∧ t.cur.v = s.cur.v ∧ t.cur.c = s.cur.c ∧
    t.cur.mask = s.cur.mask ∧ t.cur.acc = s.cur.acc ∧ t.cur.tok = s.cur.tok

/-- NOP of S and A, and WFE with the event set (R334, R336). -/
def Obligations.QuietWordsComplete : Prop :=
  ∀ (s : State),
    ends .nop s (fun t => onlyMoved .s s t ∧ past .s s t 4) ∧ ends .nopA s (fun t => onlyMoved .a s t ∧ past .a s t 4) ∧
    (s.cur.ev = true → ends .wfe s (fun t => past .s s t 4 ∧ ownOnly s t ∧ bytesKept s t ∧
      t.cur = { s.cur with ev := false, pcS := t.cur.pcS, loopS := t.cur.loopS }))

/-- VISHUT, VIKEYZ and VIREV of VI 0 (R337 to R340, R358, R187, R172, R123). A VISHUT whose operands are legal and that is not BUSY
retires the generation, and with CLOSE puts the VI into CLOSING. A VIKEYZ of one slot, or of every slot of a VI, leaves it
EMPTY. A VIREV of a page, or of every page of a VI, leaves it not VALID. The two complete at once where no request is
outstanding in their package, and else once the last has been answered. A VISHUT with CLOSE of a protected VI that still has a
key or a page is refused with reason 4 (R358). Operands outside their ranges are refused: that a misaligned page has reason 1
and one without an entry reason 7 is the model's reading (log entry 28). -/
def Obligations.PrivilegedWordsComplete : Prop :=
  ∀ (s : State) (d a b : Reg),
    (∀ (w : Dword) (ns : List Use), s.cur.inside = .settling s.cur.pcS w ns →
      ∀ i ∈ ([.vishut d a b, .vikeyz d a b, .virev d a b] : List Instr),
        ((∀ n ∈ ns, n ∉ pendingUses s s.cur.pkg none true) → ends i s (fun t => wroteS s t d w ∧ past .s s t 4 ∧
          t.cur = { s.cur with s := t.cur.s, pcS := t.cur.pcS, loopS := t.cur.loopS, inside := .nothing, begun := false } ∧
          ownOnly s t ∧ bytesKept s t)) ∧
        ((∃ n ∈ ns, n ∈ pendingUses s s.cur.pkg none true) → waits i s)) ∧
    (s.cur.vi = 0 → atStart s → let p := s.cur.pkg
      let v := (s.rS a).toNat
      let close := (s.rS b).getLsbD 0
      let done := fun (i : Instr) (n : Nat) (q : State → Prop) =>
        (pendingUses s p none false = [] → ends i s (fun t => (d ≠ 0 → t.rS d = BitVec.ofNat 64 (2 ^ 32 * n)) ∧ past .s s t 4 ∧ q t)) ∧
        (pendingUses s p none false ≠ [] → ends i s (fun t => t.cur.pcS = s.cur.pcS ∧ q t ∧ t.cur.inside =
          .settling s.cur.pcS (BitVec.ofNat 64 (2 ^ 32 * n)) (pendingUses s p none false)))
      let refuses := fun (i : Instr) (reason : Nat) => setsS i s d (BitVec.ofNat 64 (2 + 256 * reason)) 4
      (256 ≤ v ∨ 2 ≤ (s.rS b).toNat ∨ v = 0 → refuses (.vishut d a b) 1) ∧
      (1 ≤ v → v < 256 → (s.rS b).toNat < 2 →
        ((s.pkg p).shutBusy v = true → setsS (.vishut d a b) s d 1 4) ∧
        ((s.pkg p).shutBusy v = false → close = true → (viState ((s.pkg p).vi v) ≠ 1 ∨ viProt ((s.pkg p).vi v) = true ∧
            ((s.pkg p).namesKey v = true ∨ ownsPage s p v = true)) → refuses (.vishut d a b) 4) ∧
        ((s.pkg p).shutBusy v = false → (close = true → viState ((s.pkg p).vi v) = 1 ∧ (viProt ((s.pkg p).vi v) = true →
            (s.pkg p).namesKey v = false ∧ ownsPage s p v = false)) →
          ends (.vishut d a b) s (fun t => past .s s t 4 ∧ let g := (genGen ((s.pkg p).gen v) + 1) % genCount v
            (d ≠ 0 → t.rS d = BitVec.ofNat 64 (65536 * g)) ∧ genGen ((t.pkg p).gen v) = g ∧
            (close = true → viState ((t.pkg p).vi v) = 2)))) ∧
      (s.rS b = 0 ∧ 4096 ≤ v ∨ 2 ≤ (s.rS b).toNat → refuses (.vikeyz d a b) 1) ∧
      (s.rS b = 0 → v < 4096 → done (.vikeyz d a b) 1 (fun t => Table.has (t.pkg p).keys v = false ∧
        ∀ n, n ≠ v → Table.get (t.pkg p).keys n .reset = Table.get (s.pkg p).keys n .reset)) ∧
      (s.rS b = 1 → done (.vikeyz d a b) ((s.pkg p).zeroKeys (field (s.rS a) 0 8)).1 (fun t =>
        ∀ e ∈ (t.pkg p).keys, keyPen e.2.hdr = voidPen ∨ penVi (keyPen e.2.hdr) ≠ field (s.rS a) 0 8)) ∧
      (let pa := (s.rS b).toNat
       let vi := field (s.rS a) 0 8
       (pa % 65536 ≠ 0 ∨ 2 ^ 60 ≤ pa → refuses (.virev d a b) 1) ∧
       (pa ≠ 0 → pa % 65536 = 0 → pa < 2 ^ 60 → (pageOk p pa = false ∨ (s.own pa).ownedBy vi = false) →
         refuses (.virev d a b) 7) ∧
       (pa ≠ 0 → pa % 65536 = 0 → pa < 2 ^ 60 → pageOk p pa = true → (s.own pa).ownedBy vi = true →
         done (.virev d a b) 1 (fun t => (t.own pa).valid = false ∧ bytesKept s t)) ∧
       (pa = 0 → ∃ n, done (.virev d a b) n (fun t => bytesKept s t ∧ ∀ dn, dn = die0 p ∨ dn = die1 p →
         ∀ e ∈ (t.die dn).own, e.2.ownedBy vi = false))))

/-- VIMAP, one row for each OP (R341, R342, R123): a request that VI 0 makes at an aligned address is read as S loads read
it, performed, after the end of a pass of the sweep that is due (R421), and answered in s[d]: at once where nothing that used what it
changed is outstanding, for CORE and MCAST deliveries into tiles too, and else once the last has ended. That each OP is a row of its own is the model's choice (log entry 42). -/
def Obligations.VimapWordsComplete : Prop :=
  ∀ e ∈ vimapRows, ∀ (d a : Reg) (s : State),
    (∀ (u w : State) (ls : List Line) (v : Nat), s.cur.vi = 0 → atStart s → (s.rS a).toNat % 64 = 0 →
      viewLines s (here s) (s.rS a).toNat 3 = .ok (ls, u) → (vreqOf ls).clear = true → (vreqOf ls).op = e.2.1 →
      let z := sweepPassEnd u.cur.pkg u
      (e.2.2.named = true → viState ((z.pkg u.cur.pkg).vi (vreqOf ls).vi) ≠ 2) →
      vimapOp e.2.2 z u.cur.pkg (u.cur.accessor u) (vreqOf ls) = (.done v, w) →
      let ns := pendingUses w w.cur.pkg (if e.2.2.named then some (vreqOf ls).vi else none) (decide (e.2.1 = 8 ∨ e.2.1 = 14))
      (ns = [] → ends (e.1 d a) s (fun t => t = (w.wS d (BitVec.ofNat 64 (65536 * v))).nextS ∧
        (d ≠ 0 → t.rS d = BitVec.ofNat 64 (65536 * v)))) ∧
      (ns ≠ [] → ends (e.1 d a) s (fun t => t = w.modCur (fun c =>
        { c with inside := .settling w.cur.pcS (BitVec.ofNat 64 (65536 * v)) ns, begun := true })))) ∧
    (∀ (w : Dword) (ns : List Use), s.cur.inside = .settling s.cur.pcS w ns →
      (∀ n ∈ ns, n ∉ pendingUses s s.cur.pkg none true) → ends (e.1 d a) s (fun t => wroteS s t d w ∧ past .s s t 4 ∧
        t.cur.inside = .nothing ∧ ownOnly s t ∧ bytesKept s t))

/-- What VIMAP changes (R342, R122, R163): OWN gives a free page to the VI that DATA names, WINDOW installs its entry, of whose
reserved bits it takes no notice (R5), and a request for a VI in CLOSING is BUSY and changes nothing, while no pass of the sweep
is due to end (R421). -/
def Obligations.VimapEffects : Prop :=
  ∀ (s : State) (p : Nat) (b : Buffer) (r : VReq), r.clear = true →
    (r.op = 3 → viState ((s.pkg p).vi r.vi) ≠ 2 → pageOk p r.index = true → (s.own r.index).valid = false →
      (s.own r.index).tbl = false →
      (vimap s p b r).1 = .done 0 ∧
      ((vimap s p b r).2.own r.index) = { s.own r.index with
        vi := r.data.extractLsb' 0 8, valid := true, prot := r.data.getLsbD 8, evicted := false }) ∧
    (r.op = 11 → viState ((s.pkg p).vi r.vi) ≠ 2 → 1 ≤ r.index → r.index < 64 → r.dieOk p = true →
      (vimap s p b r).1 = .done 0 ∧
      ∀ j, j < 128 → (Table.get ((vimap s p b r).2.die r.die).windows (64 * r.vi + r.index) 0).getLsbD j =
        (r.data.getLsbD j && !(decide (96 ≤ j ∧ j < 113) || decide (46 ≤ j ∧ j < 64) || decide (j < 16)))) ∧
    (1 ≤ r.op → r.op ≤ 15 → r.op ≠ 13 → r.op ≠ 15 → viState ((s.pkg p).vi r.vi) = 2 →
      ((s.sweep (die0 p)).finished && (s.sweep (die1 p)).finished) = false → vimap s p b r = (.busy, s))

/-- LDV, LDVS and LDVG (R259 to R261): where the queue has room and the checks of R260 pass, the lanes' words enter it. -/
def Obligations.ScratchpadLoadsComplete : Prop :=
  ∀ (s : State) (d a b : Reg) (con post : Bool), d.toNat < 4 → (s.cur.lq.getD d.toNat []).length < 8 →
    (spCheck s .contiguous (s.rA a) 0 con = none → padLoads (.ldv d a con post) .contiguous s d a 0 con post) ∧
    (spCheck s .strided (s.rA a) (s.rA b) con = none → padLoads (.ldvs d a b con post) .strided s d a b con post) ∧
    (spCheck s .indexed (s.rA a) (s.rA b) con = none → padLoads (.ldvg d a b con post) .indexed s d a b con post)

/-- STV, STVS and STVG (R259, R260, R262): where the queue holds an entry and the checks pass, its lanes are written in
ascending order, and nothing else of the scratchpad changes. -/
def Obligations.ScratchpadStoresComplete : Prop :=
  ∀ (s : State) (d a b : Reg) (post : Bool) (e : Entry) (r : List Entry), d.toNat < 2 → s.cur.sq.getD d.toNat [] = e :: r →
    (spCheck s .contiguous (s.rA a) 0 false = none → padStores (.stv d a post) .contiguous s d a 0 post e r) ∧
    (spCheck s .strided (s.rA a) (s.rA b) false = none → padStores (.stvs d a b post) .strided s d a b post e r) ∧
    (spCheck s .indexed (s.rA a) (s.rA b) false = none → padStores (.stvg d a b post) .indexed s d a b post e r)

/-- TALLOC, TFREE, TWAITF, TWAITE, TSETF, TCLR, TSTAT and WDSET (R96 to R99, R265 to R268). -/
def Obligations.TileWordsComplete : Prop :=
  ∀ (s : State) (d a b : Reg), let n := (s.rA a).toNat
    (∀ m, m < 128 → tileFree s (tileHere s m) = true → (∀ j, j < m → tileFree s (tileHere s j) = false) →
      ends (.talloc d) s (fun t => wroteA s t d (BitVec.ofNat 64 m) ∧ past .a s t 4 ∧ t.mem = s.mem ∧ pad t = pad s ∧
        (∀ j, j ≠ m → tileHere t j = tileHere s j) ∧
        tileHere t m = { tileHere s m with alloc := true, pen := s.pen, full := false, held := 0, bank := bankOf (here s) })) ∧
    ((∀ m, m < 128 → tileFree s (tileHere s m) = false) → setsA (.talloc d) s d (BitVec.allOnes 64) 4) ∧
    (holdsTile s a → (tileHere s n).land = false →
      ends (.tfree a) s (fun t => past .a s t 4 ∧ t.mem = s.mem ∧ pad t = pad s ∧
        tileHere t n = { tileHere s n with alloc := false, full := false, inc := (tileHere s n).inc + 1, held := 0 } ∧
        (∀ j, j ≠ n → tileHere t j = tileHere s j) ∧ ∀ r, t.rA r = s.rA r)) ∧
    (holdsTile s a → (tileHere s n).full = true →
      ends (.twaitf a) s (fun t => past .a s t 4 ∧ ownOnly s t ∧
        t.cur = { s.cur with tileWait := none, pcA := t.cur.pcA, loopA := t.cur.loopA })) ∧
    (holdsTile s a → (tileHere s n).full = false → (tileHere s n).land = false →
      ends (.twaite a) s (fun t => past .a s t 4 ∧ ownOnly s t ∧
        t.cur = { s.cur with tileWait := none, pcA := t.cur.pcA, loopA := t.cur.loopA })) ∧
    (holdsTile s a → (tileHere s n).land = false →
      ends (.tsetf a) s (fun t => past .a s t 4 ∧ tileHere t n = { tileHere s n with full := true } ∧
        (∀ j, j ≠ n → tileHere t j = tileHere s j) ∧ t.mem = s.mem ∧ pad t = pad s)) ∧
    (holdsTile s a →
      ends (.tclr a) s (fun t => past .a s t 4 ∧ (tileHere t n).full = false ∧ (∀ j, j ≠ n → tileHere t j = tileHere s j) ∧
        t.mem = s.mem ∧ pad t = pad s ∧
        ((tileHere s n).full = false ∨ (s.core s.curCore).holdq = [] →
          tileHere t n = { tileHere s n with full := false }))) ∧
    (n < 128 → setsA (.tstat d a) s d (if (tileHere s n).pen = s.pen then
        BitVec.ofNat 64 (n + 256 * (tileHere s n).land.toNat + 512 * (tileHere s n).full.toNat +
          1024 * (tileHere s n).alloc.toNat + 2048 * ((tileHere s n).held % 32) + 2 ^ 16 * (tileHere s n).inc.toNat +
          2 ^ 48 * (tileHere s n).pen.toNat) else BitVec.ofNat 64 n) 4) ∧
    (d.toNat < 4 → s.cur.wdBusy d.toNat = false →
      ends (.wdset d a b) s (fun t => past .a s t 4 ∧ ownOnly s t ∧ bytesKept s t ∧
        t.cur = { s.cur with wd := s.cur.wd.setIfInBounds d.toNat ⟨s.pen, s.rA a ++ s.rA b⟩, pcA := t.cur.pcA,
                             loopA := t.cur.loopA }))

/-- The engine commands at issue (R86, R269 to R273, R281 to R284): where their operands pass the checks and fewer than 16
are outstanding, each pushes one command, of the layout of R273, after its release. -/
def Obligations.CommandsArePushed : Prop :=
  ∀ (s u : State) (d a b : Reg), s.cur.cmds.length < 16 →
    (∀ e ∈ copies, copyCheck e.2 s.cur.vcn.toNat (s.rA d) (s.rA a) (s.rA b) = none →
      released s (copySel (s.rA a) (s.rA b)) u →
      pushes (e.1 d a b) s u e.2.code (s.rA d) (s.rA a) (s.rA b)
        (if e.2 = .cpyf then s.rA (b + 1) ++ s.rA (b + 2) ++ s.rA (b + 3) else 0)) ∧
    (∀ va, endpoint (s.rA a) = some (.mem va) → (lenWord (s.rA b)).ok none none (.mem va) = true → va % 64 = 0 →
      pushes (.pref a b) s s 5 0 (s.rA a) (s.rA b) 0) ∧
    (field (s.rA d) 52 12 = 0 → (s.rA d).toNat % 4 = 0 → field (s.rA a) 28 36 = 0 → field (s.rA a) 16 8 = 0 →
      field (s.rA a) 0 16 ≠ 0 → field (s.rA a) 24 4 ∈ [0, 2, 3, 4] → pushes (.sacc d a) s s 6 (s.rA d) (s.rA a) 0 0) ∧
    ((s.rA a).toNat % 8 = 0 → released s (some (fun _ => true)) u → pushes (.sigdec a) s u 7 0 (s.rA a) 0 0) ∧
    ((s.rA a).toNat % 8 = 0 → pushes (.sigwait a b) s s 8 0 (s.rA a) (s.rA b) 0) ∧
    ((s.rA a).toNat % 128 = 0 → released s (some (fun _ => true)) u → pushes (.jdec a) s u 9 0 (s.rA a) 0 0)

/-- CRES (R285, R146): it pops the element of the oldest command, into a pair of registers or into nothing, and refreshes
the view; with no command outstanding it traps with FIFOUNDER. -/
def Obligations.ResultsArePopped : Prop :=
  ∀ (s : State) (d : Reg),
    (∀ (m : Cmd) (r : List Cmd), d.toNat ≤ 30 → s.cur.cmds = m :: r → m.state = .posted →
      let e := if m.pen = s.pen then m.element else 0
      ends (.cres d) s (fun t => t.cur.cmds = r ∧ t.cur.view = [] ∧ past .a s t 4 ∧ lightly s t ∧ bytesKept s t ∧
        (isSlot (here s) = false → ∀ x ∈ (t.core s.curCore).l1, x.bank ≠ bankOf (here s)) ∧
        ∀ q : Reg, t.rA q = if q = 0 ∨ d = 0 then s.rA q else if q = d then e.extractLsb' 0 64
          else if q = d + 1 then e.extractLsb' 64 64 else s.rA q)) ∧
    (s.cur.cmds = [] → exec (.cres d) s = .next (s.fault .a fFifoUnder 0))

/-- The element words of V (R287, R290, R294 to R300, R305): where the word can issue, its push is in flight, each
element of an active lane the value of the elements at its place, and an inactive lane zero. Signs of zero sums and
the transcendentals are the model's (log entries 5 and 6). -/
def Obligations.ElementWordsComplete : Prop :=
  ∀ e ∈ elementWords, ∀ (w : VWord) (s : State), vReady w (sources w e.2.1) (destOf w.d) s →
    let t := tyOf w
    let v := seen w (sources w e.2.1) s
    vFlies (e.1 w) w (sources w e.2.1) t.count (if t.isInt then e.2.2.1 else e.2.2.2.1) (destOf w.d) s (fun f =>
      f.zcs = [] ∧ f.recs = [] ∧ ∀ n, n < 128 → (v.on n = false → f.lanes.getD n 0 = 0) ∧
        (v.on n = true → ∀ j, j < t.count → elem t (f.lanes.getD n 0) j =
          e.2.2.2.2 w v.rc (v.draw n j) (elem t (v.x.getD n 0) j) (elem t (v.y.getD n 0) j) (elem t (v.z.getD n 0) j) %
            2 ^ t.width))

/-- The lane words of V (R301 to R303, R305, R307 to R310). The type of VCVT's immediate and the conversions R59 does
not list are the model's (log entries 22 and 23). -/
def Obligations.LaneWordsComplete : Prop :=
  ∀ e ∈ laneWords, ∀ (w : VWord) (s : State), vReady w (e.2.1 w) (destOf w.d) s →
    vFlies (e.1 w) w (e.2.1 w) (e.2.2.2.1 w) e.2.2.1 (destOf w.d) s (fun f =>
      carries f (e.2.2.2.2 w (seen w (e.2.1 w) s)))

/-- VQD8, VQI8, VSSEL, VSCAT and VAPPLY (R61 to R63, R304, R306, R316 to R318): the quantised lanes with their zc updates; the
scale exponents, with the zc register cleared where PA[9] says so; the pair of entries for xq; and the records of the active
lanes, one reference of k0 each. -/
def Obligations.SideEffectWordsComplete : Prop :=
  ∀ (w : VWord) (s : State),
    (∀ e ∈ ([(.vqd8, true), (.vqi8, false)] : List ((VWord → Instr) × Bool)), vReady w [srcX w] (destOf w.d) s →
      let v := seen w [srcX w] s
      vFlies (e.1 w) w [srcX w] 1 4 (destOf w.d) s (fun f => f.recs = [] ∧
        (∀ n, n < 32 → ∀ j, j < 4 → field (f.lanes.getD n 0) (8 * j) 8 = quantCode e.2 w v (4 * n + j) % 256) ∧
        (∀ n, 32 ≤ n → n < 128 → f.lanes.getD n 0 = 0) ∧
        f.zcs = if w.pa.getLsbD 9 then [zcOf e.2 w v (w.pa.toNat / 1024) 0 32, zcOf e.2 w v (w.pa.toNat / 1024 + 1) 32 32,
            zcOf e.2 w v (w.pa.toNat / 1024 + 2) 64 32, zcOf e.2 w v (w.pa.toNat / 1024 + 3) 96 32]
          else [zcOf e.2 w v (w.pa.toNat / 1024) 0 128])) ∧
    (vReady w [srcX w] (destOf w.d) s → ends (.vssel w) s (fun t => ∃ f : Flight,
      vRest s t (fun c => { c with flights := c.flights ++ [f], zc :=
        (if w.pa.getLsbD 9 = true then c.zc.setIfInBounds (w.pa.toNat / 1024) ⟨s.pen, 0⟩ else c.zc) }) ∧ past .v s t 12 ∧
      f.due = s.cycle + 2 ∧ f.dest = destOf w.d ∧ f.post = w.tkp ∧ carries f (fun n => BitVec.ofInt 32
        (scaleOf ((s.cur.zc.getD (w.pa.toNat / 1024) .void).read s.pen) ((seen w [srcX w] s).x.getD n 0).toNat)))) ∧
    (vReady w [srcX w, srcY w] .xq s →
      let v := seen w [srcX w, srcY w] s
      vFlies (.vscat w) w [srcX w, srcY w] 0 2 .xq s (fun f => f.mask = v.active ∧
        carries f (fun n => if v.on n then v.x.getD n 0 else 0) ∧
        ∀ n, n < 128 → f.lanes2.getD n 0 = if v.on n then v.y.getD n 0 else 0)) ∧
    (vReady w [srcX w] .nothing s → laneList (seen w [srcX w] s).active = [] →
      vFlies (.vapply w) w [srcX w] 0 4 .nothing s (fun f => f.recs = [] ∧ f.zcs = [])) ∧
    (∀ (x : Nat × Env) (p q : Nat), vReady w [srcX w] .nothing s → envNamed s 0 = some x →
      let v := seen w [srcX w] s
      routeOfVcn s s.cur.die s.cur.vi.toNat (hVcore (s.cur.readK s.pen 0)) = some (p, q) → laneList v.active ≠ [] →
      x.2.refs.toNat + (laneList v.active).length ≤ 65535 →
      ends (.vapply w) s (fun t => past .v s t 12 ∧ ∃ f : Flight, t.cur.flights = s.cur.flights ++ [f] ∧
        f.due = s.cycle + 4 ∧ f.queue = 8192 * p + q ∧ f.dest = .nothing ∧ f.recs = (laneList v.active).map (fun n =>
          taskRecord true (s.cur.readK s.pen 0) s.cur.frame 0 ((v.x.getD n 0).setWidth 64) (BitVec.ofNat 64 n)
            (s.cur.vcn.setWidth 64) 0) ∧
        envNamed t 0 = some (x.1, { x.2 with refs := x.2.refs + BitVec.ofNat 16 (laneList v.active).length })))

/-- The control words of V (R311 to R315, R79, R28). -/
def Obligations.VectorControlCompletes : Prop :=
  ∀ (w : VWord) (s : State),
    (vReady w [srcX w] .nothing s → ends (.vrseed w) s (fun t => past .v s t 12 ∧
      vRest s t (fun c => c) ∧ (∀ k, t.cur.fifo k = (s.cur.fifo k).drop (popsOf [srcX w] k)) ∧ (w.rc ≠ 5 → w.rc ≠ 7 → ∀ n, n < 4 → n ≠ w.rb.toNat → t.cur.rb.getD n .void = s.cur.rb.getD n .void) ∧
      ∀ n, n < 128 → ((t.cur.rb.getD w.rb.toNat .void).read s.pen).getD n 0 =
        (let x := (seen w [srcX w] s).x.getD 0 0 ^^^ BitVec.ofNat 32 (0x9E3779B9 * (n + 1)); if x = 0 then 1 else x))) ∧
    (vReady w [srcX w] .nothing s → s.cur.mask.length < 16 → vPasses (.mpush w) w [srcX w] s (fun c =>
      { c with mask := ⟨s.pen, (seen w [srcX w] s).top &&& trueLanes w (seen w [srcX w] s)⟩ :: c.mask })) ∧
    (∀ (x : Tag 128) (r : List (Tag 128)), vReady w [] .nothing s → s.cur.mask = x :: r →
      vPasses (.minv w) w [] s (fun c => { c with mask := ⟨s.pen, match r with
        | [] => ~~~ x.read s.pen | b :: _ => b.read s.pen &&& ~~~ x.read s.pen⟩ :: r }) ∧
      vPasses (.mpop w) w [] s (fun c => { c with mask := r })) ∧
    (vReady w [] .nothing s → (seen w [] s).top ≠ 0 → vPasses (.vbz w) w [] s (fun c => c)) ∧
    (vReady w [] .nothing s → (seen w [] s).top = 0 → vTakes (.vbz w) w s (fun c => c)) ∧
    (∀ (x : Tag 1) (r : List (Tag 1)), vReady w [] .nothing s → s.cur.bqSV = x :: r →
      if x.read s.pen = 1 then vTakes (.vbr w) w s (fun c => { c with bqSV := r })
      else vPasses (.vbr w) w [] s (fun c => { c with bqSV := r })) ∧
    (vReady w [] .nothing s → w.pa ≠ 0 → vTakes (.vjmp w) w s (fun c => c)) ∧
    (vReady w [] .nothing s → w.pa = 0 → ends (.vjmp w) s (fun t =>
      vRest s t (fun c => { c with idleV := true }) ∧ t.cur.pcV = s.cur.pcV ∧ t.cur.loopV = s.cur.loopV ∧ vTook w [] 0 true s t)) ∧
    (vReady w [] .nothing s → s.cur.bqVS.length < 16 → vPasses (.vbqsnd w) w [] s (fun c =>
      { c with bqVS := c.bqVS ++ [⟨s.pen, if (seen w [] s).top = 0 then 0 else 1⟩] })) ∧
    (vReady w [intSource w.x] .nothing s → s.cur.loopV.act = false → ends (.vloop w) s (fun t =>
      vRest s t (fun c => c) ∧ vTook w [intSource w.x] 0 true s t ∧
      loopBegun .v s t ((seen w [intSource w.x] s).x.getD 0 0) (w.pa.toNat / 2048 + 1) (w.pa.toNat % 2048)))

/-- A V word that cannot issue (R27, R199, R206, R208): under a stage guard of 0 it only moves on; without its token it waits;
and one that would pop an empty v register traps with FIFOUNDER. -/
def Obligations.VectorIssueIsChecked : Prop :=
  ∀ e ∈ elementWords, ∀ (w : VWord) (s : State),
    (w.grd ≠ 0 → s.cur.loopV.g (w.grd.toNat % 4) = false →
      ends (e.1 w) s (fun t => onlyMoved .v s t ∧ past .v s t 12)) ∧
    (w.grd = 0 → (∃ i, waitIdx 2 w.tkw = some i ∧ s.cur.tokens s.pen i = 0) → waits (e.1 w) s) ∧
    (w.grd = 0 → w.tkw = 0 → w.rc = 0 → s.cur.destFull (destOf w.d) = false →
      (∀ x ∈ sources w e.2.1, x.key.isQueue = false) → (∃ n, (srcX w).key = .v n ∧ s.cur.v.getD n [] = []) →
      exec (e.1 w) s = .next (s.fault .v fFifoUnder 0))

/-- The array words start (R319, R320, R322, R326 to R329, R331, R332): MMA, MMAW, MMAQ with either of them, MHAD,
MDRN and MZERO, each where its checks pass. The second word of MMAQ is the model's reading (log entry 24). -/
def Obligations.ArrayWordsStart : Prop :=
  ∀ (w : MWord) (s : State), mReady w true s →
    (mmaOk w s → mStarts (.mma w) w s (slotted w w false s) (zeroed w s)) ∧
    (∀ d, mmawOk w s d → mStarts (.mmaw w) w s (streaming w w false d s) (zeroed w s)) ∧
    (∀ (x : BitVec 192) (v : MWord), queuedWord s.cur s.pen = some x → innerWord x = some (v, true) → mmaOk v s →
      mStarts (.mmaq w) w s (slotted v w true s) (fun c =>
        { zeroed v s c with mqw := some x, fq := if s.cur.done = 0 then c.fq.drop 1 else c.fq })) ∧
    (∀ (x : BitVec 192) (v : MWord) (d : BitVec 128), queuedWord s.cur s.pen = some x → innerWord x = some (v, false) →
      mmawOk v s d → mStarts (.mmaq w) w s (streaming v w true d s) (fun c =>
        { zeroed v s c with mqw := some x, fq := if s.cur.done = 0 then c.fq.drop 1 else c.fq })) ∧
    ((∀ n ∈ stepTiles w 0, ownsTile s n = true) →
      mStarts (.mhad w) w s (running .mhad w w false (firstStep w s) s) (fun c => c)) ∧
    mStarts (.mdrn w) w s (running .mdrn { w with rc := drainRc w (s.cur.rmode.read s.pen) } w false s.cycle s) (fun c => c) ∧
    mStarts (.mzero w) w s (running .mzero w w false (s.cycle + 2) s) (fun c => c)

/-- MWLD and the control words of M (R321, R330, R332): MWLD has read its tile, fills its slot later and advances POS
by 128; a branch taken kills a squashable array word; MJMP with displacement 0 ends the stream. When MWLD reads its
tile is the model's reading (log entry 26). -/
def Obligations.MatrixControlCompletes : Prop :=
  ∀ (w : MWord) (s : State), mReady w false s →
    (∀ (d : BitVec 128) (bs : List WBlock), d = wdOfWord w s → s.cur.slotsRead (mwldSlots w s) = false →
      wdOk d 0 128 = true → (wdFmt d < 2 ∨ w.wsrc.toNat % 2 = 0) →
      streamTile s ⟨s.cur.die, s.cur.vi.toNat, s.pen⟩ d (wdPos d / 128) = .ok bs →
      ends (.mwld w) s (fun t => past .m s t 24 ∧ mTokens w false s t ∧ lightly s t ∧ bytesKept s t ∧ ∃ f : SlotFill,
        f.slot = w.wsrc.toNat % 8 ∧ f.two = decide (2 ≤ wdFmt d) ∧ f.lines = bs.flatMap slotLines ∧ f.post = w.tkp ∧
        f.due = s.cycle + (if 2 ≤ wdFmt d then 128 else 64) ∧ f.pen = s.pen ∧
        t.cur = { s.cur with
          fills := s.cur.fills ++ [f], tok := t.cur.tok, pcM := t.cur.pcM, loopM := t.cur.loopM,
          wd := s.cur.wd.setIfInBounds (wdNamed w) ⟨s.pen, setField d 0 32 (wdPos d + 128)⟩ })) ∧
    (s.cur.loopM.act = false → mPasses (.mloop w) w s (fun c => c) (fun t =>
      loopBegun .m s t (w.pa.extractLsb' 96 32) (field w.pa 94 2 + 1) (field w.pa 80 14))) ∧
    (∀ (x : Tag 1) (r : List (Tag 1)), s.cur.bqSM = x :: r →
      if x.read s.pen = 1 then mPasses (.mbr w) w s (fun c => squashed { c with bqSM := r }) (fun t => jumped .m s t (targetOfM w s))
      else mPasses (.mbr w) w s (fun c => { c with bqSM := r }) (fun t => past .m s t 24)) ∧
    (field w.pa 112 16 ≠ 0 → mPasses (.mjmp w) w s squashed (fun t => jumped .m s t (targetOfM w s))) ∧
    (field w.pa 112 16 = 0 → mPasses (.mjmp w) w s (fun c => { c with idleM := true }) (fun t =>
      t.cur.pcM = s.cur.pcM ∧ t.cur.loopM = s.cur.loopM)) ∧
    mPasses (.mnop w) w s (fun c => c) (fun t => past .m s t 24)

/-- The array unit's events (R65 to R69, R287, R320, R322, R327 to R331): a K-step updates one accumulator row and, of
an MMAW, POS, whose tile leaves the staging ring with its last row; MHAD writes one transformed row; a reserved MDRN row that
is due lands; MZERO zeroes; the port stages a tile, and the word can no longer fault once its last is staged; a fill that is
due is written into its slot; and a push that is due lands. That the array's acts are rows of Instr is the model's choice,
and the staging of weights its reading (log entries 25, 26, 42 and 56). -/
def Obligations.ArrayEventsComplete : Prop :=
  ∀ (s : State),
    (∀ (r : ArrayRun), s.cur.run = some r → r.op = .mma ∨ (r.op = .mmaw ∧ s.cur.mrs < r.staged) →
      let tiles := stepTiles r.w (s.cur.mrs / 128)
      (s.cur.mrs % 128 = 0 ∨ r.fresh = true → ∀ n ∈ tiles, (s.tile s.curCore n).full = true) →
      r.moved s.cur s.pen = none → let ls := stepWeights s r (s.cur.mrs / 128)
      ends .kstepCommit s (fun t => consumed s t r tiles (s.cur.mrs % 128) ∧
        rowSet s t r.w.acc (s.cur.mrs % 128) (kstepRow r.w.mode.toNat (rowOf s r.w.acc (s.cur.mrs % 128))
          (aRow s s.curCore s.pen r.w.mode.toNat tiles (s.cur.mrs % 128)) (weightRows r.w.mode.toNat ls)) ∧
        steppedOn s t r (128 * (r.w.kt.toNat + 1)) (if 2 ≤ r.w.mode.toNat then 4 else 1) ∧
        (t.core s.curCore).staging = (if r.op = .mmaw ∧ s.cur.mrs % 128 = 127 then (s.core s.curCore).staging.drop 1
          else (s.core s.curCore).staging) ∧
        (r.op = .mma → t.cur.wd = s.cur.wd) ∧
        (r.op = .mmaw → wdPos ((t.cur.wd.getD (r.w.wsrc.toNat % 4) .void).read t.pen) =
          (wdPos ((s.cur.wd.getD (r.w.wsrc.toNat % 4) .void).read s.pen) + 1) % 2 ^ 32))) ∧
    (∀ (r : ArrayRun), s.cur.run = some r → r.op = .mhad →
      (r.fresh = true → ∀ n ∈ stepTiles r.w 0, (s.tile s.curCore n).full = true) →
      ends .mhadRowWrite s (fun t => consumed s t r (stepTiles r.w 0) s.cur.mrs ∧
        rowSet s t r.w.acc s.cur.mrs (hadRow r.w.mode.toNat (8 * 2 ^ r.w.hsz.toNat)
          (aRow s s.curCore s.pen r.w.mode.toNat (stepTiles r.w 0) s.cur.mrs)) ∧
        steppedOn s t r 128 (if 2 ≤ r.w.mode.toNat then 4 else 1))) ∧
    (∀ (r : ArrayRun) (j due : Nat) (rest : List (Nat × Nat)), s.cur.run = some r → r.op = .mdrn → r.rows = (j, due) :: rest →
      due ≤ s.cycle →
      ends .mdrnRowLand s (fun t => arrayOnly s t ∧ ownOnly s t ∧ bytesKept s t ∧ t.cur.acc = s.cur.acc ∧
        t.cur.dq = s.cur.dq.setIfInBounds r.w.dq.toNat (s.cur.dq.getD r.w.dq.toNat [] ++
          [⟨s.pen, (rowOf s r.w.acc (r.w.row0.toNat + j)).map (drainElem r.w.dfmt.toNat r.w.rc.toNat)⟩]))) ∧
    (∀ (r : ArrayRun), s.cur.run = some r → r.op = .mzero →
      ends .mzeroEffect s (fun t => arrayOnly s t ∧ ownOnly s t ∧ bytesKept s t ∧ t.cur.run = none ∧
        t.cur.mrs = 0 ∧ (∀ n, n < 128 → rowOf t r.w.acc n = Lanes.zero) ∧
        ∀ n, rowOf t (!r.w.acc) n = rowOf s (!r.w.acc) n)) ∧
    (∀ (r : ArrayRun) (bs : List WBlock) (ls : List Line), s.cur.run = some r → r.op = .mmaw → r.checked = false →
      r.fault = none → ringRoom s.cur r = true → streamTile s (own s) r.wd (r.tileAt r.staged) = .ok bs →
      plainTile (own s).pen 0 bs = .ok ls →
      ends .weightPortFetch s (fun t => t.cur = { s.cur with run := some { r with
          staged := r.staged + 128, checked := r.staged + 128 == 128 * (r.w.kt.toNat + 1) } } ∧ lightly s t ∧ bytesKept s t ∧
        (t.core s.curCore).staging = (s.core s.curCore).staging ++ [bs])) ∧
    (∀ (f : SlotFill), s.cur.fills.find? (fun f => f.due ≤ s.cycle) = some f →
      ends .mwldSlotWrite s (fun t => t.cur.fills = s.cur.fills.erase f ∧ t.mem = s.mem ∧
        (t.core s.curCore).slot f.slot = Slot.fill (f.lines.take 256) f.hdr0 f.pen ∧
        (f.two = true → (t.core s.curCore).slot (f.slot + 1) = Slot.fill (f.lines.drop 256) f.hdr1 f.pen) ∧
        ∀ n, n ≠ f.slot → (f.two = true → n ≠ f.slot + 1) → (t.core s.curCore).slot n = (s.core s.curCore).slot n)) ∧
    (∀ (f : Flight) (n : Nat), s.cur.flights.find? (fun f => f.due ≤ s.cycle) = some f →
      ends .vPushLand s (fun t => t.cur.flights = s.cur.flights.erase f ∧
        (f.recs = [] → ownOnly s t ∧ bytesKept s t) ∧
        (f.dest = .v n → t.cur.v = s.cur.v.setIfInBounds n (s.cur.v.getD n [] ++ [⟨f.pen, f.lanes⟩])) ∧
        (f.dest = .sq n → t.cur.sq = s.cur.sq.setIfInBounds n (s.cur.sq.getD n [] ++ [⟨f.pen, f.lanes⟩])) ∧
        (f.dest = .xq → t.cur.xq = s.cur.xq ++ [⟨f.pen, f.lanes, f.mask⟩, ⟨f.pen, f.lanes2, f.mask⟩]) ∧
        ∀ i, postIdx 2 f.post = some i → t.cur.tokens f.pen i = (s.cur.tokens f.pen i + 1) % 64))

/-- An array event that is not due, or whose word has gone, changes nothing. It is about acts that only the model has
(log entry 42). -/
def Obligations.IdleEventsChangeNothing : Prop :=
  ∀ (s : State), (s.cur.run = none → ∀ i ∈ ([.kstepCommit, .mhadRowWrite, .mdrnRowLand, .mzeroEffect, .weightPortFetch] :
      List Instr), exec i s = .next s) ∧
    ((∀ f ∈ s.cur.flights, s.cycle < f.due) → exec .vPushLand s = .next s) ∧
    ((∀ f ∈ s.cur.fills, s.cycle < f.due) → exec .mwldSlotWrite s = .next s)

/-- The scheduler's events (R32, R33, R36, R130, R149, R152, R333, R347, R401). When a WAITING context is saved is a free
value, and what is saved the model's reading (log entries 32, 37, 42 and 61). -/
def Obligations.SchedulerEventsComplete : Prop :=
  ∀ (s : State) (k ck p q : Nat),
    -- a task record at the head of the selected queue sets up a context
    (∀ (top : Nat) (x : Served) (others : List Served) (r : Line), isSlot k = false → (s.ctx k).status = .empty →
      selectQueue s (coreOf k) = some (top, x, others) →
      queueHead (noteServed s (coreOf k) top x others) (pkgOf (dieOfCore (coreOf k))) x.vi x.q = .record r → recordOk r = true →
      recClo r = false → field (recArg r 3) 7 1 = 0 →
      ends (.dispatch k) s (fun t => let c := t.ctx k; let pen := s.penOf (pkgOf (dieOfCore (coreOf k))) x.vi
        c.status = .ready ∧ c.pcS = recCode r ∧ c.home = coreOf k ∧ c.vcn = BitVec.ofNat 16 x.vcn ∧ c.frame = recFrame r ∧
        regOf c pen 1 = recFrame r ∧ regOf c pen 2 = recJoin r ∧ (∀ i, i < 4 → regOf c pen (BitVec.ofNat 5 (i + 3)) = recArg r i) ∧
        (∀ i : Reg, 6 < i.toNat → regOf c pen i = 0))) ∧
    -- a core without a running bank takes its READY bank, the lower first (log entry 61), and loses that bank's L1 lines
    (∀ b, (s.core ck).running = none → (s.ctx (bankKey ck b)).status = .ready →
      (b = true → (s.ctx (bankKey ck false)).status ≠ .ready) →
      ends (.bankSwitch ck) s (fun t => (t.core ck).running = some b ∧ (t.ctx (bankKey ck b)).status = .running ∧
        (isSlot (bankKey ck b) = false → ∀ x ∈ (t.core ck).l1, x.bank ≠ b) ∧ t.mem = s.mem)) ∧
    -- a slice of 65,536 cycles ends where the other bank is READY and no commit has begun (R218)
    (∀ b, (s.core ck).running = some b → (s.core ck).switched + 65536 ≤ s.cycle → (s.ctx (bankKey ck (!b))).status = .ready →
      (s.ctx (bankKey ck b)).begun = false →
      ends (.sliceExpiry ck) s (fun t => (t.core ck).running = some (!b) ∧ (t.ctx (bankKey ck (!b))).status = .running)) ∧
    -- a tile wait of 256 cycles makes its context WAITING
    (∀ n full since, (s.ctx k).tileWait = some (n, full, since) → (s.ctx k).status = .running → since + 256 ≤ s.cycle →
      (s.ctx k).begun = false →
      ends (.tileWaitTimeout k) s (fun t => (t.ctx k).status = .waiting ∧ (t.ctx k).blocked = .tile n full ∧
        (t.ctx k).pcA = (s.ctx k).pcA ∧ (t.ctx k).a = (s.ctx k).a)) ∧
    -- a WAITING context is saved, registers and all, and its bank is EMPTY
    (∀ slot, let key := slotKey (s.ctx k).pkg (s.ctx k).vi.toNat slot
      isSlot k = false → (s.ctx k).status = .waiting → Table.has s.ctxs key = false → slot < 2 * viVcores (s.ctxVi (s.ctx k)) →
      noLanding s k = true → (s.ctx k).begun = false → (s.ctx k).flights = [] →
      ends (.contextSave k slot) s (fun t => (t.ctx k).status = .empty ∧ (t.ctx key).status = .waiting ∧
        (t.ctx key).s = (s.ctx k).s ∧ (t.ctx key).a = (s.ctx k).a ∧ (t.ctx key).k = (s.ctx k).k ∧ (t.ctx key).pcS = (s.ctx k).pcS)) ∧
    -- a saved context whose event has occurred goes into an EMPTY bank
    (∀ slot, isSlot slot = true → isSlot k = false → (s.ctx slot).status = .ready → (s.ctx slot).held = false →
      (s.ctx k).status = .empty → mayRestore s slot (s.ctx slot) (coreOf k) = true →
      ends (.contextRestore slot k) s (fun t => (t.ctx slot).status = .empty ∧ (t.ctx k).status = .ready ∧
        (t.ctx k).s = (s.ctx slot).s ∧ (t.ctx k).a = (s.ctx slot).a ∧ (t.ctx k).k = (s.ctx slot).k ∧
        (t.ctx k).pcS = (s.ctx slot).pcS)) ∧
    -- a trap that is due is taken
    (∀ d, canTrap s → s.cur.dueTrap = some d → ends .trapEntry s (fun t =>
      t.cur.handler = true ∧ t.cur.pcS = s.cur.tvec.read s.pen ∧ t.cur.pend = none ∧
      t.cur.tcause.read s.pen = BitVec.ofNat 64 (256 * d.stream.code + d.code) ∧ t.cur.epcS.read s.pen = s.cur.pcS ∧
      t.cur.s = s.cur.s ∧ t.cur.a = s.cur.a ∧ t.cur.k = s.cur.k)) ∧
    -- a breakpoint that a loop has come to traps with BRK before the first word of the pass, and does not fire again
    (∀ x, canTrap s → s.cur.pend = none → s.cur.failedWait = none → s.cur.dueStop = some x → x.halt = false →
      ends .trapEntry s (fun t => trapped (s.modCur Ctx.takeStop) t x.stream fBrk ∧ s.cur.pc x.stream = x.start ∧ x ∉ t.cur.stops)) ∧
    -- a context that is ended leaves its bank
    (∀ cause, (s.ctx k).status ≠ .empty → ends (.contextEnd k cause) s (fun t => (t.ctx k).status = .empty)) ∧
    -- a group's commit goes on until every line is settled, and the boundary completes then
    (∀ (g : Group) (lines rest : List (List (Arrival × SbEntry))) (pz : List CommitPause) (u : State),
      s.groups.find? (fun x => x.n == q) = some g → g.commit = some lines → commitGroup s g.vi.toNat g.paused lines = (rest, pz, u) →
      ends (.commitComplete q) s (fun t =>
        if rest = [] then t = progress (boundary u { g with commit := none, paused := [] }) q 4
        else t = u.setGroup { g with commit := some rest, paused := pz })) ∧
    -- a barrier record that has come to the head of its queue and whose signals are all zero is satisfied, whether or not a
    -- core serves the queue
    (∀ (vi : Nat) (r : Line), ownerOf (s.pkg p) viQfirst viQcount q = some vi → (s.pkg p).notices = [] → (s.pkg p).barriers = [] →
      unseenHead s p vi q = some r → let a := queueAccessor s p vi q
      let w := meetSignals (meetHead s p vi q) a r
      let b : Barrier := ⟨q, qHead ((s.pkg p).queue q), r, (barrierSignals r).map (fun va => if va == 0 then none
        else signalValue w a va), (barrierSignals r).map (fun va => if va == 0 then none else signalPlace w a va), none, none⟩
      let u := w.modPkg p (fun x => { x with barriers := [b] })
      judge u (queueAccessor u p vi q) r b.known = .satisfied →
      ends (.barrierEvaluate p q 0) s (fun t => (t.pkg p).barriers = [{ b with verdict := some none }] ∧ t.mem = s.mem)) ∧
    -- a held push enters its queue once that is open
    (∀ (h : HeldPush) (l : List HeldPush) (u : State), (s.pkg p).heldPushes = h :: l → h.queue = q → (s.pkg p).pen (penVi h.pen) = h.pen →
      queueOpen (s.pkg p) q h.pen = true →
      queueWrite (s.setPkg p { s.pkg p with heldPushes := l }) p (penVi h.pen) q h.pen h.record = .ok u →
      ends (.heldPushEnter p q) s (fun t => t = u))

/-- The engines' events (R37, R86, R98, R100, R137, R274, R276, R284): a CPY of one line between plain pages moves the line
and ends; a SIGWAIT ends once its count is at most its threshold; an ended command posts its element and sets EV; a
delivery is admitted, held, parked or dropped; and the last line of one sets FULL, in a tile still allocated, and clears
LAND, also in the saved tile of a saved context (log entry 37). That the engines' acts are rows of Instr is the model's choice,
and the order of lines its reading (log entries 42 and 44); a full hold queue does not stall a delivery to an empty tile (log
entry 64); what a SIGWAIT of another die does is log entry 74. -/
def Obligations.EngineEventsComplete : Prop :=
  ∀ (s : State) (k : Nat) (seq : BitVec 16) (m : Cmd), (s.ctx k).cmd seq = some m →
    (∀ (src dst : Nat) (len : LenWord) (w z : Where), let a := engineAccessor (s.ctx k) m
      isSlot k = false → m.state = .queued → copyOf m = some ⟨0, .mem dst, .mem src, len⟩ → cmdFn m.words = 0 →
      len.lines = 1 → len.bf = false → len.sw = false → len.sc = false → m.got = [] → m.sent = false → outstanding s (s.ctx k).id seq = [] →
      checkSource s a Need.read src = .ok w → checkSource s a Need.write dst = .ok z →
      plain s (s.ctx k).die a.pen w → plain s (s.ctx k).die a.pen z → isDescriptor s z.gpa a.pen = false →
      ends (.engineTakeCommand k seq) s (fun t => cmdState t k seq = some (.ended 0 0) ∧ (∀ j, j ≠ k → t.ctx j = s.ctx j) ∧
        (∀ j, j < 64 → t.mem.readByte a.pen (64 * (z.gpa / 64) + j) = s.mem.readByte a.pen (64 * (w.gpa / 64) + j)) ∧
        ∀ x y, y / 64 ≠ z.gpa / 64 → t.mem.readByte x y = s.mem.readByte x y)) ∧
    (∀ (n : Nat) (w : Where) (l : Line), m.state = .taken n → cmdFn m.words = 8 →
      let a := engineAccessor (s.ctx k) m
      let va := (cmdOpa m.words).toNat
      let u := tellAll s (s.ctx k).id seq
      let u := if m.sent then u else engineUse u (s.ctx k) m Need.read va none false
      checkSource u a Need.read va = .ok w → dieOfGpa w.gpa = (s.ctx k).die → checkTarget u a.pen w.leaf w.gpa false = none →
      readLine u a w = .ok l → let v := lineDword l (va % 64 / 8)
      (v.toInt ≤ (cmdOpb m.words).toInt → ends (.sigwaitSatisfy k seq) s (fun t =>
        cmdState t k seq = some (.ended (if v.toInt < 0 then BitVec.ofNat 8 fSigNeg else 0) v) ∧ t.mem = s.mem)) ∧
      ((cmdOpb m.words).toInt < v.toInt → ends (.sigwaitSatisfy k seq) s (fun t =>
        cmdState t k seq = some (.taken n) ∧ t.mem = s.mem))) ∧
    (∀ status value, m.state = .ended status value → (cmdFn m.words ≠ 1 ∨ status ≠ 0 ∨ followReady (s.ctx k) m = true) →
      ends (.engineCommandComplete k seq) s (fun t => (t.ctx k).ev = true ∧ cmdState t k seq = some .posted ∧
        (((t.ctx k).cmd seq).map (fun x => x.element)) = some (elementOf seq status value) ∧ t.mem = s.mem)) ∧
    (∀ (n : Nat) (d : Delivery), s.delivery n = some d →
      let ck := coreKey d.die d.core
      let x := s.tile ck d.tile
      let place := findPlace s ck d.vi d.vcn d.pen d.tile
      let room := (s.core ck).holdq.length < 16
      (d.state = .presented → place = some (.core ck) → x.full = false → x.land = false →
        ends (.deliveryArrive n) s (fun t => t.tile ck d.tile = { x with land := true } ∧
          (t.delivery n).map (fun y => y.state) = some .admitted ∧ t.mem = s.mem)) ∧
      (d.state = .presented → place = some (.core ck) → (x.full = true ∨ x.land = true) → room →
        ends (.deliveryArrive n) s (fun t => t.tile ck d.tile = { x with held := x.held + 1 } ∧
          (t.delivery n).map (fun y => y.state) = some .held ∧ (t.core ck).holdq = (s.core ck).holdq ++ [n] ∧ t.mem = s.mem)) ∧
      (∀ j, d.state = .presented → place = some (.slot j) → room →
        ends (.deliveryArrive n) s (fun t => t.tile ck d.tile = x ∧ (t.delivery n).map (fun y => y.state) = some .parked ∧
          (t.core ck).holdq = (s.core ck).holdq ++ [n] ∧ t.mem = s.mem)) ∧
      (d.state = .presented → place = none →
        ends (.deliveryArrive n) s (fun t => (t.die d.die).counters.dropTile = satInc (s.die d.die).counters.dropTile ∧
          t.tile ck d.tile = x ∧ t.mem = s.mem)) ∧
      (d.state = .admitted → d.lines ≠ 0 → d.landed.length = d.lines →
        (landPlace s d = some (.core ck) → ends (.deliveryLanded n) s (fun t =>
          t.tile ck d.tile = { x with land := false, full := x.alloc } ∧ t.mem = s.mem)) ∧
        (∀ j, landPlace s d = some (.slot j) → ends (.deliveryLanded n) s (fun t =>
          let y := Table.get (s.ctx j).savedTiles d.tile .reset
          Table.get (t.ctx j).savedTiles d.tile .reset = { y with land := false, full := y.alloc } ∧ t.mem = s.mem))))

/-- The fabric's events (R363, R366, R367, R369, R370, R373 to R377, R423): a packet moves on along its route, or is given
up; a request is performed at its target at most once, a repeat changing no memory; a read is answered with its data;
responses settle requests; a delivery that was held is told its ADMIT again; and requests leave again. That the routers' acts are
rows of Instr is the model's choice, and what travels beside the flits its reading (log entries 8 and 42); so are that a packet of
fabric management is acknowledged and does nothing else (log entry 35), and what answers a SIGWAIT of another die and ends a lost
push of VAPPLY (log entries 74 and 77). -/
def Obligations.FabricEventsComplete : Prop :=
  ∀ (s : State) (n dn : Nat),
    (∀ (p : Packet), s.packet n = some p → p.here ≠ p.dst → (s.secretOf p.here).isSome = true →
      let r := routeOf (s.die p.here) p.dst
      routeP r = true → p.hops + 1 < 48 → s.cycle ≤ p.since + 47000 → linkOf r < 6 → (s.router p.here).dead.contains (linkOf r) = false →
      ends (.packetForward n) s (fun t => ∃ q, t.packet n = some q ∧ q.here = neighbour p.here (linkOf r) ∧ q.hops = p.hops + 1 ∧
        q.since = s.cycle ∧ q.flits = p.flits ∧ headerAad q.header = headerAad p.header ∧ q.tag = p.tag ∧
        q.vc / 2 = p.vc / 2 ∧ t.mem = s.mem ∧ t.ctxs = s.ctxs)) ∧
    (∀ (p : Packet), s.packet n = some p → p.here ≠ p.dst → p.since + 47000 < s.cycle →
      ends (.packetWaitExpiry n) s (fun t => t.packet n = none ∧
        (t.die p.here).counters.fabDrop = satInc (s.die p.here).counters.fabDrop ∧ t.mem = s.mem)) ∧
    (∀ e ∈ ([(.wr, .wr, wrTarget), (.red, .red, redTarget), (.hop, .hop, hopTarget), (.lrp, .lrp, lrpTarget),
        (.mgt, .mgt, fun _ s => ((rspDone, 0, 0), s)), (.dlv, .dlv, fun m => if m.isFirst then dlvFirst m else dlvRest m)] :
        List ((Nat → Instr) × PacketType × (Msg → State → (Nat × Nat × Dword) × State))), ∀ (m : Msg) (u : State), arrivePacket s n e.2.1 = (some m, u) →
      let x := (u.router m.dst).source m.src
      (x.judge m.seq = .repeated → ends (e.1 n) s (fun t => t.mem = s.mem ∧ t.ctxs = s.ctxs ∧
        (t.die m.dst).counters.dedup = satInc (u.die m.dst).counters.dedup)) ∧
      (x.judge m.seq = .fresh →
        let y := e.2.2 m (u.modReceive m.dst m.src (fun x => x.perform m.seq))
        ends (e.1 n) s (fun t => t = respond y.2 m y.1.1 y.1.2.1 y.1.2.2 ∧ t.mem = y.2.mem ∧ t.ctxs = y.2.ctxs))) ∧
    (∀ (m : Msg) (u w : State) (ls : List Line), arrivePacket s n .rd = (some m, u) →
      let x := (u.router m.dst).source m.src
      rdLines m (if x.judge m.seq = .repeated then u else u.modReceive m.dst m.src (fun x => x.perform m.seq)) = (.ok ls, w) →
      ends (.rd n) s (fun t => t.mem = s.mem ∧ t.ctxs = s.ctxs ∧
        ∃ q, t.packets = w.packets ++ [q] ∧ q = (formPacket w ⟨.rdr, m.dst, m.src, m.pen, 0, 0, ls, false, 0, .none, maskAll, m.seq,
          rdLen m w⟩).1)) ∧
    (∀ (r : Msg) (u : State) (q : Request), arrivePacket s n .rdr = (some r, u) → (u.router r.dst).request r.src r.seq = some q →
      ends (.rdr n) s (fun t => t = takeData (dropRequest u r.dst q) q r.data r.len)) ∧
    (∀ (r : Msg) (u : State) (q : Request), arrivePacket s n .rsp = (some r, u) → (u.router r.dst).request r.src r.seq = some q →
      (r.aux.toNat = rspHeld → ends (.rsp n) s (fun t => t = setRequest u r.dst { q with state := .held, last := u.cycle })) ∧
      (r.aux.toNat = rspBusy → ends (.rsp n) s (fun t => t = setRequest u r.dst { q with state := .busy, last := u.cycle })) ∧
      (r.aux.toNat ≠ rspHeld → r.aux.toNat ≠ rspBusy → (q.msg.op = .push ∨ servedCmd (dropRequest u r.dst q) q = none) →
        ends (.rsp n) s (fun t => t = dropRequest u r.dst q)) ∧
      (∀ (k : Nat) (m : Cmd), q.msg.op ≠ .push → servedCmd (dropRequest u r.dst q) q = some (k, m) →
        (r.aux.toNat = rspAdmit → ends (.rsp n) s (fun t => t = settleAdmit (dropRequest u r.dst q) k m q)) ∧
        (r.aux.toNat = rspFault → ends (.rsp n) s (fun t =>
          t = settleFault (dropRequest u r.dst q) k m q (r.tgt.toNat % 256) ((r.data.headD 0).setWidth 64))) ∧
        (r.aux.toNat = rspDone → ends (.rsp n) s (fun t =>
          t = settleDone (dropRequest u r.dst q) k m q ((r.data.headD 0).setWidth 64))))) ∧
    (∀ (q : Request), (s.router dn).requests.find? (fun x => x.pkt.n == n) = some q → q.state = .sent →
      q.last + cycles20us ≤ s.cycle → s.cycle < q.pkt.first + cycles2ms →
      ends (.requestReissue dn n) s (fun t => t.mem = s.mem ∧ t.ctxs = s.ctxs ∧
        t.packets = s.packets ++ [{ q.pkt with n := s.fresh, here := dn, since := s.cycle }])) ∧
    (∀ (q : Request), s.dies.findSome? (fun (d, x) => (x.router.requests.find? (fun q => q.pkt.n == n)).map (fun q => (d, q))) =
        some (dn, q) → q.state = .busy → q.last + cycles20us ≤ s.cycle → s.room dn q.msg.dst = true →
      ends (.deliveryRetry n) s (fun t => t.mem = s.mem ∧ t.ctxs = s.ctxs ∧
        let u := dropRequest s dn q
        t.packets = s.packets ++ [(formPacket u { q.msg with src := dn, seq := (u.router dn).nextSeq q.msg.dst }).1])) ∧
    (∀ (d : Delivery) (src : Nat) (q : BitVec 16), s.delivery n = some d → d.remote = some (src, q) → d.state = .ended →
      ends (.admitRepeat n) s (fun t => t.delivery n = none ∧ t.mem = s.mem ∧ t.packets = s.packets ++
        [(formPacket s ⟨.rsp, d.die, src, d.pen, BitVec.ofNat 40 fOwner, BitVec.ofNat 8 rspFault, [], false, 0, .none, maskAll, q, none⟩).1])) ∧
    -- a delivery that was held, admitted since, of which nothing has come since FIRST: ADMIT, again every 20 µs, and DONE where
    -- FIRST was the whole of it
    (∀ (d : Delivery) (src : Nat) (q : BitVec 16), s.delivery n = some d → d.remote = some (src, q) → d.state = .admitted →
      d.waited = true → d.more = false → d.data = [] →
      (d.lines = 0 ∨ d.landed.length ≠ d.lines) → ends (.admitRepeat n) s (fun t => t.delivery n = some { d with since := s.cycle } ∧
        t.mem = s.mem ∧ t.packets = s.packets ++
          [(formPacket s ⟨.rsp, d.die, src, d.pen, 0, BitVec.ofNat 8 rspAdmit, [], false, 0, .none, maskAll, q, none⟩).1])) ∧
    (∀ (d : Delivery) (src : Nat) (q : BitVec 16), s.delivery n = some d → d.remote = some (src, q) → d.state = .admitted →
      d.waited = true → d.more = false → d.landed = [] → d.lines = d.data.length → d.data ≠ [] →
      ends (.admitRepeat n) s (fun t => t.delivery n = none ∧ t.mem = s.mem ∧
        (∀ ck, landPlace s d = some (.core ck) → let x := s.tile ck d.tile
          t.tile ck d.tile = { x with land := false, full := x.alloc }) ∧
        t.packets = s.packets ++
          [(formPacket s ⟨.rsp, d.die, src, d.pen, 0, BitVec.ofNat 8 rspDone, [], false, 0, .none, maskAll, q, none⟩).1])) ∧
    (∀ (k : Nat) (q : BitVec 16) (td : BitVec 14) (addr : Dword) (l : Lost), (s.ctx k).status ≠ .empty → (s.ctx k).lost = some l →
      l.dst = td.toNat → l.first + cycles2ms ≤ s.cycle →
      ends (.remoteTimeout k q false td addr) s (fun t => (t.ctx k).status = .empty)) ∧
    -- a record of VAPPLY that no response has answered for 2 ms (log entry 77)
    (∀ (k : Nat) (q : BitVec 16) (td : BitVec 14) (addr : Dword), (s.ctx k).status ≠ .empty → (s.ctx k).lost = none →
      pushExpired s (s.ctx k) td.toNat = true →
      ends (.remoteTimeout k q false td addr) s (fun t => (t.ctx k).status = .empty)) ∧
    (∀ (k : Nat) (q : BitVec 16) (td : BitVec 14) (addr : Dword) (m : Cmd), (s.ctx k).status ≠ .empty → (s.ctx k).cmd q = some m →
      expired s (s.ctx k) q = true →
      ends (.remoteTimeout k q true td addr) s (fun t => (t.ctx k).status = .empty)) ∧
    (∀ link, exec (.flitCrcRetry dn link) s = .next s) ∧
    (∀ (link : BitVec 3), link.toNat < 6 → (s.router dn).dead.contains link.toNat = false →
      ends (.linkDead dn link) s (fun t => (t.router dn).dead = (s.router dn).dead ++ [link.toNat] ∧
        (t.die dn).counters.linkDead = satInc (s.die dn).counters.linkDead ∧ t.mem = s.mem ∧ t.ctxs = s.ctxs)) ∧
    (∀ (link : BitVec 3), (s.router dn).dead.contains link.toNat = true →
      ends (.linkReturn dn link) s (fun t => (t.router dn).dead.contains link.toNat = false ∧ t.mem = s.mem ∧ t.ctxs = s.ctxs))

/-- The host's accesses (R156, R157, R192, R194, R195, R197, R349, R398, R399, R405, R406, R413): a message enters an
inbound door; a new HEAD of an outbound one is taken; memory is read and written through BAR4; registers take their
values; and die counters and a VI's overflow counters are read. That the host's accesses are rows of Instr is the model's
choice (log entry 42). -/
def Obligations.HostEventsComplete : Prop :=
  ∀ (s : State) (p : Nat) (vi : BitVec 8) (v : Dword),
    (∀ (door : Nat) (data : List Byte) (ide : Bool) (i : Nat) (u : State), let n := viDfirst ((s.pkg p).vi vi.toNat) + door
      answers s p vi.toNat ide → door < viDcount ((s.pkg p).vi vi.toNat) → dOut ((s.pkg p).door n).desc = false →
      (data.length = 64 → doorOpen s p vi.toNat n = true → doorAppend s p vi.toNat n (lineOf data) = .ok (i, u) →
        ends (.hostDoorAppend p vi door 0 data ide) s (fun t => t = serveDoor (wakeEv u p vi.toNat) p vi.toNat n)) ∧
      (data.length ≠ 64 → ends (.hostDoorAppend p vi door 0 data ide) s (fun t =>
        ((t.pkg p).door n).overflow = satInc ((s.pkg p).door n).overflow ∧ t.mem = s.mem ∧ t.ctxs = s.ctxs))) ∧
    (∀ (door : Nat) (w : Word) (ide : Bool), let n := viDfirst ((s.pkg p).vi vi.toNat) + door
      let d := ((s.pkg p).door n).desc
      answers s p vi.toNat ide → door < viDcount ((s.pkg p).vi vi.toNat) → dOut d = true → dPen d = s.penOf p vi.toNat →
      (span32 w.toNat (dHead d) ≤ span32 (dTail d) (dHead d) → ends (.doorHeadWrite p vi door w ide) s (fun t =>
        dHead ((t.pkg p).door n).desc = w.toNat ∧ dTail ((t.pkg p).door n).desc = dTail d ∧ t.mem = s.mem)) ∧
      (span32 (dTail d) (dHead d) < span32 w.toNat (dHead d) → exec (.doorHeadWrite p vi door w ide) s = .next s)) ∧
    (∀ (len : Nat) (ide : Bool) (bs : List Byte), s.rejects p vi.toNat ide = false →
      readPieces s ⟨die0 p, vi.toNat, s.penOf p vi.toNat⟩ (piecesOf v.toNat len) = some bs →
      ends (.hostMemRead p vi v len ide) s (fun t => hostAnswer s t p .successful bs)) ∧
    (∀ (len : Nat) (ide : Bool), s.rejects p vi.toNat ide = true →
      ends (.hostMemRead p vi v len ide) s (fun t => hostAnswer s t p .unsupportedRequest [])) ∧
    (∀ (len : Nat) (ide : Bool), s.rejects p vi.toNat ide = false →
      readPieces s ⟨die0 p, vi.toNat, s.penOf p vi.toNat⟩ (piecesOf v.toNat len) = none →
      ends (.hostMemRead p vi v len ide) s (fun t => hostAnswer s t p .completerAbort [] ∧
        (t.die (die0 p)).counters.hostErr = satInc (s.die (die0 p)).counters.hostErr)) ∧
    (∀ (data : List Byte) (ide ok : Bool) (u : State), answers s p vi.toNat ide →
      writePieces s ⟨die0 p, vi.toNat, s.penOf p vi.toNat⟩ (piecesOf v.toNat data.length) data = (ok, u) →
      ends (.hostMemWrite p vi v data ide) s (fun t => t.mem = u.mem ∧
        (t.die (die0 p)).counters.hostErr = if ok then (u.die (die0 p)).counters.hostErr else satInc (u.die (die0 p)).counters.hostErr)) ∧
    (∀ (door : Nat), answers0 s p vi.toNat → door < viDcount ((s.pkg p).vi vi.toNat) →
      ends (.overflowCounterClear p vi door 0) s (fun t =>
        ((t.pkg p).door (viDfirst ((s.pkg p).vi vi.toNat) + door)).overflow = 0 ∧ t.mem = s.mem)) ∧
    (∀ (dn cl : Nat), cl < 16 → answers0 s (pkgOf dn) 0 →
      ends (.counterConfigWrite dn cl true 0 v) s (fun t => ccEn (t.cluster dn cl).hyp.cfg = ccEn v ∧
        ccCore (t.cluster dn cl).hyp.cfg = ccCore v ∧ ccGvi (t.cluster dn cl).hyp.cfg = ccGvi v ∧
        (ccGvi v ≠ ccGvi (s.cluster dn cl).hyp.cfg → (t.cluster dn cl).guest = .reset)) ∧
      ends (.traceCounterClear dn cl true 0 false 0) s (fun t => (traceOf t dn cl true).tdelay = 0) ∧
      ends (.traceCounterClear dn cl true 0 true 0) s (fun t => (traceOf t dn cl true).tlost = 0) ∧
      (tcTen v = false ∨ (traceOf s dn cl true).ringOk = true → ends (.tctlWrite dn cl true 0 v) s (fun t =>
        (traceOf t dn cl true).tctl = v &&& 0x8000F01F)) ∧
      (∀ w : Word, ends (.trptrWrite dn cl true 0 w) s (fun t => let x := traceOf s dn cl true
        (traceOf t dn cl true).trptr = if span32 w.toNat x.trptr.toNat ≤ span32 x.twptr.toNat x.trptr.toNat then w else x.trptr)) ∧
      (∀ (r : BitVec 256) (l : List (BitVec 256)) (u : State), let x := traceOf s dn cl true
        x.queue = r :: l → (s.die dn).clusters ≠ [] → span32 x.twptr.toNat x.trptr.toNat ≠ x.capacity →
        x.tbase.toNat % 32 = 0 →
        (let va := x.tbase.toNat + 32 * (x.twptr.toNat % x.capacity)
         let a : Accessor := ⟨dn, 0, s.penOf (pkgOf dn) 0⟩
         targetOf s a Need.write va = dn ∧
         homeWrite (lateWrite (afterAccess s a Need.write va false) a va) a Need.write va (maskRange (va % 64) 32)
           (BitVec.ofNat 512 (r.toNat * 2 ^ (8 * (va % 64)))) = .ok u) →
        ends (.traceRecordWrite dn cl true) s (fun t => (traceOf t dn cl true).queue = l ∧
          (traceOf t dn cl true).twptr = x.twptr + 1 ∧ t.mem = u.mem))) ∧
    (s.absent p = false → ends (.plimWrite p v) s (fun t =>
      (t.pkg p).plim = max 400 (min 1600 (field v 0 16)) ∧ t.mem = s.mem ∧ t.ctxs = s.ctxs)) ∧
    (∀ ofs, ofs + 8 ≤ 0xC0 → answers0 s p 0 → ends (.registerWrite p 0 (0x130000 + ofs) v) s (fun t =>
      let m := (s.pkg p).mailbox ++ List.replicate (192 - (s.pkg p).mailbox.length) 0
      (t.pkg p).mailbox = m.take ofs ++ leBytes 8 v.toNat ++ m.drop (ofs + 8))) ∧
    -- a write of PREQ is the operation it names, and the windows' reads
    (answers0 s p 0 → ∀ (vcn : BitVec 16) (g : Bool),
      exec (.registerWrite p 0 0x100000 (preqWord 1 vi vcn g)) s = exec (.preempt p vi vcn g) s ∧
      exec (.registerWrite p 0 0x100000 (preqWord 2 vi vcn g)) s = exec (.release p vi vcn g) s ∧
      exec (.registerWrite p 0 0x100000 (preqWord 3 vi vcn g)) s = exec (.cancel p vi vcn g) s) ∧
    (∀ i, i < 11 → s.rejects0 p 0 = false →
      hostAnswer s (registerRead p 0 (0x1000 + 8 * i) s) p .successful (leBytes 8 ((s.die (die0 p)).counters.inOrder.getD i 0).toNat) ∧
      hostAnswer s (registerRead p 0 (0x41000 + 8 * i) s) p .successful (leBytes 8 ((s.die (die1 p)).counters.inOrder.getD i 0).toNat)) ∧
    (∀ i, vi ≠ 0 → s.rejects0 p vi.toNat = false → 2 * i + 1 < viDcount ((s.pkg p).vi vi.toNat) → i < 16384 →
      let o := fun (j : Nat) => let d := (s.pkg p).door (viDfirst ((s.pkg p).vi vi.toNat) + j)
        if dPen d.desc = s.penOf p vi.toNat then d.overflow else 0
      hostAnswer s (registerRead p vi (8 * i) s) p .successful (leBytes 8 (o (2 * i + 1) ++ o (2 * i)).toNat))

/-- Pre-emption, the bootstrap mailbox and the sessions' requests (R172, R350, R392 to R394, R408 to R411). The bytes
of the sessions' messages are the model's (log entries 39 and 40). -/
def Obligations.ManagementEventsComplete : Prop :=
  ∀ (s : State) (p : Nat) (vi : BitVec 8) (vcn : BitVec 16) (g : Bool),
    -- PREEMPT saves its target with HELD set, and its virtual cores take no dispatch
    (∀ (id k slot : Nat), preIgnored s p vi = false → preTargets s p vi.toNat vcn g = [id] → s.keyOfId id = some k → isSlot k = false →
      (s.ctx k).committing = false → (s.pkg p).cancelq = [] → (let n := viVcores (s.ctxVi (s.ctx k)); freeSlot s (s.ctx k).pkg (s.ctx k).vi.toNat (2 * n) (4 * n) = some slot) →
      ends (.preempt p vi vcn g) s (fun t => (t.ctx k).status = .empty ∧ (t.ctx slot).held = true ∧
        (t.pkg p).pstat = pstatWord 1 true true false ∧
        ∀ c ∈ preCores s p vi.toNat vcn, Table.has (t.pkg p).stopped (65536 * vi.toNat + c) = true)) ∧
    -- RELEASE clears HELD and lets them take dispatches again
    (preIgnored s p vi = false → ends (.release p vi vcn g) s (fun t =>
      (∀ k, (preTargets s p vi.toNat vcn g).contains (s.ctx k).id = true → (t.ctx k).held = false) ∧ t.mem = s.mem ∧
      ∀ c ∈ preCores s p vi.toNat vcn, Table.has (t.pkg p).stopped (65536 * vi.toNat + c) = false)) ∧
    -- CANCEL ends its target, unless it stands in a commit that has begun
    (∀ (id k : Nat), preIgnored s p vi = false → preTargets s p vi.toNat vcn g = [id] → s.keyOfId id = some k → (s.ctx k).status ≠ .empty →
      (s.ctx k).committing = false → (s.pkg p).preq = [] →
      ends (.cancel p vi vcn g) s (fun t => (t.ctx k).status = .empty)) ∧
    -- SEED pushes a record, and GO performs the mailbox's request
    (∀ (index : Dword) (r : Line), s.absent p = false → (s.pkg p).mailRun = none → index.toNat < 8192 →
      viQfirst ((s.pkg p).vi vi.toNat) ≤ index.toNat → index.toNat < viQfirst ((s.pkg p).vi vi.toNat) + viQcount ((s.pkg p).vi vi.toNat) →
      qEn ((s.pkg p).queue index.toNat) = true → viState ((s.pkg p).vi vi.toNat) = 1 →
      let u := (pushHome s p vi.toNat (index.toNat - viQfirst ((s.pkg p).vi vi.toNat)) (s.penOf p vi.toNat) r).2
      ends (.seed p vi index r) s (fun t => t = u.modPkg p (fun k => { k with mailStatus := 0 }))) ∧
    (∀ (v : Dword), s.absent p = false → v.getLsbD 0 = true →
      ((s.pkg p).mailRun = none → let x := mailOp s p (s.pkg p).mailRequest
        let ns := mailWaits p (s.pkg p).mailRequest x
        (ns = [] → ends (.bootstrapMailboxGo p v) s (fun t => t = x.2.modPkg p (fun k => { k with mailStatus := x.1.word }))) ∧
        (ns ≠ [] → ends (.bootstrapMailboxGo p v) s (fun t => (t.pkg p).mailStatus.getLsbD 63 = true ∧
          (t.pkg p).mailRun = some (x.1.word, ns)))) ∧
      ((s.pkg p).mailRun ≠ none → exec (.bootstrapMailboxGo p v) s = .next s)) ∧
    -- keys, manifests and attestation
    (∀ (slot : Nat) (m : Line), session s p vi.toNat → let h := (Table.get (s.pkg p).keys slot .reset).hdr
      if slot < 4096 ∧ keyState h = 1 ∧ keyPen h = s.penOf p vi.toNat then
        ends (.keyload p vi slot m) s (fun t => keyState (Table.get (t.pkg p).keys slot .reset).hdr = 2 ∧
          (Table.get (t.pkg p).keys slot .reset).material = m ∧ hostAnswer s t p .successful [0])
      else ends (.keyload p vi slot m) s (fun t => (t.pkg p).keys = (s.pkg p).keys ∧ hostAnswer s t p .successful [1])) ∧
    (∀ (mid : Nat) (key sig body : List Byte), session s p vi.toNat →
      ends (.manreg p vi mid key sig body) s (fun t =>
        if mid < 1024 ∧ (s.pkg p).manifestOf mid = none ∧ bodyOk body = true ∧ key.length = 1952 ∧ sig.length = 3309 ∧
          mlDsaVerify key sig body = true ∧ (s.pkg p).manifestEntries + bodyNum body 24 4 ≤ 1048576
        then Table.get (t.pkg p).manifests mid (newManifest 0 [] []) = newManifest (s.penOf p vi.toNat) key body ∧ hostAnswer s t p .successful [0]
        else (t.pkg p).manifests = (s.pkg p).manifests ∧ hostAnswer s t p .successful [1])) ∧
    (∀ (mid : Nat), session s p vi.toNat → ends (.mandel p vi mid) s (fun t =>
      if (s.pkg p).manifestOf mid = none ∨ ((s.pkg p).manifestOf mid).map (fun m => m.pen) ≠ some (s.penOf p vi.toNat)
      then (t.pkg p).manifests = (s.pkg p).manifests ∧ hostAnswer s t p .successful [1]
      else (t.pkg p).manifestOf mid = none ∧ hostAnswer s t p .successful [0])) ∧
    (session s p vi.toNat →
      ends (.getCertificate p vi) s (fun t => hostAnswer s t p .successful
        (Sys2Proof.Config.certificateChain ++ Sys2Proof.Config.identitySign Sys2Proof.Config.certificateChain)) ∧
      (∀ nonce, ends (.challenge p vi nonce) s (fun t => hostAnswer s t p .successful (nonce ++ Sys2Proof.Config.identitySign nonce))) ∧
      ends (.getMeasurements p vi) s (fun t => let m := measurements (s.pkg p) vi.toNat
        hostAnswer s t p .successful (m ++ Sys2Proof.Config.identitySign m)) ∧
      (∀ key, ends (.ideKm p vi key) s (fun t => Table.get (t.pkg p).ideKeys vi.toNat 0 = key ∧ t.mem = s.mem))) ∧
    -- the domain secret, once
    (∀ secret, session s p 0 → ends (.fabkey p secret) s (fun t =>
      if (s.pkg p).secret = none then (t.pkg p).secret = some secret ∧ hostAnswer s t p .successful [0]
      else (t.pkg p).secret = (s.pkg p).secret ∧ hostAnswer s t p .successful [1])) ∧
    -- TDISP
    (vi ≠ 0 → s.absent p = false →
      (Table.get (s.pkg p).tdisp vi.toNat .unlocked = .unlocked → ends (.lockInterface p vi) s (fun t =>
        Table.get (t.pkg p).tdisp vi.toNat .unlocked = .locked ∧ t.mem = s.mem ∧ t.ctxs = s.ctxs)) ∧
      (Table.get (s.pkg p).tdisp vi.toNat .unlocked = .locked → ends (.startInterface p vi) s (fun t =>
        Table.get (t.pkg p).tdisp vi.toNat .unlocked = .run ∧ t.mem = s.mem ∧ t.ctxs = s.ctxs)) ∧
      ends (.stopInterface p vi) s (fun t => Table.get (t.pkg p).tdisp vi.toNat .unlocked = .unlocked))

/-- Resets, power and the sweep (R187 to R190, R359, R360, R410, R413, R414). When the sweep begins, the state after the thermal
halt, and the values after reset that the spec does not give, are the model's reading (log entries 2, 12, 13, 45 and 47). -/
def Obligations.ResetAndSweepEventsComplete : Prop :=
  ∀ (s : State) (p : Nat) (vi : BitVec 8),
    -- a function-level reset ends the VI's generation, and CLOSING follows
    (vi ≠ 0 → viState ((s.pkg p).vi vi.toNat) ≠ 2 → (s.pkg p).shutBusy vi.toNat = false →
      ends (.functionLevelReset p vi) s (fun t =>
        genGen ((t.pkg p).gen vi.toNat) = (genGen ((s.pkg p).gen vi.toNat) + 1) % genCount vi.toNat ∧
        viState ((t.pkg p).vi vi.toNat) = 2 ∧ vi.toNat ∉ (t.pkg p).flrPending)) ∧
    -- one that was BUSY resumes at a pass end
    ((s.pkg p).flrPending.contains vi.toNat = true → (s.pkg p).shutBusy vi.toNat = false →
      ends (.flrShutterResume p vi) s (fun t =>
        genGen ((t.pkg p).gen vi.toNat) = (genGen ((s.pkg p).gen vi.toNat) + 1) % genCount vi.toNat ∧
        vi.toNat ∉ (t.pkg p).flrPending)) ∧
    -- cold reset and the thermal halt leave nothing of a package
    (∀ a b, ends (.coldReset p a b) s (fun t =>
      t.pkg p = { Pkg.reset with images := (a, b), born := s.cycle } ∧
      (∀ e ∈ t.ctxs, pkgOf (dieOfCore e.2.home) ≠ p) ∧ ∀ l, pkgOf (dieOfGpa (64 * l)) = p → t.mem.pen l = voidPen)) ∧
    (∀ c, (110 ≤ c → ends (.thermalHalt p c) s (fun t => (t.pkg p).halted = true ∧ ∀ e ∈ t.ctxs, pkgOf (dieOfCore e.2.home) ≠ p)) ∧
      (c < 110 → exec (.thermalHalt p c) s = .next s)) ∧
    -- power
    (∀ w, ends (.powerSample p w) s (fun t => (t.pkg p).samples = (w :: (s.pkg p).samples).take 100 ∧
      (t.pkg p).throttle = (s.pkg p).throttle ∧ t.mem = s.mem ∧ t.ctxs = s.ctxs)) ∧
    ends (.throttleStep p) s (fun t => t.mem = s.mem ∧ t.ctxs = s.ctxs ∧ (t.pkg p).throttle =
      (let n := (s.pkg p).samples.length; let sum := (s.pkg p).samples.foldl (fun a b => a + b) 0
       if (s.pkg p).plim * n < sum then min 15 ((s.pkg p).throttle + 1)
       else if 100 * sum < 95 * (s.pkg p).plim * n then (s.pkg p).throttle - 1 else (s.pkg p).throttle)) ∧
    -- the sweep
    (sweepIdle s p = true → (s.pkg p).sweepDue = true → ends (.sweepPassStart p) s (fun t =>
      (∀ v, genSnap ((t.pkg p).gen v) = genRcnt ((s.pkg p).gen v) ∧ genRcnt ((t.pkg p).gen v) = genRcnt ((s.pkg p).gen v)) ∧
      (t.sweep (die0 p)).run = true ∧ (t.sweep (die1 p)).run = true ∧ (t.sweep (die0 p)).prog = 0 ∧ t.mem = s.mem)) ∧
    (∀ (dn n : Nat), (s.sweep dn).run = true → (s.sweep dn).prog.toNat < (s.sweep dn).target → snapQuiet s (pkgOf dn) = true →
      (s.sweep dn).begun + cycles5ms ≤ s.cycle → (s.sweep dn).unit (s.sweep dn).prog.toNat = .line n →
      ends (.sweepVisit dn) s (fun t => (t.sweep dn).prog = (s.sweep dn).prog + 1 ∧ t.mem.cells = s.mem.cells ∧
        ∀ l, t.mem.pen l = if l = dn * dieSpan / 64 + n ∧ (s.pkg (pkgOf dn)).inSnap (s.mem.pen l) = true then voidPen else s.mem.pen l))

/-- Operands and rights are checked before anything is done. GBAR and LEAVE on a misaligned descriptor trap with ALIGN, and
on one the context has not joined with PERM (R231, R233, R235). APPLY and KENV of a handle that names no entry trap with
NULLK, and KDUP of such a one that claims to be live (R247, R249, R251). Tile instructions of a tile that the context does
not hold trap with PERM, and with a number above 127 with ILLEGAL (R97, R264). Engine commands whose operands fail trap, and
a 17th waits (R86, R270 to R272, R282 to R284). A privileged word outside VI 0 traps with PERM, where the context does not
stand in one already (R337, R341). -/
def Obligations.OperandsAreChecked : Prop :=
  (∀ (s : State) (a b : Reg), s.cur.groupWait (s.rS a) = none →
    ((s.rS a).toNat % 64 ≠ 0 →
      exec (.gbar a b) s = .next (s.fault .s fAlign (s.rS a).toNat) ∧ exec (.leave a) s = .next (s.fault .s fAlign (s.rS a).toNat)) ∧
    ((s.rS a).toNat % 64 = 0 → s.cur.membership (s.rS a) = none →
      exec (.gbar a b) s = .next (s.fault .s fPerm (s.rS a).toNat) ∧ exec (.leave a) s = .next (s.fault .s fPerm (s.rS a).toNat))) ∧
  (∀ (s : State) (d a b : Reg), envNamed s a = none →
    exec (.apply d a b) s = .next (s.fault .s fNullK 0) ∧ exec (.kenv d a) s = .next (s.fault .s fNullK 0) ∧
    (hLive (s.cur.readK s.pen a.toNat) = true → exec (.kdup d a) s = .next (s.fault .s fNullK 0))) ∧
  (∀ (s : State) (a : Reg), ∀ i ∈ ([.tfree a, .twaitf a, .twaite a, .tsetf a, .tclr a] : List Instr),
    (128 ≤ (s.rA a).toNat → exec i s = .next (s.fault .a fIllegal 0)) ∧
    ((s.rA a).toNat < 128 → ownsTile s (s.rA a).toNat = false → exec i s = .next (s.fault .a fPerm 0))) ∧
  (∀ (s : State) (d a b : Reg),
    (∀ e ∈ copies, ∀ code x, copyCheck e.2 s.cur.vcn.toNat (s.rA d) (s.rA a) (s.rA b) = some (code, x) →
      exec (e.1 d a b) s = .next (s.fault .a code x)) ∧
    ((s.rA a).toNat % 8 ≠ 0 → ∀ i ∈ ([.sigdec a, .sigwait a b] : List Instr),
      exec i s = .next (s.fault .a fAlign (s.rA a).toNat)) ∧
    ((s.rA a).toNat % 128 ≠ 0 → exec (.jdec a) s = .next (s.fault .a fAlign (s.rA a).toNat)) ∧
    (16 ≤ s.cur.cmds.length → (∀ e ∈ copies, copyCheck e.2 s.cur.vcn.toNat (s.rA d) (s.rA a) (s.rA b) = none →
      waits (e.1 d a b) s))) ∧
  (∀ (s : State) (d a b : Reg), s.cur.vi ≠ 0 → atStart s →
    exec (.vishut d a b) s = .next (s.fault .s fPerm 0) ∧ exec (.vikeyz d a b) s = .next (s.fault .s fPerm 0) ∧
    exec (.virev d a b) s = .next (s.fault .s fPerm 0) ∧
    ∀ e ∈ vimapRows, exec (e.1 d a) s = .next (s.fault .s fPerm 0))

/-- A step runs the decoded instruction (R126, R199). With nothing else due, the next stream's bytes at its aligned
program counter decoded to an instruction, the step is the meaning of that instruction after what the fetch leaves in the
caches of translations, and what the trace units note of it; an act that is due is the meaning of its row. With nothing due
the next cycle begins. The agenda that says which act is due is the model's own (log entries 7, 17 and 42), and so is that a
domain whose packages have all halted goes no further (log entry 47). -/
def Obligations.StepRunsDecodedInstruction : Prop :=
  ∀ (s : State),
    (∀ (f : Focus) (n : Nat) (i : Instr), s.agenda = [] → nextTurn s = some (.issue f) →
      (s.pkg (s.ctx f.key).pkg).halted = false → let u := issuing s f
      (u.cur.pc f.stream).toNat % f.stream.wordAlign = 0 → fetchWord u f.stream = .ok n → decodeBits f.stream n = .ok i →
      let w := useWord u f.stream
      ∀ t, exec i w = .next t → step s = .next (observeIssue w t f.stream n i)) ∧
    (∀ (e : Act) (i : Instr) (r : List Turn), isRow e i →
      (s.agenda = .act e :: r → let u := { s with agenda := r }
        ∀ t, exec i u = .next t → step s = .next (observeAct u t e)) ∧
      (∀ k, s.agenda = .on k e :: r → let u := { s with agenda := r, focus := ⟨k, .s⟩ }
        ∀ t, exec i u = .next t → step s = .next (observeAct u t e))) ∧
    (s.agenda = [] → nextTurn s = none → step s = if s.halted then .fault .halted else .next (tick s))

/-- Words that the spec writes out decode to what they stand for, and encode from it (R198, R202, R203, R209, R211). -/
def Obligations.SpecWordsDecode : Prop :=
  ∀ e ∈ specWords, decodeBits e.1 e.2.1 = .ok e.2.2 ∧ encodeBits e.2.2 = e.2.1

/-- Words of S and A: decoding an encoded well-formed instruction gives it back, and encoding a decoded one gives its bits
back (R199, R202, R203). -/
def Obligations.ScalarWordsRoundTrip : Prop :=
  ∀ (st : Stream) (i : Instr), st = .s ∨ st = .a →
    (ownWord i st → i.wf = true → decodeBits st (encodeBits i) = .ok i) ∧
    (∀ n, decodeBits st n = .ok i → encodeBits i = n % 2 ^ bitsOf st n ∧ i.wf = true ∧ i.stream = some st)

/-- Words of V and M: the same (R204 to R211). -/
def Obligations.ComputeWordsRoundTrip : Prop :=
  ∀ (st : Stream) (i : Instr), st = .v ∨ st = .m →
    (i.stream = some st → i.wf = true → decodeBits st (encodeBits i) = .ok i) ∧
    (∀ n, decodeBits st n = .ok i → encodeBits i = n % 2 ^ bitsOf st n ∧ i.wf = true ∧ i.stream = some st)

/-- After reset (R6, R36, R92, R163, R185, R414): no bank holds a context, VI 0 alone is ACTIVE, every line of memory
and every scratchpad is void, queues and doors are closed, counters read zero, and every memory is in canonical form.
The bytes of unwritten memory, and the values of fields the spec gives none, are the model's choice (log entries 1, 2
and 13). -/
def Obligations.ResetValues : Prop :=
  State.reset.memOk = true ∧ State.reset.cycle = 0 ∧ (∀ k, (State.reset.ctx k).status = .empty) ∧
  (∀ p v, viState ((State.reset.pkg p).vi v) = if v = 0 then 1 else 0) ∧
  (∀ p v, genGen ((State.reset.pkg p).gen v) = 0 ∧ genRcnt ((State.reset.pkg p).gen v) = 0) ∧
  (∀ l, State.reset.mem.pen l = voidPen) ∧ (∀ ck l, (State.reset.core ck).spad.pen l = voidPen) ∧
  (∀ ck n, (State.reset.tile ck n).alloc = false) ∧
  (∀ p q, qEn ((State.reset.pkg p).queue q) = false ∧ dEn ((State.reset.pkg p).door q).desc = false ∧
    ((State.reset.pkg p).door q).overflow = 0) ∧
  (∀ p, (State.reset.pkg p).secret = none ∧ (State.reset.pkg p).plim = 1600 ∧ (State.reset.pkg p).throttle = 0) ∧
  (∀ d, (State.reset.die d).counters = .zero ∧ (State.reset.sweep d).prog = 0 ∧ (State.reset.sweep d).run = false)

/-- Every step keeps every memory in canonical form: its cells in rising order of address and none that reads as an
unlisted one does (R92, R111). The form is the model's own (log entry 1). -/
def Obligations.StepKeepsMemory : Prop :=
  ∀ (s t : State), s.memOk = true → step s = .next t → t.memOk = true

/-- s0 and a0 (R72). -/
def Obligations.ZeroRegisters : Prop :=
  ∀ (s : State) (c : Ctx) (p : Pen) (v : Dword),
    s.rS 0 = 0 ∧ s.rA 0 = 0 ∧ c.readS p 0 = 0 ∧ c.readA p 0 = 0 ∧ c.writeS p 0 v = c ∧ c.writeA p 0 v = c ∧
    (∀ (a b : Reg), exec (.add 0 a b) s = .next s.nextS ∧ exec (.addA 0 a b) s = .next s.nextA ∧
      restS s s.nextS ∧ s.nextS.cur.s = s.cur.s ∧ s.nextA.cur.a = s.cur.a)

/-- Coordinates, dies and packages (R14). -/
def Obligations.DieNumbers : Prop :=
  (∀ x y z, x < 16 → y < 24 → z < 24 → let d := x + 16 * (y + 24 * z)
    d < 9216 ∧ dieX d = x ∧ dieY d = y ∧ dieZ d = z ∧ isDie1 d = decide (z % 2 = 1)) ∧
  (∀ x y m, x < 16 → y < 24 → m < 12 → let p := x + 16 * (y + 24 * m)
    p < 4608 ∧ die0 p = x + 16 * (y + 24 * (2 * m)) ∧ die1 p = x + 16 * (y + 24 * (2 * m + 1)) ∧ die1 p = die0 p + 384 ∧
    pkgOf (die0 p) = p ∧ pkgOf (die1 p) = p)

/-- The end of a sweep pass (R189). -/
def Obligations.SweepPassEnds : Prop :=
  ∀ (s : State) (p : Nat),
    if (s.sweep (die0 p)).finished = true ∧ (s.sweep (die1 p)).finished = true then ends (.sweepPassEnd p) s (fun t =>
      (t.sweep (die0 p)).run = false ∧ (t.sweep (die1 p)).run = false ∧
      (∀ v, genRcnt ((t.pkg p).gen v) = genRcnt ((s.pkg p).gen v) - genSnap ((s.pkg p).gen v) ∧ genSnap ((t.pkg p).gen v) = 0) ∧
      ∀ v, viState ((t.pkg p).vi v) = if viState ((s.pkg p).vi v) = 2 ∧ genRcnt ((s.pkg p).gen v) - genSnap ((s.pkg p).gen v) = 0
        then 0 else viState ((s.pkg p).vi v))
    else exec (.sweepPassEnd p) s = .next s

end Statements
end

