-- ==== Sys2Proof/Laws/Tables.lean ====
section
/-! SUPPORT. Reading a table after it has been written. -/

namespace Sys2Proof.Machine

set_option Elab.async false

@[simp] theorem Table.get_nil {α : Type} (k : Nat) (d : α) : Table.get [] k d = d := rfl

/-- The entry just put is read back. -/
@[simp] theorem Table.get_put_same {α : Type} (t : Table α) (k : Nat) (v d : α) : Table.get (Table.put t k v) k d = v := by
  induction t with
  | nil => simp [Table.put, Table.get]
  | cons e r ih =>
    obtain ⟨k', v'⟩ := e
    simp only [Table.put]
    split
    · simp [Table.get]
    · split
      · simp [Table.get]
      · simp_all [Table.get]

/-- Putting an entry leaves every other alone. -/
@[simp] theorem Table.get_put_other {α : Type} (t : Table α) {k j : Nat} (v d : α) (h : j ≠ k) :
    Table.get (Table.put t k v) j d = Table.get t j d := by
  induction t with
  | nil => simp [Table.put, Table.get, Ne.symm h]
  | cons e r ih =>
    obtain ⟨k', v'⟩ := e
    simp only [Table.put]
    split
    · simp [Table.get, Ne.symm h]
    · split
      · rename_i hk; simp_all [Table.get, Ne.symm h]
      · simp [Table.get, ih]

/-- Of two entries put for one key the later stands. -/
@[simp] theorem Table.put_put {α : Type} (t : Table α) (k : Nat) (v w : α) : Table.put (Table.put t k v) k w = Table.put t k w := by
  induction t with
  | nil => simp [Table.put]
  | cons e r ih =>
    obtain ⟨k', v'⟩ := e
    simp only [Table.put]
    split
    · simp [Table.put]
    · split
      · simp [Table.put]
      · rename_i h1 h2
        have h2 : ¬ k' = k := by simpa using h2
        simp [Table.put, h1, h2, ih]

@[simp] theorem Table.has_put_same {α : Type} (t : Table α) (k : Nat) (v : α) : Table.has (Table.put t k v) k = true := by
  induction t with
  | nil => simp [Table.put, Table.has]
  | cons e r ih =>
    obtain ⟨k', v'⟩ := e
    simp only [Table.put]
    split
    · simp [Table.has]
    · split
      · simp [Table.has]
      · simp [Table.has, ih]

end Sys2Proof.Machine
end

