-- ==== Sys2Proof/Laws/Memory.lean ====
section
/-! SUPPORT. Memories keep their canonical form, and what a byte or a line reads after a write (R92, R111). -/

namespace Sys2Proof.Machine

set_option Elab.async false

/-! ### Rising keys -/

theorem risingFrom_iff (lo : Nat) (l : List Nat) : risingFrom lo l = true ↔ (lo :: l).Pairwise (· < ·) := by
  induction l generalizing lo with
  | nil => simp [risingFrom]
  | cons k r ih =>
    simp only [risingFrom, Bool.and_eq_true, decide_eq_true_eq, ih, List.pairwise_cons, List.mem_cons, forall_eq_or_imp]
    constructor
    · rintro ⟨h, hk, hr⟩
      exact ⟨⟨h, fun x hx => Nat.lt_trans h (hk x hx)⟩, hk, hr⟩
    · rintro ⟨⟨h, _⟩, hk, hr⟩
      exact ⟨h, hk, hr⟩

/-- Keys rise when each is below all that follow it. -/
theorem rising_iff (l : List Nat) : rising l = true ↔ l.Pairwise (· < ·) := by
  cases l with
  | nil => simp [rising]
  | cons k r => simp [rising, risingFrom_iff]

/-- Keys of a table in order. -/
def Table.ordered {α : Type} (t : Table α) : Prop := t.Pairwise (fun a b => a.1 < b.1)

theorem Table.ordered_iff {α : Type} (t : Table α) : rising (t.map Prod.fst) = true ↔ t.ordered := by
  rw [rising_iff, List.pairwise_map]; rfl

theorem Table.ordered_filter {α : Type} {t : Table α} (f : Nat × α → Bool) (h : t.ordered) : Table.ordered (t.filter f) :=
  List.Pairwise.filter f h

theorem Table.ordered_drop {α : Type} {t : Table α} (k : Nat) (h : t.ordered) : (Table.drop t k).ordered :=
  Table.ordered_filter _ h

theorem Table.mem_put {α : Type} {t : Table α} {k : Nat} {v : α} {e : Nat × α} (h : e ∈ Table.put t k v) :
    e = (k, v) ∨ e ∈ t := by
  induction t with
  | nil => simpa [Table.put] using h
  | cons x r ih =>
    obtain ⟨k', v'⟩ := x
    simp only [Table.put] at h
    split at h
    · simpa using h
    · split at h
      · simp at h; grind
      · simp at h; grind

theorem Table.ordered_put {α : Type} {t : Table α} (k : Nat) (v : α) (h : t.ordered) : (Table.put t k v).ordered := by
  induction t with
  | nil => simp [Table.put, Table.ordered]
  | cons x r ih =>
    obtain ⟨k', v'⟩ := x
    unfold Table.ordered at h ih ⊢
    simp only [List.pairwise_cons] at h
    simp only [Table.put]
    split
    · rename_i hk
      simp only [List.pairwise_cons, List.mem_cons, forall_eq_or_imp]
      exact ⟨⟨hk, fun e he => Nat.lt_trans hk (h.1 e he)⟩, h.1, h.2⟩
    · split
      · rename_i hk; have hk : k' = k := by simpa using hk
        subst hk
        simp only [List.pairwise_cons]
        exact ⟨h.1, h.2⟩
      · rename_i hlt hne
        have hne : ¬ k' = k := by simpa using hne
        simp only [List.pairwise_cons]
        refine ⟨fun e he => ?_, ih h.2⟩
        rcases Table.mem_put he with rfl | he
        · show k' < k; omega
        · exact h.1 e he

/-! ### The canonical form is kept -/

theorem Memory.wf_iff (m : Memory) : m.wf = true ↔
    Table.ordered m.cells ∧ Table.ordered m.pens ∧ (∀ c ∈ m.cells, c.2 ≠ 0) ∧ ∀ e ∈ m.pens, e.2 ≠ voidPen := by
  have hc : (m.cells.map Prod.fst).Pairwise (· < ·) ↔ Table.ordered m.cells := by rw [List.pairwise_map]; rfl
  have hp : (m.pens.map Prod.fst).Pairwise (· < ·) ↔ Table.ordered m.pens := by rw [List.pairwise_map]; rfl
  simp only [Memory.wf, Bool.and_eq_true, rising_iff, hc, hp, List.all_eq_true, bne_iff_ne, ne_eq, and_assoc]

theorem Memory.wf_empty : Memory.empty.wf = true := rfl

theorem Memory.wf_setByte {m : Memory} (a : Nat) (b : Byte) (h : m.wf = true) : (m.setByte a b).wf = true := by
  rw [Memory.wf_iff] at h ⊢
  obtain ⟨hc, hp, hz, hv⟩ := h
  simp only [Memory.setByte]
  refine ⟨?_, hp, ?_, hv⟩
  · split
    · exact Table.ordered_drop a hc
    · exact Table.ordered_put a b hc
  · split
    · exact fun c hx => hz c (List.mem_filter.mp hx).1
    · rename_i hb
      intro c hx
      rcases Table.mem_put hx with rfl | hx
      · simpa using hb
      · exact hz c hx

theorem Memory.wf_setPen {m : Memory} (l : Nat) (p : Pen) (h : m.wf = true) : (m.setPen l p).wf = true := by
  rw [Memory.wf_iff] at h ⊢
  obtain ⟨hc, hp, hz, hv⟩ := h
  simp only [Memory.setPen]
  refine ⟨hc, ?_, hz, ?_⟩
  · split
    · exact Table.ordered_drop l hp
    · exact Table.ordered_put l p hp
  · split
    · exact fun c hx => hv c (List.mem_filter.mp hx).1
    · rename_i hb
      intro c hx
      rcases Table.mem_put hx with rfl | hx
      · simpa using hb
      · exact hv c hx

theorem mem_lineCells {l : Nat} {d : Line} {c : Host.Cell} (h : c ∈ lineCells l d) : c.1 / 64 = l ∧ c.2 ≠ 0 := by
  simp only [lineCells, List.mem_filter, List.mem_map, List.mem_range, bne_iff_ne, ne_eq] at h
  obtain ⟨⟨j, hj, rfl⟩, hz⟩ := h
  exact ⟨by show (64 * l + j) / 64 = l; omega, hz⟩

theorem lineCells_ordered (l : Nat) (d : Line) : Table.ordered (lineCells l d) := by
  unfold lineCells Table.ordered
  refine List.Pairwise.filter _ ?_
  rw [List.pairwise_map]
  exact List.Pairwise.imp (fun h => by show 64 * l + _ < 64 * l + _; omega) List.pairwise_lt_range

theorem Memory.wf_setLine {m : Memory} (l : Nat) (d : Line) (h : m.wf = true) : (m.setLine l d).wf = true := by
  rw [Memory.wf_iff] at h ⊢
  obtain ⟨hc, hp, hz, hv⟩ := h
  simp only [Memory.setLine]
  refine ⟨?_, hp, ?_, hv⟩
  · unfold Table.ordered
    refine List.pairwise_append.mpr ⟨Table.ordered_filter _ hc, ?_, ?_⟩
    · refine List.pairwise_append.mpr ⟨lineCells_ordered l d, Table.ordered_filter _ hc, ?_⟩
      intro a ha b hb
      have h1 := (mem_lineCells ha).1
      have h2 : l < b.1 / 64 := by simpa using (List.mem_filter.mp hb).2
      omega
    · intro a ha b hb
      have h1 : a.1 / 64 < l := by simpa using (List.mem_filter.mp ha).2
      rcases List.mem_append.mp hb with hb | hb
      · have h2 := (mem_lineCells hb).1; omega
      · have h2 : l < b.1 / 64 := by simpa using (List.mem_filter.mp hb).2
        omega
  · intro c hx
    rcases List.mem_append.mp hx with hx | hx
    · exact hz c (List.mem_filter.mp hx).1
    · rcases List.mem_append.mp hx with hx | hx
      · exact (mem_lineCells hx).2
      · exact hz c (List.mem_filter.mp hx).1

theorem Memory.wf_putLine {m : Memory} (l : Nat) (p : Pen) (d : Line) (h : m.wf = true) : (m.putLine l p d).wf = true :=
  Memory.wf_setPen l p (Memory.wf_setLine l d h)

theorem Memory.wf_write {m : Memory} (p : Pen) (l : Nat) (k : BitVec 64) (d : Line) (h : m.wf = true) :
    (m.write p l k d).wf = true := by
  unfold Memory.write
  split
  · exact Memory.wf_setLine l _ h
  · exact Memory.wf_putLine l p _ h

theorem Memory.wf_pokeBytes {m : Memory} (a : Nat) (bs : List Byte) (h : m.wf = true) : (m.pokeBytes a bs).wf = true := by
  induction bs generalizing m a with
  | nil => exact h
  | cons b r ih => exact ih (a + 1) (Memory.wf_setByte a b h)

theorem wf_putLines {m : Memory} (p : Pen) (l : Nat) (ls : List Line) (h : m.wf = true) : (putLines m p l ls).wf = true := by
  induction ls generalizing m l with
  | nil => exact h
  | cons x r ih => exact ih (l + 1) (Memory.wf_putLine l p x h)

theorem wf_storeLanes {m : Memory} (p : Pen) (xs : List (Option Dword × Word)) (h : m.wf = true) :
    (storeLanes p m xs).wf = true := by
  induction xs generalizing m with
  | nil => exact h
  | cons x r ih =>
    obtain ⟨a, v⟩ := x
    cases a with
    | none => exact ih h
    | some a => exact ih (Memory.wf_write p _ _ _ h)

/-- Any choice of addresses and lines of a memory is again in canonical form. -/
theorem Memory.wf_filter {m : Memory} (f : Host.Cell → Bool) (g : Nat × Pen → Bool) (h : m.wf = true) :
    Memory.wf ⟨m.cells.filter f, m.pens.filter g⟩ = true := by
  rw [Memory.wf_iff] at h ⊢
  obtain ⟨hc, hp, hz, hv⟩ := h
  exact ⟨Table.ordered_filter f hc, Table.ordered_filter g hp, fun c hx => hz c (List.mem_filter.mp hx).1,
    fun e hx => hv e (List.mem_filter.mp hx).1⟩

theorem Memory.wf_ofTiles {m : Memory} (ts : List Nat) (h : m.wf = true) : (m.ofTiles ts).wf = true :=
  Memory.wf_filter _ _ h

theorem Memory.wf_putAll {m : Memory} (n : Memory) (h : m.wf = true) : (m.putAll n).wf = true := by
  unfold Memory.putAll
  generalize n.pens = l
  induction l generalizing m with
  | nil => exact h
  | cons e r ih => exact ih (Memory.wf_putLine e.1 e.2 _ h)

theorem Memory.wf_sweepLine {m : Memory} (k : Pkg) (l : Nat) (h : m.wf = true) : (m.sweepLine k l).wf = true := by
  unfold Memory.sweepLine
  split
  · exact Memory.wf_setPen l voidPen h
  · exact h

/-! ### Bytes of lines -/

/-- Byte j of a number's little-endian bytes. -/
theorem leNat_byte (bs : List Byte) (j : Nat) (h : j < bs.length) : leNat bs / 2 ^ (8 * j) % 256 = (bs.getD j 0).toNat := by
  induction bs generalizing j with
  | nil => simp at h
  | cons b r ih =>
    have hb := b.isLt
    cases j with
    | zero => simp [leNat]; omega
    | succ j =>
      have e : 2 ^ (8 * (j + 1)) = 256 * 2 ^ (8 * j) := by rw [show 8 * (j + 1) = 8 * j + 8 by omega, Nat.pow_add]; omega
      rw [e, ← Nat.div_div_eq_div_mul]
      have : leNat (b :: r) / 256 = leNat r := by simp only [leNat]; omega
      rw [this, ih j (by simpa using h)]
      simp

theorem leNat_lt (bs : List Byte) : leNat bs < 2 ^ (8 * bs.length) := by
  induction bs with
  | nil => simp [leNat]
  | cons b r ih =>
    have hb := b.isLt
    simp only [leNat, List.length_cons]
    rw [show 8 * (r.length + 1) = 8 * r.length + 8 by omega, Nat.pow_add]
    omega

theorem lineByte_toNat (l : Line) (j : Nat) : (lineByte l j).toNat = l.toNat / 2 ^ (8 * j) % 256 := by
  simp [lineByte, Nat.shiftRight_eq_div_pow]

/-- Byte j of a line made of 64 bytes. -/
theorem lineByte_lineOf (bs : List Byte) (j : Nat) (h : bs.length = 64) (hj : j < 64) : lineByte (lineOf bs) j = bs.getD j 0 := by
  apply BitVec.eq_of_toNat_eq
  have := leNat_lt bs
  rw [h, show 8 * 64 = 512 from rfl] at this
  rw [lineByte_toNat, lineOf, BitVec.toNat_ofNat, Nat.mod_eq_of_lt this, leNat_byte bs j (by omega)]

theorem getLsbD_lineByte (l : Line) (j i : Nat) (h : i < 8) : (lineByte l j).getLsbD i = l.getLsbD (8 * j + i) := by
  simp [lineByte, h]

theorem lineByte_spread (m : BitVec 64) (j : Nat) (h : j < 64) : lineByte (spread m) j = if m.getLsbD j then 0xFF#8 else 0 := by
  have := lineByte_lineOf ((List.range 64).map (fun j => if m.getLsbD j then 0xFF#8 else 0)) j (by simp) h
  simpa [spread, lineOf, h] using this

/-- Merging takes the masked bytes from the new line. -/
theorem lineByte_mergeBytes (m : BitVec 64) (x y : Line) (j : Nat) (h : j < 64) :
    lineByte (mergeBytes m x y) j = if m.getLsbD j then lineByte x j else lineByte y j := by
  have hs := lineByte_spread m j h
  apply BitVec.eq_of_getLsbD_eq
  intro i hi
  have hb : (spread m).getLsbD (8 * j + i) = m.getLsbD j := by
    rw [← getLsbD_lineByte _ _ _ hi, hs]
    cases m.getLsbD j
    · simp
    · simp only [if_true]; have : i = 0 ∨ i = 1 ∨ i = 2 ∨ i = 3 ∨ i = 4 ∨ i = 5 ∨ i = 6 ∨ i = 7 := by omega
      rcases this with rfl | rfl | rfl | rfl | rfl | rfl | rfl | rfl <;> rfl
  have hlt : 8 * j + i < 512 := by omega
  rw [getLsbD_lineByte _ _ _ hi, mergeBytes]
  simp only [BitVec.getLsbD_or, BitVec.getLsbD_and, BitVec.getLsbD_not, hb, hlt, decide_true, Bool.true_and]
  cases m.getLsbD j
  · simp only [Bool.and_false, Bool.not_false, Bool.and_true, Bool.false_or, Bool.false_eq_true, if_false]
    exact (getLsbD_lineByte y j i hi).symm
  · simp only [Bool.and_true, Bool.not_true, Bool.and_false, Bool.or_false, if_true]
    exact (getLsbD_lineByte x j i hi).symm

/-! ### Reading after writing -/

@[simp] theorem Table.get_drop_same {α : Type} (t : Table α) (k : Nat) (d : α) : Table.get (Table.drop t k) k d = d := by
  induction t with
  | nil => rfl
  | cons e r ih =>
    obtain ⟨k', v⟩ := e
    by_cases h : k' = k
    · subst h; simpa [Table.drop] using ih
    · simpa [Table.drop, Table.get, h] using ih

@[simp] theorem Table.get_drop_other {α : Type} (t : Table α) {k j : Nat} (d : α) (h : j ≠ k) :
    Table.get (Table.drop t k) j d = Table.get t j d := by
  induction t with
  | nil => rfl
  | cons e r ih =>
    obtain ⟨k', v⟩ := e
    by_cases h1 : k' = k
    · subst h1; simpa [Table.drop, Table.get, Ne.symm h] using ih
    · by_cases h2 : k' = j
      · simp [Table.drop, Table.get, h2, h]
      · simpa [Table.drop, Table.get, h1, h2] using ih

/-- Reading through a choice of keys: a key that is chosen reads as before. -/
theorem Table.get_filter {α : Type} (t : Table α) (f : Nat → Bool) (k : Nat) (d : α) :
    Table.get (t.filter (fun e => f e.1)) k d = if f k then Table.get t k d else d := by
  induction t with
  | nil => simp
  | cons e r ih =>
    obtain ⟨k', v⟩ := e
    by_cases h : f k' = true
    · rw [List.filter_cons_of_pos (p := fun (e : Nat × α) => f e.1) (a := (k', v)) h]
      by_cases h2 : k' = k
      · subst h2; simp [Table.get, h]
      · have h3 : (k' == k) = false := by simpa using h2
        simp only [Table.get, h3, Bool.false_eq_true, if_false]; exact ih
    · rw [List.filter_cons_of_neg (p := fun (e : Nat × α) => f e.1) (a := (k', v)) h, ih]
      by_cases h2 : k' = k
      · subst h2; simp [h]
      · simp [Table.get, h2]

theorem Table.get_append {α : Type} (t u : Table α) (k : Nat) (d : α) :
    Table.get (t ++ u) k d = if Table.has t k then Table.get t k d else Table.get u k d := by
  induction t with
  | nil => simp [Table.has]
  | cons e r ih =>
    obtain ⟨k', v⟩ := e
    by_cases h : k' = k <;> simp [Table.get, Table.has, h, ih]

theorem Table.has_filter {α : Type} (t : Table α) (f : Nat → Bool) (k : Nat) :
    Table.has (t.filter (fun e => f e.1)) k = (f k && Table.has t k) := by
  induction t with
  | nil => simp [Table.has]
  | cons e r ih =>
    obtain ⟨k', v⟩ := e
    by_cases h : f k' = true
    · rw [List.filter_cons_of_pos (p := fun (e : Nat × α) => f e.1) (a := (k', v)) h]
      by_cases h2 : k' = k
      · subst h2; simp [Table.has, h]
      · have h3 : (k' == k) = false := by simpa using h2
        simp only [Table.has, h3, Bool.false_or]; exact ih
    · rw [List.filter_cons_of_neg (p := fun (e : Nat × α) => f e.1) (a := (k', v)) h, ih]
      by_cases h2 : k' = k
      · subst h2; simp [h]
      · have h3 : (k' == k) = false := by simpa using h2
        simp [Table.has, h3]

theorem Table.get_of_not_has {α : Type} (t : Table α) (k : Nat) (d : α) (h : Table.has t k = false) : Table.get t k d = d := by
  induction t with
  | nil => rfl
  | cons e r ih =>
    obtain ⟨k', v⟩ := e
    simp only [Table.has, Bool.or_eq_false_iff] at h
    simp [Table.get, h.1, ih h.2]

@[simp] theorem Memory.pen_setPen (m : Memory) (l j : Nat) (p : Pen) : (m.setPen l p).pen j = if j = l then p else m.pen j := by
  unfold Memory.setPen Memory.pen
  by_cases h : j = l
  · subst h
    split
    · rename_i hp; simp at hp; simp [hp]
    · simp
  · split <;> simp [h]

@[simp] theorem Memory.byte_setPen (m : Memory) (l a : Nat) (p : Pen) : (m.setPen l p).byte a = m.byte a := rfl
@[simp] theorem Memory.pen_setByte (m : Memory) (a l : Nat) (b : Byte) : (m.setByte a b).pen l = m.pen l := rfl
@[simp] theorem Memory.pen_setLine (m : Memory) (l j : Nat) (d : Line) : (m.setLine l d).pen j = m.pen j := rfl

@[simp] theorem Memory.byte_setByte (m : Memory) (a x : Nat) (b : Byte) : (m.setByte a b).byte x = if x = a then b else m.byte x := by
  unfold Memory.setByte Memory.byte
  by_cases h : x = a
  · subst h
    split
    · rename_i hb; simp at hb; simp [hb]
    · simp
  · split <;> simp [h]

theorem get_lineCells (l : Nat) (d : Line) (a : Nat) (h : a / 64 = l) :
    Table.get (lineCells l d) a 0 = lineByte d (a % 64) := by
  have key : ∀ n, n ≤ 64 → Table.get (((List.range' n (64 - n)).map (fun j => (64 * l + j, lineByte d j))).filter (fun c => c.2 != 0)) a 0 =
      if n ≤ a % 64 then lineByte d (a % 64) else 0 := by
    intro n hn
    induction hk : 64 - n generalizing n with
    | zero => simp; omega
    | succ k ih =>
      rw [List.range'_succ, List.map_cons]
      have ih := ih (n + 1) (by omega) (by omega)
      by_cases ha : a % 64 = n
      · have hal : 64 * l + n = a := by omega
        by_cases hz : lineByte d n = 0
        · rw [List.filter_cons_of_neg (by simp [hz])]
          rw [ih]; simp [ha, hz]
        · rw [List.filter_cons_of_pos (by simpa using hz)]
          simp [Table.get, hal, ha]
      · have hal : ¬ 64 * l + n = a := by omega
        by_cases hz : lineByte d n = 0
        · rw [List.filter_cons_of_neg (by simp [hz])]
          rw [ih]; congr 1; simp; omega
        · rw [List.filter_cons_of_pos (by simpa using hz)]
          simp only [Table.get, beq_iff_eq, hal, if_false]
          rw [ih]; congr 1; simp; omega
  have := key 0 (by omega)
  simpa [lineCells, List.range_eq_range'] using this

theorem has_lineCells (l : Nat) (d : Line) (a : Nat) (h : a / 64 ≠ l) : Table.has (lineCells l d) a = false := by
  have : ∀ t : Table Byte, (∀ c ∈ t, c.1 ≠ a) → Table.has t a = false := by
    intro t
    induction t with
    | nil => intro _; rfl
    | cons e r ih =>
      intro hc
      simp only [Table.has, Bool.or_eq_false_iff, beq_eq_false_iff_ne, ne_eq]
      exact ⟨hc e (by simp), ih (fun c hx => hc c (by simp [hx]))⟩
  exact this _ (fun c hc => by have := (mem_lineCells hc).1; intro e; rw [e] at this; exact h this)

/-- A line written reads back, and every other byte as before. -/
theorem Memory.byte_setLine (m : Memory) (l : Nat) (d : Line) (a : Nat) :
    (m.setLine l d).byte a = if a / 64 = l then lineByte d (a % 64) else m.byte a := by
  unfold Memory.setLine Memory.byte
  simp only [Table.get_append, Table.has_filter m.cells (fun k => decide (k / 64 < l)),
    Table.get_filter m.cells (fun k => decide (k / 64 < l)), Table.get_filter m.cells (fun k => decide (l < k / 64))]
  by_cases h : a / 64 = l
  · subst h
    simp only [Nat.lt_irrefl, decide_false, Bool.false_and, Bool.false_eq_true, if_false, if_true]
    rw [get_lineCells _ _ _ rfl]
    split
    · rfl
    · rename_i hn
      have := Table.get_of_not_has _ a (0 : Byte) (by simpa using hn)
      rw [get_lineCells _ _ _ rfl] at this
      exact this.symm
  · simp only [h, if_false, has_lineCells l d a h]
    by_cases h1 : a / 64 < l
    · simp only [h1, decide_true, Bool.true_and]
      split
      · rfl
      · rename_i hn
        simp only [Bool.false_eq_true, if_false]
        rw [if_neg (by simp; omega)]
        exact (Table.get_of_not_has _ a 0 (by simpa using hn)).symm
    · have h2 : l < a / 64 := by omega
      simp [h1, h2]

@[simp] theorem Memory.pen_putLine (m : Memory) (l j : Nat) (p : Pen) (d : Line) :
    (m.putLine l p d).pen j = if j = l then p else m.pen j := by simp [Memory.putLine]

@[simp] theorem Memory.byte_putLine (m : Memory) (l a : Nat) (p : Pen) (d : Line) :
    (m.putLine l p d).byte a = if a / 64 = l then lineByte d (a % 64) else m.byte a := by
  simp [Memory.putLine, Memory.byte_setLine]

/-- Byte j of the raw bytes of a line. -/
theorem Memory.lineByte_raw (m : Memory) (l j : Nat) (h : j < 64) : lineByte (m.raw l) j = m.byte (64 * l + j) := by
  unfold Memory.raw
  rw [lineByte_lineOf _ _ (by simp) h]
  have e : (64 * l + j) / 64 = l := by omega
  simp only [List.getD_eq_getElem?_getD, List.getElem?_map, List.getElem?_range h, Option.map_some, Option.getD_some,
    Memory.byte, Table.get_filter m.cells (fun k => k / 64 == l), e, beq_self_eq_true, if_true]

/-- A write of masked bytes by p, read by p: the bytes written, and of the rest of the line what p read before (R92). -/
theorem Memory.readByte_write (m : Memory) (p : Pen) (l : Nat) (k : BitVec 64) (d : Line) (a : Nat) :
    (m.write p l k d).readByte p a =
      if a / 64 = l ∧ k.getLsbD (a % 64) = true then lineByte d (a % 64) else m.readByte p a := by
  have hj : a % 64 < 64 := Nat.mod_lt _ (by omega)
  unfold Memory.write Memory.readByte
  by_cases hp : m.pen l = p
  · simp only [hp, beq_self_eq_true, if_true, Memory.pen_setLine, Memory.byte_setLine, lineByte_mergeBytes _ _ _ _ hj,
      Memory.lineByte_raw _ _ _ hj]
    by_cases h : a / 64 = l
    · subst h
      have e : 64 * (a / 64) + a % 64 = a := by omega
      simp only [hp, beq_self_eq_true, if_true, e, true_and]
    · simp [h]
  · have hq : (m.pen l == p) = false := by simpa using hp
    simp only [hq, Bool.false_eq_true, if_false, Memory.pen_putLine, Memory.byte_putLine, lineByte_mergeBytes _ _ _ _ hj]
    by_cases h : a / 64 = l
    · subst h
      have hz : lineByte 0 (a % 64) = 0 := by simp [lineByte]
      simp only [if_true, beq_self_eq_true, true_and, hq, hz, Bool.false_eq_true, if_false]
    · simp [h]

/-- A write leaves every other line as any reader reads it. -/
theorem Memory.readByte_write_other (m : Memory) (p q : Pen) (l : Nat) (k : BitVec 64) (d : Line) (a : Nat) (h : a / 64 ≠ l) :
    (m.write p l k d).readByte q a = m.readByte q a := by
  unfold Memory.write Memory.readByte
  split <;> simp only [Memory.pen_setLine, Memory.byte_setLine, Memory.pen_putLine, Memory.byte_putLine, h, if_false]

end Sys2Proof.Machine
end

