-- ==== Sys2Proof/Laws/State.lean ====
section
/-! SUPPORT. What an update of one table of State leaves alone, field by field, and what reading that table gives after. -/

namespace Sys2Proof.Machine

set_option Elab.async false

/-! ### setCtx -/

@[simp] theorem State.setCtx_cycle (s : State) (k : Nat) (c : Ctx) : (s.setCtx k c).cycle = s.cycle := rfl
@[simp] theorem State.setCtx_focus (s : State) (k : Nat) (c : Ctx) : (s.setCtx k c).focus = s.focus := rfl
@[simp] theorem State.setCtx_agenda (s : State) (k : Nat) (c : Ctx) : (s.setCtx k c).agenda = s.agenda := rfl
@[simp] theorem State.setCtx_fresh (s : State) (k : Nat) (c : Ctx) : (s.setCtx k c).fresh = s.fresh := rfl
@[simp] theorem State.setCtx_mem (s : State) (k : Nat) (c : Ctx) : (s.setCtx k c).mem = s.mem := rfl
@[simp] theorem State.setCtx_poison (s : State) (k : Nat) (c : Ctx) : (s.setCtx k c).poison = s.poison := rfl
@[simp] theorem State.setCtx_errors (s : State) (k : Nat) (c : Ctx) : (s.setCtx k c).errors = s.errors := rfl
@[simp] theorem State.setCtx_len (s : State) (k : Nat) (c : Ctx) : (s.setCtx k c).len = s.len := rfl
@[simp] theorem State.setCtx_cores (s : State) (k : Nat) (c : Ctx) : (s.setCtx k c).cores = s.cores := rfl
@[simp] theorem State.setCtx_dies (s : State) (k : Nat) (c : Ctx) : (s.setCtx k c).dies = s.dies := rfl
@[simp] theorem State.setCtx_pkgs (s : State) (k : Nat) (c : Ctx) : (s.setCtx k c).pkgs = s.pkgs := rfl
@[simp] theorem State.setCtx_groups (s : State) (k : Nat) (c : Ctx) : (s.setCtx k c).groups = s.groups := rfl
@[simp] theorem State.setCtx_descriptors (s : State) (k : Nat) (c : Ctx) : (s.setCtx k c).descriptors = s.descriptors := rfl
@[simp] theorem State.setCtx_deliveries (s : State) (k : Nat) (c : Ctx) : (s.setCtx k c).deliveries = s.deliveries := rfl
@[simp] theorem State.setCtx_packets (s : State) (k : Nat) (c : Ctx) : (s.setCtx k c).packets = s.packets := rfl
@[simp] theorem State.setCtx_reductions (s : State) (k : Nat) (c : Ctx) : (s.setCtx k c).reductions = s.reductions := rfl

/-! ### setCore -/

@[simp] theorem State.setCore_cycle (s : State) (k : Nat) (c : Core) : (s.setCore k c).cycle = s.cycle := rfl
@[simp] theorem State.setCore_focus (s : State) (k : Nat) (c : Core) : (s.setCore k c).focus = s.focus := rfl
@[simp] theorem State.setCore_agenda (s : State) (k : Nat) (c : Core) : (s.setCore k c).agenda = s.agenda := rfl
@[simp] theorem State.setCore_fresh (s : State) (k : Nat) (c : Core) : (s.setCore k c).fresh = s.fresh := rfl
@[simp] theorem State.setCore_mem (s : State) (k : Nat) (c : Core) : (s.setCore k c).mem = s.mem := rfl
@[simp] theorem State.setCore_poison (s : State) (k : Nat) (c : Core) : (s.setCore k c).poison = s.poison := rfl
@[simp] theorem State.setCore_errors (s : State) (k : Nat) (c : Core) : (s.setCore k c).errors = s.errors := rfl
@[simp] theorem State.setCore_len (s : State) (k : Nat) (c : Core) : (s.setCore k c).len = s.len := rfl
@[simp] theorem State.setCore_ctxs (s : State) (k : Nat) (c : Core) : (s.setCore k c).ctxs = s.ctxs := rfl
@[simp] theorem State.setCore_dies (s : State) (k : Nat) (c : Core) : (s.setCore k c).dies = s.dies := rfl
@[simp] theorem State.setCore_pkgs (s : State) (k : Nat) (c : Core) : (s.setCore k c).pkgs = s.pkgs := rfl
@[simp] theorem State.setCore_groups (s : State) (k : Nat) (c : Core) : (s.setCore k c).groups = s.groups := rfl
@[simp] theorem State.setCore_descriptors (s : State) (k : Nat) (c : Core) : (s.setCore k c).descriptors = s.descriptors := rfl
@[simp] theorem State.setCore_deliveries (s : State) (k : Nat) (c : Core) : (s.setCore k c).deliveries = s.deliveries := rfl
@[simp] theorem State.setCore_packets (s : State) (k : Nat) (c : Core) : (s.setCore k c).packets = s.packets := rfl
@[simp] theorem State.setCore_reductions (s : State) (k : Nat) (c : Core) : (s.setCore k c).reductions = s.reductions := rfl

/-! ### setDie -/

@[simp] theorem State.setDie_cycle (s : State) (k : Nat) (c : Die) : (s.setDie k c).cycle = s.cycle := rfl
@[simp] theorem State.setDie_focus (s : State) (k : Nat) (c : Die) : (s.setDie k c).focus = s.focus := rfl
@[simp] theorem State.setDie_agenda (s : State) (k : Nat) (c : Die) : (s.setDie k c).agenda = s.agenda := rfl
@[simp] theorem State.setDie_fresh (s : State) (k : Nat) (c : Die) : (s.setDie k c).fresh = s.fresh := rfl
@[simp] theorem State.setDie_mem (s : State) (k : Nat) (c : Die) : (s.setDie k c).mem = s.mem := rfl
@[simp] theorem State.setDie_poison (s : State) (k : Nat) (c : Die) : (s.setDie k c).poison = s.poison := rfl
@[simp] theorem State.setDie_errors (s : State) (k : Nat) (c : Die) : (s.setDie k c).errors = s.errors := rfl
@[simp] theorem State.setDie_len (s : State) (k : Nat) (c : Die) : (s.setDie k c).len = s.len := rfl
@[simp] theorem State.setDie_ctxs (s : State) (k : Nat) (c : Die) : (s.setDie k c).ctxs = s.ctxs := rfl
@[simp] theorem State.setDie_cores (s : State) (k : Nat) (c : Die) : (s.setDie k c).cores = s.cores := rfl
@[simp] theorem State.setDie_pkgs (s : State) (k : Nat) (c : Die) : (s.setDie k c).pkgs = s.pkgs := rfl
@[simp] theorem State.setDie_groups (s : State) (k : Nat) (c : Die) : (s.setDie k c).groups = s.groups := rfl
@[simp] theorem State.setDie_descriptors (s : State) (k : Nat) (c : Die) : (s.setDie k c).descriptors = s.descriptors := rfl
@[simp] theorem State.setDie_deliveries (s : State) (k : Nat) (c : Die) : (s.setDie k c).deliveries = s.deliveries := rfl
@[simp] theorem State.setDie_packets (s : State) (k : Nat) (c : Die) : (s.setDie k c).packets = s.packets := rfl
@[simp] theorem State.setDie_reductions (s : State) (k : Nat) (c : Die) : (s.setDie k c).reductions = s.reductions := rfl

/-! ### setPkg -/

@[simp] theorem State.setPkg_cycle (s : State) (k : Nat) (c : Pkg) : (s.setPkg k c).cycle = s.cycle := rfl
@[simp] theorem State.setPkg_focus (s : State) (k : Nat) (c : Pkg) : (s.setPkg k c).focus = s.focus := rfl
@[simp] theorem State.setPkg_agenda (s : State) (k : Nat) (c : Pkg) : (s.setPkg k c).agenda = s.agenda := rfl
@[simp] theorem State.setPkg_fresh (s : State) (k : Nat) (c : Pkg) : (s.setPkg k c).fresh = s.fresh := rfl
@[simp] theorem State.setPkg_mem (s : State) (k : Nat) (c : Pkg) : (s.setPkg k c).mem = s.mem := rfl
@[simp] theorem State.setPkg_poison (s : State) (k : Nat) (c : Pkg) : (s.setPkg k c).poison = s.poison := rfl
@[simp] theorem State.setPkg_errors (s : State) (k : Nat) (c : Pkg) : (s.setPkg k c).errors = s.errors := rfl
@[simp] theorem State.setPkg_len (s : State) (k : Nat) (c : Pkg) : (s.setPkg k c).len = s.len := rfl
@[simp] theorem State.setPkg_ctxs (s : State) (k : Nat) (c : Pkg) : (s.setPkg k c).ctxs = s.ctxs := rfl
@[simp] theorem State.setPkg_cores (s : State) (k : Nat) (c : Pkg) : (s.setPkg k c).cores = s.cores := rfl
@[simp] theorem State.setPkg_dies (s : State) (k : Nat) (c : Pkg) : (s.setPkg k c).dies = s.dies := rfl
@[simp] theorem State.setPkg_groups (s : State) (k : Nat) (c : Pkg) : (s.setPkg k c).groups = s.groups := rfl
@[simp] theorem State.setPkg_descriptors (s : State) (k : Nat) (c : Pkg) : (s.setPkg k c).descriptors = s.descriptors := rfl
@[simp] theorem State.setPkg_deliveries (s : State) (k : Nat) (c : Pkg) : (s.setPkg k c).deliveries = s.deliveries := rfl
@[simp] theorem State.setPkg_packets (s : State) (k : Nat) (c : Pkg) : (s.setPkg k c).packets = s.packets := rfl
@[simp] theorem State.setPkg_reductions (s : State) (k : Nat) (c : Pkg) : (s.setPkg k c).reductions = s.reductions := rfl

/-! ### Reading the tables -/

theorem State.ctx_congr {s t : State} (h : s.ctxs = t.ctxs) : s.ctx = t.ctx := by simp [State.ctx, h, funext_iff]
theorem State.core_congr {s t : State} (h : s.cores = t.cores) : s.core = t.core := by simp [State.core, h, funext_iff]
theorem State.die_congr {s t : State} (h : s.dies = t.dies) : s.die = t.die := by simp [State.die, h, funext_iff]
theorem State.pkg_congr {s t : State} (h : s.pkgs = t.pkgs) : s.pkg = t.pkg := by simp [State.pkg, h, funext_iff]

@[simp] theorem State.ctx_setCtx (s : State) (k : Nat) (c : Ctx) : (s.setCtx k c).ctx k = c := by simp [State.ctx, State.setCtx]
@[simp] theorem State.ctx_setCtx_other (s : State) {k j : Nat} (c : Ctx) (h : j ≠ k) : (s.setCtx k c).ctx j = s.ctx j := by
  simp [State.ctx, State.setCtx, h]
@[simp] theorem State.ctx_setCore (s : State) (k : Nat) (c : Core) : (s.setCore k c).ctx = s.ctx := rfl
@[simp] theorem State.ctx_setDie (s : State) (k : Nat) (c : Die) : (s.setDie k c).ctx = s.ctx := rfl
@[simp] theorem State.ctx_setPkg (s : State) (k : Nat) (c : Pkg) : (s.setPkg k c).ctx = s.ctx := rfl
@[simp] theorem State.core_setCore (s : State) (k : Nat) (c : Core) : (s.setCore k c).core k = c := by simp [State.core, State.setCore]
@[simp] theorem State.core_setCore_other (s : State) {k j : Nat} (c : Core) (h : j ≠ k) : (s.setCore k c).core j = s.core j := by
  simp [State.core, State.setCore, h]
@[simp] theorem State.core_setCtx (s : State) (k : Nat) (c : Ctx) : (s.setCtx k c).core = s.core := rfl
@[simp] theorem State.core_setDie (s : State) (k : Nat) (c : Die) : (s.setDie k c).core = s.core := rfl
@[simp] theorem State.core_setPkg (s : State) (k : Nat) (c : Pkg) : (s.setPkg k c).core = s.core := rfl
@[simp] theorem State.die_setDie (s : State) (k : Nat) (c : Die) : (s.setDie k c).die k = c := by simp [State.die, State.setDie]
@[simp] theorem State.die_setDie_other (s : State) {k j : Nat} (c : Die) (h : j ≠ k) : (s.setDie k c).die j = s.die j := by
  simp [State.die, State.setDie, h]
@[simp] theorem State.die_setCtx (s : State) (k : Nat) (c : Ctx) : (s.setCtx k c).die = s.die := rfl
@[simp] theorem State.die_setCore (s : State) (k : Nat) (c : Core) : (s.setCore k c).die = s.die := rfl
@[simp] theorem State.die_setPkg (s : State) (k : Nat) (c : Pkg) : (s.setPkg k c).die = s.die := rfl
@[simp] theorem State.pkg_setPkg (s : State) (k : Nat) (c : Pkg) : (s.setPkg k c).pkg k = c := by simp [State.pkg, State.setPkg]
@[simp] theorem State.pkg_setPkg_other (s : State) {k j : Nat} (c : Pkg) (h : j ≠ k) : (s.setPkg k c).pkg j = s.pkg j := by
  simp [State.pkg, State.setPkg, h]
@[simp] theorem State.pkg_setCtx (s : State) (k : Nat) (c : Ctx) : (s.setCtx k c).pkg = s.pkg := rfl
@[simp] theorem State.pkg_setCore (s : State) (k : Nat) (c : Core) : (s.setCore k c).pkg = s.pkg := rfl
@[simp] theorem State.pkg_setDie (s : State) (k : Nat) (c : Die) : (s.setDie k c).pkg = s.pkg := rfl

/-! ### Updates of one entry -/

@[simp] theorem State.modCtx_eq (s : State) (k : Nat) (f : Ctx → Ctx) : s.modCtx k f = s.setCtx k (f (s.ctx k)) := rfl
@[simp] theorem State.modCore_eq (s : State) (k : Nat) (f : Core → Core) : s.modCore k f = s.setCore k (f (s.core k)) := rfl
@[simp] theorem State.modDie_eq (s : State) (k : Nat) (f : Die → Die) : s.modDie k f = s.setDie k (f (s.die k)) := rfl
@[simp] theorem State.modPkg_eq (s : State) (k : Nat) (f : Pkg → Pkg) : s.modPkg k f = s.setPkg k (f (s.pkg k)) := rfl
@[simp] theorem State.modCur_eq (s : State) (f : Ctx → Ctx) : s.modCur f = s.setCur (f s.cur) := rfl
theorem State.setCur_eq (s : State) (c : Ctx) : s.setCur c = s.setCtx s.focus.key c := rfl

/-! ### The issuing context -/

@[simp] theorem State.setCur_cycle (s : State) (c : Ctx) : (s.setCur c).cycle = s.cycle := rfl
@[simp] theorem State.setCur_focus (s : State) (c : Ctx) : (s.setCur c).focus = s.focus := rfl
@[simp] theorem State.setCur_agenda (s : State) (c : Ctx) : (s.setCur c).agenda = s.agenda := rfl
@[simp] theorem State.setCur_fresh (s : State) (c : Ctx) : (s.setCur c).fresh = s.fresh := rfl
@[simp] theorem State.setCur_mem (s : State) (c : Ctx) : (s.setCur c).mem = s.mem := rfl
@[simp] theorem State.setCur_poison (s : State) (c : Ctx) : (s.setCur c).poison = s.poison := rfl
@[simp] theorem State.setCur_errors (s : State) (c : Ctx) : (s.setCur c).errors = s.errors := rfl
@[simp] theorem State.setCur_len (s : State) (c : Ctx) : (s.setCur c).len = s.len := rfl
@[simp] theorem State.setCur_cores (s : State) (c : Ctx) : (s.setCur c).cores = s.cores := rfl
@[simp] theorem State.setCur_dies (s : State) (c : Ctx) : (s.setCur c).dies = s.dies := rfl
@[simp] theorem State.setCur_pkgs (s : State) (c : Ctx) : (s.setCur c).pkgs = s.pkgs := rfl
@[simp] theorem State.setCur_groups (s : State) (c : Ctx) : (s.setCur c).groups = s.groups := rfl
@[simp] theorem State.setCur_descriptors (s : State) (c : Ctx) : (s.setCur c).descriptors = s.descriptors := rfl
@[simp] theorem State.setCur_deliveries (s : State) (c : Ctx) : (s.setCur c).deliveries = s.deliveries := rfl
@[simp] theorem State.setCur_packets (s : State) (c : Ctx) : (s.setCur c).packets = s.packets := rfl
@[simp] theorem State.setCur_reductions (s : State) (c : Ctx) : (s.setCur c).reductions = s.reductions := rfl
@[simp] theorem State.setCur_pkg (s : State) (c : Ctx) : (s.setCur c).pkg = s.pkg := rfl
@[simp] theorem State.setCur_die (s : State) (c : Ctx) : (s.setCur c).die = s.die := rfl
@[simp] theorem State.setCur_core (s : State) (c : Ctx) : (s.setCur c).core = s.core := rfl
@[simp] theorem State.cur_setCur (s : State) (c : Ctx) : (s.setCur c).cur = c := by simp [State.cur, State.setCur_eq]
@[simp] theorem State.ctx_setCur_other (s : State) {k : Nat} (c : Ctx) (h : k ≠ s.focus.key) : (s.setCur c).ctx k = s.ctx k := by
  simp [State.setCur_eq, h]
@[simp] theorem State.setCur_setCur (s : State) (c d : Ctx) : (s.setCur c).setCur d = s.setCur d := by
  simp [State.setCur, State.setCtx, Table.put_put]
/-- A domain in which nothing but the issuing context has changed. -/
theorem State.setCur_same (s : State) (c : Ctx) : s.setCur c = { s with ctxs := (s.setCur c).ctxs } := rfl

/-! ### Updates of a context: what they leave alone -/

theorem Ctx.writeS_same (c : Ctx) (p : Pen) (r : Reg) (v : Dword) : c.writeS p r v = { c with s := (c.writeS p r v).s } := by
  unfold Ctx.writeS; split <;> rfl
theorem Ctx.writeA_same (c : Ctx) (p : Pen) (r : Reg) (v : Dword) : c.writeA p r v = { c with a := (c.writeA p r v).a } := by
  unfold Ctx.writeA; split <;> rfl

end Sys2Proof.Machine
end

