-- ==== Sys2Proof/Laws/Kept.lean ====
section
/-! SUPPORT. The shared operations keep every memory of the domain in canonical form: writes, records, pushes, commits,
releases, groups, drains, ends, traps and the issue of a V word. -/

namespace Sys2Proof.Machine

set_option Elab.async false

/-! ### The form, and the updates of one entry -/

theorem State.memOk_iff (s : State) : s.memOk = true ↔
    s.mem.wf = true ∧ (∀ e ∈ s.cores, e.2.memOk = true) ∧ ∀ e ∈ s.ctxs, e.2.savedSpad.wf = true := by
  simp [State.memOk, and_assoc]

/-- A domain with the same memories is as good. -/
theorem State.memOk_of_same {s t : State} (h : s.memOk = true) (h1 : t.mem = s.mem := by rfl)
    (h2 : t.cores = s.cores := by rfl) (h3 : t.ctxs = s.ctxs := by rfl) : t.memOk = true := by
  simpa only [State.memOk, h1, h2, h3] using h

theorem Table.get_mem {α : Type} (t : Table α) (k : Nat) (d : α) : Table.get t k d = d ∨ ∃ e ∈ t, e.2 = Table.get t k d := by
  induction t with
  | nil => exact .inl rfl
  | cons e r ih =>
    obtain ⟨j, v⟩ := e
    by_cases hj : j = k
    · exact .inr ⟨(j, v), by simp, by simp [Table.get, hj]⟩
    · have hg : Table.get ((j, v) :: r) k d = Table.get r k d := by simp [Table.get, hj]
      rw [hg]
      exact ih.imp id fun ⟨e, he, h⟩ => ⟨e, List.mem_cons_of_mem _ he, h⟩

theorem State.ctx_spad {s : State} (h : s.memOk = true) (k : Nat) : (s.ctx k).savedSpad.wf = true := by
  obtain ⟨-, -, hx⟩ := s.memOk_iff.1 h
  rcases Table.get_mem s.ctxs k .empty with h | ⟨e, he, h⟩
  · rw [State.ctx, h]; rfl
  · rw [State.ctx, ← h]; exact hx e he

theorem State.core_memOk {s : State} (h : s.memOk = true) (k : Nat) : (s.core k).memOk = true := by
  obtain ⟨-, hc, -⟩ := s.memOk_iff.1 h
  rcases Table.get_mem s.cores k .reset with h | ⟨e, he, h⟩
  · rw [State.core, h]; rfl
  · rw [State.core, ← h]; exact hc e he

theorem State.memOk_setCtx {s : State} (k : Nat) {c : Ctx} (h : s.memOk = true) (hc : c.savedSpad.wf = true) :
    (s.setCtx k c).memOk = true := by
  obtain ⟨hm, hk, hx⟩ := s.memOk_iff.1 h
  refine (State.memOk_iff _).2 ⟨hm, hk, fun e he => ?_⟩
  rcases Table.mem_put he with rfl | he
  · exact hc
  · exact hx e he

/-- A change of a context that leaves its saved scratchpad alone. -/
theorem State.memOk_modCtx {s : State} (k : Nat) {f : Ctx → Ctx} (h : s.memOk = true)
    (hf : ∀ c, (f c).savedSpad = c.savedSpad := by intro; rfl) : (s.modCtx k f).memOk = true :=
  State.memOk_setCtx k h (by rw [hf]; exact State.ctx_spad h k)

theorem State.memOk_setCore {s : State} (k : Nat) {c : Core} (h : s.memOk = true) (hc : c.memOk = true) :
    (s.setCore k c).memOk = true := by
  obtain ⟨hm, hk, hx⟩ := s.memOk_iff.1 h
  refine (State.memOk_iff _).2 ⟨hm, fun e he => ?_, hx⟩
  rcases Table.mem_put he with rfl | he
  · exact hc
  · exact hk e he

/-- A change of a core that leaves its memories in form. -/
theorem State.memOk_modCore {s : State} (k : Nat) {f : Core → Core} (h : s.memOk = true)
    (hf : ∀ c, c.memOk = true → (f c).memOk = true := by intro _ h; exact h) : (s.modCore k f).memOk = true :=
  State.memOk_setCore k h (hf _ (State.core_memOk h k))

theorem State.memOk_mem {s : State} {m : Memory} (h : s.memOk = true) (hm : m.wf = true) :
    ({ s with mem := m } : State).memOk = true := by
  obtain ⟨-, hk, hx⟩ := s.memOk_iff.1 h
  exact (State.memOk_iff _).2 ⟨hm, hk, hx⟩

theorem State.mem_wf {s : State} (h : s.memOk = true) : s.mem.wf = true := (s.memOk_iff.1 h).1

/-- A change of every context that leaves their saved scratchpads alone. -/
theorem State.memOk_mapIf {s : State} {c : Nat → Ctx → Bool} {f : Ctx → Ctx} (h : s.memOk = true)
    (hf : ∀ c, (f c).savedSpad = c.savedSpad := by intro; rfl) :
    ({ s with ctxs := Table.mapIf s.ctxs c f } : State).memOk = true := by
  obtain ⟨hm, hk, hx⟩ := s.memOk_iff.1 h
  refine (State.memOk_iff _).2 ⟨hm, hk, fun e he => ?_⟩
  obtain ⟨x, hx', rfl⟩ := List.mem_map.1 he
  dsimp only
  split
  · rw [hf]; exact hx x hx'
  · exact hx x hx'

/-- A fold of an operation that leaves a part of its argument alone. -/
theorem foldl_same {α β γ : Type} (g : β → γ) {f : β → α → β} (hf : ∀ b a, g (f b a) = g b) (l : List α) (b : β) :
    g (l.foldl f b) = g b := by
  induction l generalizing b with
  | nil => rfl
  | cons a r ih => rw [List.foldl_cons, ih, hf]

/-- A fold of an operation that keeps the form. -/
theorem memOk_foldl {α : Type} {f : State → α → State} (hf : ∀ s a, s.memOk = true → (f s a).memOk = true) (l : List α)
    {s : State} (h : s.memOk = true) : (l.foldl f s).memOk = true := by
  induction l generalizing s with
  | nil => exact h
  | cons a r ih => exact ih (hf _ _ h)

theorem apply_ite_memOk {p : Prop} [Decidable p] {s t : State} (hs : s.memOk = true) (ht : t.memOk = true) :
    (if p then s else t).memOk = true := by split <;> assumption

theorem State.count_memOk {s : State} (d : Nat) (f : Counters → Counters) (h : s.memOk = true) : (s.count d f).memOk = true :=
  State.memOk_of_same h

/-! ### Writes (R92, R112, R114, R115) -/

theorem setLen_memOk {s : State} (l : Nat) (v : BitVec 6) (h : s.memOk = true) : (s.setLen l v).memOk = true :=
  State.memOk_of_same h

theorem State.sound_memOk {s : State} (l n : Nat) (h : s.memOk = true) : (s.sound l n).memOk = true := State.memOk_of_same h

theorem writeLine_memOk {s t : State} {a : Accessor} {w : Where} {m : BitVec 64} {x : Line} (h : s.memOk = true)
    (e : writeLine s a w m x = .ok t) : t.memOk = true := by
  simp only [writeLine] at e
  have hm := State.mem_wf h
  generalize hs : (if m == maskAll then s.sound (w.gpa / 64) 1 else s) = u at e
  have hu : u.memOk = true := hs ▸ apply_ite_memOk (State.sound_memOk _ _ h) h
  have hum := State.mem_wf hu
  split at e
  · cases e; exact State.memOk_mem hu (Memory.wf_write _ _ _ _ hum)
  · split at e
    · have h2 := setLen_memOk (w.gpa / 64) 0 hu
      split at e
      · cases e; exact State.memOk_mem h2 (Memory.wf_putLine _ _ _ (State.mem_wf h2))
      · cases e; exact State.memOk_mem h2 (Memory.wf_write _ _ _ _ (State.mem_wf h2))
    · split at e
      · cases e
      · have h3 := fun ls => wf_putLines a.pen (w.gpa / 64 / 64 * 64) ls hum
        have h4 := State.sound_memOk (w.gpa / 64 / 64 * 64) 64 hu
        split at e
        · cases e; exact State.memOk_mem h4 (Memory.wf_pokeBytes _ _ (h3 _))
        · cases e; exact setLen_memOk _ _ (State.memOk_mem h4 (h3 _))

theorem accWrite_memOk {s t : State} {a : Accessor} {n : Need} {va : Nat} {m : BitVec 64} {x : Line} (h : s.memOk = true)
    (e : accWrite s a n va m x = .ok t) : t.memOk = true := by
  simp only [accWrite] at e
  split at e
  · cases e
  · exact writeLine_memOk h e

theorem homeWrite_memOk {s t : State} {a : Accessor} {n : Need} {va : Nat} {m : BitVec 64} {x : Line} (h : s.memOk = true)
    (e : homeWrite s a n va m x = .ok t) : t.memOk = true := by
  simp only [homeWrite] at e
  split at e
  · cases e
  · exact writeLine_memOk h e

theorem dwordAt_memOk {s t : State} {a : Accessor} {w : Where} {i : Nat} {f : Dword → Dword} {x : Dword} (h : s.memOk = true)
    (e : dwordAt s a w i f = .ok (x, t)) : t.memOk = true := by
  simp only [dwordAt] at e
  split at e
  · cases e
  · split at e
    · cases e
    · rename_i hw; cases e; exact writeLine_memOk h hw

theorem accDword_memOk {s t : State} {a : Accessor} {va : Nat} {f : Dword → Dword} {x : Dword} (h : s.memOk = true)
    (e : accDword s a va f = .ok (x, t)) : t.memOk = true := by
  simp only [accDword] at e
  split at e
  · cases e
  · exact dwordAt_memOk h e

/-! ### What accesses leave behind (R110, R120, R191, R193, R423) -/

theorem countEvent_memOk {s : State} (c : Ctx) (ev n : Nat) (h : s.memOk = true) : (countEvent s c ev n).memOk = true := by
  simp only [countEvent]
  split
  · exact h
  · exact State.memOk_of_same h

theorem State.setTlb_memOk {s : State} (u : Tlb) (l : List Xlat) (h : s.memOk = true) : (s.setTlb u l).memOk = true := by
  cases u with
  | s ck => exact State.memOk_modCore ck h
  | port ck => exact State.memOk_modCore ck h
  | engine d cl e => exact State.memOk_of_same h

theorem State.modUnits_memOk {s : State} (d cl : Nat) (f : Units → Units) (h : s.memOk = true) :
    (s.modUnits d cl f).memOk = true := State.memOk_of_same h

theorem readError_memOk {s : State} (l : Nat) (h : s.memOk = true) : (readError s l).memOk = true := by
  simp only [readError]
  split
  · exact h
  · split <;> exact State.memOk_of_same h

theorem walkErrors_memOk {s : State} (d vi va : Nat) (h : s.memOk = true) : (walkErrors s d vi va).memOk = true :=
  apply_ite_memOk h (memOk_foldl (fun _ _ hs => readError_memOk _ hs) _ h)

theorem translate_memOk {s : State} (u : Tlb) (c : Ctx) (a : Accessor) (va : Nat) (h : s.memOk = true) :
    (translate s u c a va).memOk = true := by
  simp only [translate]
  split
  · exact State.setTlb_memOk _ _ h
  · have h1 := countEvent_memOk c u.missEvent 1 h
    split
    · exact State.setTlb_memOk _ _ (State.modUnits_memOk _ _ _ h1)
    · have h2 := walkErrors_memOk a.die a.vi va (countEvent_memOk c evWalk 1 h1)
      split
      · exact h2
      · exact State.setTlb_memOk _ _ (State.modUnits_memOk _ _ _ h2)

theorem meetTarget_memOk {s : State} (d : Nat) (pen : Pen) (w : Where) (whole : Bool) (h : s.memOk = true) :
    (meetTarget s d pen w whole).memOk = true := by
  simp only [meetTarget]
  split
  · exact State.count_memOk _ _ h
  · split
    · exact h
    · split
      · exact apply_ite_memOk (readError_memOk _ h) h
      · exact memOk_foldl (fun _ _ hs => readError_memOk _ hs) _ h

theorem afterAccess_memOk {s : State} (a : Accessor) (n : Need) (va : Nat) (whole : Bool) (h : s.memOk = true) :
    (afterAccess s a n va whole).memOk = true := by
  simp only [afterAccess]
  split
  · exact h
  · exact apply_ite_memOk h (meetTarget_memOk _ _ _ _ h)

theorem State.modRouter_memOk {s : State} (d : Nat) (f : Router → Router) (h : s.memOk = true) : (s.modRouter d f).memOk = true :=
  State.memOk_of_same h

theorem heard_memOk {s : State} (d dst : Nat) (q : BitVec 16) (n c : Nat) (h : s.memOk = true) :
    (heard s d dst q n c).memOk = true := State.memOk_of_same h

theorem heardAndReplied_memOk {s : State} (d dst : Nat) (q : BitVec 16) (h : s.memOk = true) :
    (heardAndReplied s d dst q).memOk = true := State.memOk_of_same h

theorem exchangeDies_memOk {s : State} (d dst : Nat) (h : s.memOk = true) : (exchangeDies s d dst).memOk = true :=
  State.memOk_of_same h

theorem exchange_memOk {s : State} (k dst va : Nat) (b : Nat × Nat) (h : s.memOk = true) :
    (exchange s k dst va b).memOk = true := by
  simp only [exchange]
  split
  · exact h
  · have h2 := countEvent_memOk (s.ctx k) evReceived b.2 (countEvent_memOk (s.ctx k) evSent b.1 h)
    split
    · exact heardAndReplied_memOk _ _ _ (State.memOk_modCtx k h2)
    · exact exchangeDies_memOk _ _ h2

theorem State.act_memOk {s : State} (a : Act) (h : s.memOk = true) : (s.act a).memOk = true := State.memOk_of_same h

theorem countLoss_memOk {s : State} (x : Option Loss) (h : s.memOk = true) : (countLoss s x).memOk = true := by
  simp only [countLoss]
  split
  · exact State.count_memOk _ _ h
  · exact State.count_memOk _ _ h
  · exact h

/-- What a request has performed keeps the form. -/
abbrev KeepsForm (f : Option (State → Answer × State)) : Prop :=
  ∀ g, f = some g → ∀ t : State, t.memOk = true → (g t).2.memOk = true

theorem transmit_memOk {s : State} (k : Nat) (l : Lost) {f : Option (State → Answer × State)} (h : s.memOk = true)
    (hf : KeepsForm f) : (transmit s k l f).memOk = true := by
  simp only [transmit]
  have h2 := State.memOk_modCtx k (f := fun c => { c with lost := some { l with next := l.next + cycles20us }, begun := true })
    (countEvent_memOk (s.ctx k) evSent (if l.op then homeBytes.1 else readBytes.1) h)
  split
  · exact countLoss_memOk _ h2
  · exact countLoss_memOk _ (State.modRouter_memOk _ _ h2)
  · split
    · exact countLoss_memOk _ (State.modRouter_memOk _ _ (State.count_memOk _ _ h2))
    · exact countLoss_memOk _ (State.memOk_modCtx k (State.modRouter_memOk _ _ (heard_memOk _ _ _ _ _ (hf _ rfl _ h2))))

theorem ask_memOk {s : State} (k d va : Nat) {f : Option (State → Answer × State)} (h : s.memOk = true) (hf : KeepsForm f) :
    (ask s k d va f).memOk = true := by
  simp only [ask]
  split
  · split
    · exact h
    · exact transmit_memOk _ _ (State.modRouter_memOk _ _ h) hf
  · repeat' split
    · exact h
    · exact State.act_memOk _ h
    · exact h
    · exact transmit_memOk _ _ h hf

theorem State.noAnswer_memOk {s : State} (k d : Nat) (va : Nat) (h : s.memOk = true) : (s.noAnswer k d va).memOk = true :=
  ask_memOk _ _ _ h (fun _ e => by cases e)

theorem atHome_memOk {s : State} (k d va : Nat) {f : State → Answer × State} {g : Answer → State → State} (h : s.memOk = true)
    (hf : ∀ t, t.memOk = true → (f t).2.memOk = true) (hg : ∀ a t, t.memOk = true → (g a t).memOk = true) :
    (atHome s k d va f g).memOk = true := by
  simp only [atHome]
  split
  · split
    · exact hg _ _ (State.count_memOk _ _ (exchange_memOk _ _ _ _ h))
    · exact hg _ _ (hf _ (exchange_memOk _ _ _ _ h))
  · exact ask_memOk _ _ _ h (fun _ e => by cases e; exact hf)

theorem meetS_memOk {s : State} (k : Nat) (a : Accessor) (w : Where) (va : Nat) (h : s.memOk = true) :
    (meetS s k a w va).memOk = true :=
  apply_ite_memOk (exchange_memOk _ _ _ _ (meetTarget_memOk _ _ _ _ h)) h

theorem reachS_memOk {s : State} (k : Nat) (n : Need) (va : Nat) (h : s.memOk = true) :
    (reachS s k n va).memOk = true := by
  simp only [reachS]
  split
  · exact h
  · exact meetS_memOk _ _ _ _ h

theorem xlatS_memOk {s : State} (k va : Nat) (h : s.memOk = true) : (xlatS s k va).memOk = true :=
  apply_ite_memOk h (translate_memOk _ _ _ _ h)

theorem useS_memOk {s : State} (k : Nat) (n : Need) (va : Nat) (h : s.memOk = true) : (useS s k n va).memOk = true :=
  reachS_memOk _ _ _ (xlatS_memOk _ _ h)

/-! ### Doors and records (R155 to R158, R343) -/

theorem modPkg_memOk {s : State} (p : Nat) (f : Pkg → Pkg) (h : s.memOk = true) : (s.modPkg p f).memOk = true :=
  State.memOk_of_same h

theorem doorAppend_memOk {s t : State} {p vi n : Nat} {m : Line} {x : Nat} (h : s.memOk = true)
    (e : doorAppend s p vi n m = .ok (x, t)) : t.memOk = true := by
  simp only [doorAppend] at e
  split at e
  · cases e
  · rename_i hw; cases e; exact modPkg_memOk _ _ (homeWrite_memOk (afterAccess_memOk _ _ _ _ h) hw)

theorem postRecord_memOk {s : State} (p vi d : Nat) (m : Line) (h : s.memOk = true) : (postRecord s p vi d m).2.memOk = true := by
  simp only [postRecord]
  split
  · exact State.count_memOk _ _ h
  · split
    · exact State.count_memOk _ _ (modPkg_memOk _ _ h)
    · split
      · exact State.count_memOk _ _ (modPkg_memOk _ _ (afterAccess_memOk _ _ _ _ h))
      · rename_i hw; exact doorAppend_memOk h hw

theorem report_memOk {s : State} (p vi : Nat) (r : FaultRec) (g : Bool) (h : s.memOk = true) :
    (report s p vi r g).2.memOk = true := by
  simp only [report]
  have h2 := postRecord_memOk p vi (viFaultd ((s.pkg p).vi vi))  (r.line (Table.get (s.pkg p).faultSeq vi 0))
    (modPkg_memOk p (fun k => { k with faultSeq := Table.put k.faultSeq vi ((Table.get (s.pkg p).faultSeq vi 0 + 1) % 2 ^ 64) }) h)
  simp only [State.modPkg_eq, State.pkg_setPkg] at h2 ⊢
  split
  · exact postRecord_memOk _ _ _ _ h2
  · exact h2

/-! ### References and pushes (R105, R149, R250) -/

theorem releaseRef_memOk {s : State} (d vi : Nat) (x : Handle) (h : s.memOk = true) : (releaseRef s d vi x).memOk = true := by
  simp only [releaseRef]
  split
  · exact h
  · exact State.memOk_modCore _ h

theorem queueWrite_memOk {s t : State} {p vi q : Nat} {pen : Pen} {r : Line} (h : s.memOk = true)
    (e : queueWrite s p vi q pen r = .ok t) : t.memOk = true := by
  simp only [queueWrite] at e
  split at e
  · cases e
  · rename_i hw; cases e; exact State.memOk_of_same (homeWrite_memOk (afterAccess_memOk _ _ _ _ h) hw)

theorem dropRecord_memOk {s : State} (p vi vq : Nat) (pen : Pen) (r : Line) (code pos : Nat) (h : s.memOk = true) :
    (dropRecord s p vi vq pen r code pos).memOk = true := by
  simp only [dropRecord]
  split
  · exact releaseRef_memOk _ _ _ (report_memOk _ _ _ _ h)
  · exact report_memOk _ _ _ _ h

theorem pushHome_memOk {s : State} (p vi vq : Nat) (pen : Pen) (r : Line) (h : s.memOk = true) :
    (pushHome s p vi vq pen r).2.memOk = true := by
  simp only [pushHome]
  split
  · exact State.count_memOk _ _ h
  · split
    · exact dropRecord_memOk _ _ _ _ _ _ _ h
    · split
      · exact modPkg_memOk _ _ h
      · split
        · exact dropRecord_memOk _ _ _ _ _ _ _ h
        · split
          · rename_i hw; exact queueWrite_memOk h hw
          · exact dropRecord_memOk _ _ _ _ _ _ _ (afterAccess_memOk _ _ _ _ h)

theorem pushHome_memOk_of_eq {s t : State} {p vi vq : Nat} {pen : Pen} {r : Line} {x : PushResult} (h : s.memOk = true)
    (e : pushHome s p vi vq pen r = (x, t)) : t.memOk = true := by
  rw [show t = (pushHome s p vi vq pen r).2 from by rw [e]]
  exact pushHome_memOk _ _ _ _ _ h

/-! ### Claim entries (R159, R181) -/

theorem putRaw_memOk {s : State} (l : Nat) (p : Pen) (x : Line) (h : s.memOk = true) : (putRaw s l p x).memOk = true :=
  State.memOk_mem h (Memory.wf_putLine _ _ _ (State.mem_wf h))

theorem popNode_memOk {s : State} (v : BitVec 1024) (e : ClaimEntry) (h : s.memOk = true) :
    (popNode s v e).2.2.2.memOk = true := putRaw_memOk _ _ _ (putRaw_memOk _ _ _ h)

theorem handOver_memOk {s : State} (p vi : Nat) (b : Bucket) (way : Nat) (pen : Pen) (n : Nat) (h : s.memOk = true) :
    (handOver s p vi b way pen n).memOk = true := by
  induction n generalizing s with
  | zero => exact h
  | succ n ih =>
    simp only [handOver]
    split
    · exact h
    · split
      · exact putRaw_memOk _ _ _ h
      · split
        · rename_i hw; exact ih (pushHome_memOk_of_eq (putRaw_memOk _ _ _ (popNode_memOk _ _ h)) hw)
        · rename_i hw; exact pushHome_memOk_of_eq (putRaw_memOk _ _ _ (popNode_memOk _ _ h)) hw

theorem handOverMaker_memOk {s : State} (p vi : Nat) (pen : Pen) (m : Maker) (h : s.memOk = true) :
    (handOverMaker s p vi pen m).memOk = true := by
  simp only [handOverMaker]
  split
  · exact handOver_memOk _ _ _ _ _ _ h
  · exact h

/-! ### Signals and join counters (R37, R152, R283) -/

theorem signalChanged_memOk {s : State} (g : Nat) (v : Dword) (h : s.memOk = true) : (signalChanged s g v).memOk = true := by
  obtain ⟨hm, hk, hx⟩ := s.memOk_iff.1 h
  refine (State.memOk_iff _).2 ⟨hm, hk, fun e he => ?_⟩
  obtain ⟨x, hx', rfl⟩ := List.mem_map.1 he
  show (Ctx.meetSignal s g v x.2).savedSpad.wf = true
  have : (Ctx.meetSignal s g v x.2).savedSpad = x.2.savedSpad := by simp only [Ctx.meetSignal]; split <;> rfl
  rw [this]; exact hx x hx'

theorem signalDecAt_memOk {s t : State} {a : Accessor} {w : Where} {i : Nat} {x : Dword} (h : s.memOk = true)
    (e : signalDecAt s a w i = .ok (x, t)) : t.memOk = true := by
  simp only [signalDecAt] at e
  split at e
  · cases e
  · rename_i hw; cases e; exact signalChanged_memOk _ _ (dwordAt_memOk h hw)

theorem joinDecAt_memOk {s t : State} {a : Accessor} {w : Where} {x : Bool × Dword} (h : s.memOk = true)
    (e : joinDecAt s a w = .ok (x, t)) : t.memOk = true := by
  simp only [joinDecAt] at e
  split at e
  · cases e
  · split at e
    · cases e; exact h
    · split at e
      · cases e
      · rename_i hw
        have h2 := dwordAt_memOk h hw
        split at e
        · cases e; exact h2
        · split at e
          · cases e; exact dropRecord_memOk _ _ _ _ _ _ _ h2
          · cases e; exact pushHome_memOk _ _ _ _ _ h2

theorem joinDec_memOk {s t : State} {a : Accessor} {va : Nat} {x : Bool × Dword} (h : s.memOk = true)
    (e : joinDec s a va = .ok (x, t)) : t.memOk = true := by
  simp only [joinDec] at e
  split at e
  · cases e
  · exact joinDecAt_memOk h e

/-! ### Commits and releases (R131, R134) -/

theorem reportPager_memOk {s : State} (p vi : Nat) (r : FaultRec) (h : s.memOk = true) : (reportPager s p vi r).2.memOk = true :=
  postRecord_memOk _ _ _ _ (modPkg_memOk _ _ h)

theorem dropLine_memOk {s : State} (w : Committer) (va code : Nat) (h : s.memOk = true) : (dropLine s w va code).memOk = true :=
  report_memOk _ _ _ _ (State.count_memOk _ _ h)

theorem commitWrite_memOk {s : State} (a : Accessor) (w : Where) (e : SbEntry) (h : s.memOk = true) :
    (commitWrite s a w e).2.memOk = true := by
  have h2 := meetTarget_memOk a.die a.pen w (e.mask == maskAll) h
  simp only [commitWrite]
  split
  · exact h2
  · split
    · exact h2
    · split
      · exact h2
      · rename_i hw; exact writeLine_memOk h2 hw

theorem lineFailed_memOk {s : State} (w : Committer) (va code : Nat) (pz : List CommitPause) (h : s.memOk = true) :
    (lineFailed s w va code pz).2.2.memOk = true := by
  simp only [lineFailed]
  split
  · exact dropLine_memOk _ _ _ h
  · split
    · exact h
    · exact reportPager_memOk _ _ _ h

theorem lineAnswered_memOk {s : State} (w : Committer) (va : Nat) (pz : List CommitPause) (x : Answer) (h : s.memOk = true) :
    (lineAnswered w va pz x s).2.2.memOk = true := by
  simp only [lineAnswered]
  split
  · exact h
  · exact lineFailed_memOk _ _ _ _ h

theorem commitLine_memOk {s : State} (w : Committer) (e : SbEntry) (pz : List CommitPause) (h : s.memOk = true) :
    (commitLine s w e pz).2.2.memOk = true := by
  simp only [commitLine]
  split
  · exact dropLine_memOk _ _ _ h
  · split
    · exact lineFailed_memOk _ _ _ _ h
    · split
      · exact h
      · split
        · split
          · exact h
          · exact lineAnswered_memOk _ _ _ _ (commitWrite_memOk _ _ _ h)
        · have h2 := fun k dst va => exchange_memOk (s := s) k dst va writeBytes h
          split
          · split
            · exact lineAnswered_memOk _ _ _ _ (State.count_memOk _ _ (h2 _ _ _))
            · exact lineAnswered_memOk _ _ _ _ (commitWrite_memOk _ _ _ (h2 _ _ _))
          · exact ask_memOk _ _ _ h (fun _ eq => by cases eq; exact fun _ ht => commitWrite_memOk _ _ _ ht)

theorem commitList_memOk {s : State} (w : Committer) (pz : List CommitPause) (l : List SbEntry) (h : s.memOk = true) :
    (commitList s w pz l).2.2.2.memOk = true := by
  induction l generalizing s pz with
  | nil => exact h
  | cons e r ih =>
    have h2 := commitLine_memOk w e pz h
    simp only [commitList]
    split <;> rename_i hw <;> rw [hw] at h2
    · exact h2
    · exact ih _ h2
    · exact ih _ h2

theorem intoView_spad (s : State) (c : Ctx) (e : SbEntry) : (intoView s c e).savedSpad = c.savedSpad := by
  simp only [intoView]
  split
  · rfl
  · split <;> rfl

theorem outOfL1_memOk {s : State} (k : Nat) (e : SbEntry) (h : s.memOk = true) : (outOfL1 s k e).memOk = true := by
  simp only [outOfL1]
  repeat' split
  all_goals first | exact h | exact State.memOk_modCore _ h

theorem commitOwn_memOk {s : State} (k : Nat) (sel : Nat → Bool) (h : s.memOk = true) : (commitOwn s k sel).2.memOk = true := by
  simp only [commitOwn]
  split
  · exact h
  · refine State.memOk_setCtx k (memOk_foldl (fun _ _ hs => outOfL1_memOk _ _ hs) _ (commitList_memOk _ _ _ h)) ?_
    show (List.foldl _ _ _ : Ctx).savedSpad.wf = true
    rw [foldl_same Ctx.savedSpad (intoView_spad _)]
    exact State.ctx_spad (memOk_foldl (fun _ _ hs => outOfL1_memOk _ _ hs) _ (commitList_memOk _ _ _ h)) k

theorem release_memOk {s : State} (k : Nat) (h : s.memOk = true) : (release s k).2.memOk = true := by
  simp only [release]
  split
  · exact State.memOk_modCtx k (commitOwn_memOk _ _ h)
  · exact h

/-! ### Groups and ends (R44, R130, R237) -/

theorem endJoin_memOk {s : State} (c : Ctx) (pen : Pen) (h : s.memOk = true) : (endJoin s c pen).memOk = true := by
  simp only [endJoin]
  split
  · exact h
  · split
    · exact report_memOk _ _ _ _ h
    · have h1 := afterAccess_memOk ⟨c.die, c.vi.toNat, pen⟩ Need.write c.join.toNat false h
      split
      · exact report_memOk _ _ _ _ h1
      · rename_i hw
        have h2 := joinDec_memOk h1 hw
        have h3 := fun (p : Bool) dst => apply_ite_memOk (p := p = true) h2 (exchangeDies_memOk c.die dst h2)
        exact apply_ite_memOk (report_memOk _ _ _ _ (h3 _ _)) (h3 _ _)

theorem descWrite_memOk {s : State} (d vi va : Nat) (x : Line) (h : s.memOk = true) : (descWrite s d vi va x).memOk = true := by
  simp only [descWrite]
  split
  · rename_i hw; exact homeWrite_memOk h hw
  · exact h

theorem State.modId_memOk {s : State} (id : Nat) {f : Ctx → Ctx} (h : s.memOk = true)
    (hf : ∀ c, (f c).savedSpad = c.savedSpad := by intro; rfl) : (s.modId id f).memOk = true := State.memOk_mapIf h hf

theorem dropL1_memOk {s : State} (k : Nat) (h : s.memOk = true) : (dropL1 s k).memOk = true := by
  simp only [dropL1]
  split
  · exact h
  · exact State.memOk_modCore _ h

theorem acquire_memOk {s : State} (k : Nat) (h : s.memOk = true) : (acquire s k).memOk = true :=
  dropL1_memOk _ (State.memOk_modCtx k h)

theorem Ctx.passBoundary_spad (n va : Nat) (l : Bool) (c : Ctx) : (Ctx.passBoundary n va l c).savedSpad = c.savedSpad := by
  simp only [Ctx.passBoundary]
  split <;> rfl

theorem passMember_memOk {s : State} (g : Group) (a : Arrival) (h : s.memOk = true) : (passMember g s a).memOk = true := by
  simp only [passMember]
  split
  · exact h
  · exact dropL1_memOk _ (State.memOk_modCtx _ h (Ctx.passBoundary_spad _ _ _))

theorem State.memOk_groups {s : State} (l : List Group) (h : s.memOk = true) : ({ s with groups := l } : State).memOk = true :=
  State.memOk_of_same h

theorem State.setGroup_memOk {s : State} (g : Group) (h : s.memOk = true) : (s.setGroup g).memOk = true :=
  State.memOk_of_same h

theorem turnPhase_memOk {s : State} (g : Group) (h : s.memOk = true) : (turnPhase s g).memOk = true := by
  simp only [turnPhase]
  split
  · exact h
  · exact descWrite_memOk _ _ _ _ h

theorem boundary_memOk {s : State} (g : Group) (h : s.memOk = true) : (boundary s g).memOk = true := by
  have h2 := turnPhase_memOk g (memOk_foldl (fun s a hs => passMember_memOk (s := s) g a hs) (g.arrived g.parity) h)
  exact apply_ite_memOk (State.memOk_groups _ h2) (State.setGroup_memOk _ h2)

theorem progress_memOk {s : State} (n f : Nat) (h : s.memOk = true) : (progress s n f).memOk = true := by
  induction f generalizing s with
  | zero => exact h
  | succ f ih =>
    simp only [progress]
    split
    · exact h
    · repeat' split
      · exact h
      · exact h
      · exact ih (boundary_memOk _ h)
      · exact h
      · exact State.act_memOk _ (State.setGroup_memOk _ h)

theorem arriveAt_memOk {s : State} (k : Nat) (m : Membership) (l c : Bool) (gpa : Nat) (d : Line) (h : s.memOk = true) :
    (arriveAt s k m l c gpa d).memOk = true := by
  simp only [arriveAt]
  split
  · exact h
  · split
    · exact State.setGroup_memOk _ h
    · exact progress_memOk _ _ (descWrite_memOk _ _ _ _ (State.setGroup_memOk _
        (apply_ite_memOk (State.memOk_modCtx k h fun _ => rfl) h)))

theorem loseMember_memOk {s : State} (k : Nat) (m : Membership) (h : s.memOk = true) : (loseMember s k m).memOk = true :=
  memOk_foldl (fun _ _ hs => progress_memOk _ _ hs) _ (State.memOk_of_same h)

theorem leaveAll_memOk {s : State} (k : Nat) (h : s.memOk = true) : (leaveAll s k).memOk = true := by
  simp only [leaveAll]
  refine State.memOk_modCtx k (memOk_foldl (fun s m hs => ?_) _ h)
  split
  · exact loseMember_memOk _ _ hs
  · split
    · exact loseMember_memOk _ _ hs
    · exact arriveAt_memOk _ _ _ _ _ _ (useS_memOk _ _ _ hs)

/-! ### Tiles and deliveries (R32, R97 to R99, R266) -/

theorem Ctx.tagChanged_spad (c : Ctx) (t : Nat) (x : Tile) (n : Nat) : (c.tagChanged t x n).savedSpad = c.savedSpad := by
  simp only [Ctx.tagChanged]
  repeat' split
  all_goals rfl

theorem State.setTile_memOk {s : State} (ck t : Nat) (x : Tile) (h : s.memOk = true) : (s.setTile ck t x).memOk = true := by
  simp only [State.setTile]
  have h2 := State.memOk_modCore ck (f := fun c => c.setTile t x) h
  split
  · exact h2
  · exact State.memOk_mapIf h2 fun c => Ctx.tagChanged_spad c _ _ _

theorem wakeTile_memOk {s : State} (ck t : Nat) (h : s.memOk = true) : (wakeTile s ck t).memOk = true :=
  State.memOk_mapIf h

theorem State.setDelivery_memOk {s : State} (d : Delivery) (h : s.memOk = true) : (s.setDelivery d).memOk = true :=
  State.memOk_of_same h

theorem State.memOk_deliveries {s : State} (l : List Delivery) (h : s.memOk = true) :
    ({ s with deliveries := l } : State).memOk = true := State.memOk_of_same h

theorem admitDelivery_memOk {s : State} (d : Delivery) (h : s.memOk = true) : (admitDelivery s d).memOk = true := by
  simp only [admitDelivery]
  have h2 := fun x y => State.setDelivery_memOk y (State.setTile_memOk (coreKey d.die d.core) d.tile x h)
  split
  · exact State.act_memOk _ (h2 _ _)
  · split
    · exact State.act_memOk _ (h2 _ _)
    · exact h2 _ _

theorem admitHeld_memOk {s : State} (ck t : Nat) (h : s.memOk = true) : (admitHeld s ck t).memOk = true := by
  simp only [admitHeld]
  split
  · exact h
  · split
    · exact h
    · split
      · exact h
      · exact admitDelivery_memOk _ (State.setTile_memOk _ _ _ (State.memOk_modCore _ h))

theorem clearFull_memOk {s : State} (ck t : Nat) (h : s.memOk = true) : (clearFull s ck t).memOk = true := by
  simp only [clearFull]
  split
  · exact admitHeld_memOk _ _ (State.setTile_memOk _ _ _ h)
  · exact h

theorem dropDelivery_memOk {s : State} (d : Delivery) (h : s.memOk = true) : (dropDelivery s d).memOk = true := by
  simp only [dropDelivery]
  have h2 := State.count_memOk d.die Counters.incDropTile h
  split
  · exact State.act_memOk _ (State.setDelivery_memOk _ h2)
  · split
    · exact State.act_memOk _ (State.memOk_modCtx _ (State.memOk_deliveries _ h2))
    · exact State.memOk_deliveries _ h2

theorem dropWaiting_memOk {s : State} (ck : Nat) (sel : Delivery → Bool) (h : s.memOk = true) :
    (dropWaiting s ck sel).memOk = true := by
  simp only [dropWaiting]
  refine memOk_foldl (fun s n hs => ?_) _ (State.memOk_modCore _ h)
  split
  · exact dropDelivery_memOk _ hs
  · exact hs

theorem freeTile_memOk {s : State} (ck t : Nat) (h : s.memOk = true) : (freeTile s ck t).memOk = true :=
  dropWaiting_memOk _ _ (State.setTile_memOk _ _ _ h)

theorem State.setPlaceTile_memOk {s : State} (p : Place) (t : Nat) (x : Tile) (h : s.memOk = true) :
    (s.setPlaceTile p t x).memOk = true := by
  cases p with
  | core ck => exact State.setTile_memOk _ _ _ h
  | slot k => exact State.memOk_modCtx k h fun c => Ctx.tagChanged_spad c _ _ _

/-! ### Drains (R30, R287, R322) -/

theorem Ctx.updateZc_spad (c : Ctx) (p : Pen) (u : ZcUpdate) : (c.updateZc p u).savedSpad = c.savedSpad := rfl

theorem Ctx.land_spad (c : Ctx) (f : Flight) : (c.land f).savedSpad = c.savedSpad := by
  have hf := foldl_same Ctx.savedSpad (f := fun c u => c.updateZc f.pen u) fun _ _ => rfl
  simp only [Ctx.land]
  split
  · rw [hf]; split <;> rfl
  · refine Eq.trans (hf _ _) ?_
    split <;> rfl

theorem askPush_memOk {s : State} (src dst : Nat) (pen : Pen) (q : Nat) (r : Line) (id : Nat) (h : s.memOk = true) :
    (askPush s src dst pen q r id).memOk = true := by
  simp only [askPush]
  split
  · exact State.memOk_of_same h
  · exact State.memOk_of_same h

theorem pushRecord_memOk {s : State} (c : Ctx) (f : Flight) (r : Line) (h : s.memOk = true) :
    (pushRecord c f s r).memOk = true := apply_ite_memOk (pushHome_memOk _ _ _ _ _ h) (askPush_memOk _ _ _ _ _ _ h)

theorem landFlight_memOk {s : State} (k : Nat) (f : Flight) (h : s.memOk = true) : (landFlight s k f).memOk = true := by
  simp only [landFlight]
  refine memOk_foldl (fun s r hs => ?_) _ (State.memOk_setCtx k h (by rw [Ctx.land_spad]; exact State.ctx_spad h k))
  exact pushRecord_memOk _ _ _ hs

theorem Slot.fill_wf (l : List (Option Line)) (x : BitVec 128) (p : Pen) : (Slot.fill l x p).mem.wf = true := by
  suffices h : ∀ (l : List (Option Line × Nat)) (m : Memory), m.wf = true →
      (l.foldl (fun m (x, i) => match x with | some x => m.putLine i p x | none => m) m).wf = true from h _ _ Memory.wf_empty
  intro l
  induction l with
  | nil => exact fun m h => h
  | cons a r ih =>
    intro m h
    refine ih _ ?_
    dsimp only
    split
    · exact Memory.wf_putLine _ _ _ h
    · exact h

theorem Core.memOk_putSlot {c : Core} (n : Nat) {x : Slot} (h : c.memOk = true) (hx : x.mem.wf = true) :
    ({ c with slots := Table.put c.slots n x } : Core).memOk = true := by
  simp only [Core.memOk, Bool.and_eq_true, List.all_eq_true] at h ⊢
  refine ⟨h.1, fun e he => ?_⟩
  rcases Table.mem_put he with rfl | he
  · exact hx
  · exact h.2 e he

theorem Ctx.postM_spad (c : Ctx) (p : Pen) (t : BitVec 3) : (c.postM p t).savedSpad = c.savedSpad := by
  simp only [Ctx.postM]
  split <;> rfl

theorem landFill_memOk {s : State} (k : Nat) (f : SlotFill) (h : s.memOk = true) : (landFill s k f).memOk = true := by
  simp only [landFill]
  refine State.memOk_modCtx k (State.memOk_modCore _ h fun c hc => ?_) fun c => Ctx.postM_spad c _ _
  have h2 := Core.memOk_putSlot f.slot hc (Slot.fill_wf (f.lines.take 256) f.hdr0 f.pen)
  split
  · exact Core.memOk_putSlot _ h2 (Slot.fill_wf _ _ _)
  · exact h2

theorem Ctx.finishRun_spad (c : Ctx) (p : Pen) (r : ArrayRun) : (c.finishRun p r).savedSpad = c.savedSpad := Ctx.postM_spad _ _ _

theorem Ctx.stopArray_spad (c : Ctx) (p : Pen) : (c.stopArray p).savedSpad = c.savedSpad := by
  simp only [Ctx.stopArray]
  split
  · rfl
  · rename_i r _
    have hf := foldl_same Ctx.savedSpad (f := fun c (e : Nat × Nat) => c.landRow p r e.1) fun _ _ => rfl
    split
    · exact Ctx.finishRun_spad _ _ _
    · split
      · exact (Ctx.finishRun_spad _ _ _).trans (hf _ _)
      · exact hf _ _

theorem drain_memOk {s : State} (k : Nat) (h : s.memOk = true) : (drain s k).memOk = true := by
  simp only [drain]
  refine State.memOk_modCtx k ?_ fun c => Ctx.stopArray_spad _ _
  have h2 := memOk_foldl (fun s f hs => landFill_memOk k f hs) (s.ctx k).fills
    (memOk_foldl (fun s f hs => landFlight_memOk k f hs) (s.ctx k).flights
      (State.memOk_setCtx k (c := { s.ctx k with flights := [], fills := [], soft := [] }) h (State.ctx_spad h k)))
  split
  · exact h2
  · exact State.memOk_modCore _ h2

/-! ### Waiting (R32, R126, R348) -/

theorem stopRunning_memOk {s : State} (k : Nat) (h : s.memOk = true) : (stopRunning s k).memOk = true := by
  simp only [stopRunning]
  split
  · exact h
  · exact State.memOk_modCore _ h fun c hc => by split <;> exact hc

theorem putReady_memOk {s : State} (ck : Nat) (b : Bool) (h : s.memOk = true) : (putReady s ck b).memOk = true := by
  simp only [putReady]
  split
  · exact State.memOk_modCtx _ (drain_memOk _ h) fun c => by split <;> rfl
  · exact h

theorem putRunning_memOk {s : State} (ck : Nat) (b : Bool) (h : s.memOk = true) : (putRunning s ck b).memOk = true :=
  State.memOk_modCore _ (dropL1_memOk _ (State.memOk_modCtx _ h))

theorem switchTo_memOk {s : State} (ck : Nat) (b : Bool) (h : s.memOk = true) : (switchTo s ck b).memOk = true := by
  simp only [switchTo]
  have h2 := putRunning_memOk ck b (putReady_memOk ck (!b) h)
  split
  · exact State.memOk_of_same h2
  · exact h2

theorem leaveCore_memOk {s : State} (k : Nat) (h : s.memOk = true) : (leaveCore s k).memOk = true := by
  simp only [leaveCore]
  split
  · exact h
  · split
    · exact switchTo_memOk _ _ (stopRunning_memOk _ h)
    · exact stopRunning_memOk _ h

theorem enterWaiting_memOk {s : State} (k : Nat) (b : Blocked) (h : s.memOk = true) : (enterWaiting s k b).memOk = true :=
  leaveCore_memOk _ (State.memOk_modCtx k (drain_memOk _ h))

theorem wake_memOk {s : State} (k : Nat) (h : s.memOk = true) : (wake s k).memOk = true :=
  State.memOk_modCtx k h fun c => by split <;> rfl

theorem waitFor_memOk {s : State} (k : Nat) (pos : Nat × Nat) (f : SoftFault) (h : s.memOk = true) :
    (waitFor s k pos f).memOk = true := State.memOk_modCtx k (report_memOk _ _ _ _ h)

theorem pageWaits_memOk {s : State} (k : Nat) (l : List SoftFault) (h : s.memOk = true) : (pageWaits s k l).memOk = true :=
  leaveCore_memOk _ (State.memOk_modCtx k (memOk_foldl (fun _ _ hs => waitFor_memOk k _ _ hs) _ (drain_memOk _ h)))

/-! ### Ends (R347) -/

theorem putDevice_memOk {s : State} (p vi : Nat) (pen : Pen) (l : Nat) (x : Line) (h : s.memOk = true) :
    (putDevice s p vi pen l x).memOk = true := by
  simp only [putDevice]
  split
  · exact h
  · exact State.memOk_mem (setLen_memOk _ _ (State.sound_memOk _ _ h)) (Memory.wf_putLine _ _ _ (State.mem_wf h))

theorem freeHeader_memOk {s : State} (k : Nat) (h : s.memOk = true) : (freeHeader s k).memOk = true :=
  apply_ite_memOk (putDevice_memOk _ _ _ _ _ h) h

theorem emptyBank_memOk {s : State} (k : Nat) (h : s.memOk = true) : (emptyBank s k).memOk = true := by
  simp only [emptyBank]
  refine leaveCore_memOk _ ?_
  obtain ⟨hm, hk, hx⟩ := (freeHeader s k).memOk_iff.1 (freeHeader_memOk k h)
  exact (State.memOk_iff _).2 ⟨hm, hk, fun e he => hx e (List.mem_filter.1 he).1⟩

theorem unhold_memOk {s : State} (d : Delivery) (h : s.memOk = true) : (unhold s d).memOk = true := by
  simp only [unhold]
  split
  · exact State.setTile_memOk _ _ _ (State.memOk_modCore _ h)
  · exact State.memOk_modCore _ h

theorem endLanding_memOk {s : State} (b : Bool) (d : Delivery) (h : s.memOk = true) : (endLanding b s d).memOk = true := by
  simp only [endLanding]
  split
  · exact h
  · split
    · exact apply_ite_memOk (wakeTile_memOk _ _ (State.setPlaceTile_memOk _ _ _ h)) (admitHeld_memOk _ _ (State.setPlaceTile_memOk _ _ _ h))
    · exact apply_ite_memOk (State.memOk_modCtx _ (State.setPlaceTile_memOk _ _ _ h)) (State.setPlaceTile_memOk _ _ _ h)

theorem cutDelivery_memOk {s : State} (b : Bool) (d : Delivery) (h : s.memOk = true) : (cutDelivery b s d).memOk = true := by
  have h1 := State.memOk_deliveries (s.deliveries.filter (fun x => x.n != d.n)) h
  have h2 := unhold_memOk d h1
  simp only [cutDelivery]
  split
  · split
    · exact State.count_memOk _ _ h2
    · exact h2
  · split
    · exact State.count_memOk _ _ h2
    · exact h2
  · exact endLanding_memOk _ _ h1
  · exact h1

theorem cutCommands_memOk {s : State} (k : Nat) (b : Bool) (h : s.memOk = true) : (cutCommands s k b).memOk = true := by
  simp only [cutCommands]
  exact State.memOk_modCtx k (State.memOk_of_same (memOk_foldl (fun s d hs => cutDelivery_memOk _ d hs) _ h))

theorem releaseK_memOk {s : State} (k : Nat) (h : s.memOk = true) : (releaseK s k).memOk = true :=
  State.memOk_modCtx k (memOk_foldl (fun _ _ hs => releaseRef_memOk _ _ _ hs) _ h)

theorem handOverAll_memOk {s : State} (k : Nat) (h : s.memOk = true) : (handOverAll s k).memOk = true :=
  State.memOk_modCtx k (memOk_foldl (fun _ _ hs => handOverMaker_memOk _ _ _ _ hs) _ h)

theorem freeSaved_memOk {s : State} (k t : Nat) (h : s.memOk = true) : (freeSaved s k t).memOk = true := by
  simp only [freeSaved]
  refine dropWaiting_memOk _ _ (State.memOk_modCtx k ?_)
  split
  · exact h
  · exact State.memOk_modCore _ h

theorem freeTiles_memOk {s : State} (k : Nat) (h : s.memOk = true) : (freeTiles s k).memOk = true := by
  simp only [freeTiles]
  split
  · exact memOk_foldl (fun _ _ hs => freeSaved_memOk _ _ hs) _ h
  · exact memOk_foldl (fun _ _ hs => freeTile_memOk _ _ hs) _ h

theorem endDrained_memOk {s : State} (k : Nat) (r : FaultRec) (b : Bool) (h : s.memOk = true) :
    (endDrained s k r b).memOk = true := by
  simp only [endDrained]
  refine emptyBank_memOk _ (endJoin_memOk _ _ (freeTiles_memOk _ (releaseK_memOk _ (handOverAll_memOk _
    (leaveAll_memOk _ ?_)))))
  exact State.memOk_modCtx k (cutCommands_memOk _ _ (report_memOk _ _ _ _ h)) fun _ => rfl

theorem endContext_memOk {s : State} (k : Nat) (r : FaultRec) (b : Bool) (h : s.memOk = true) :
    (endContext s k r b).memOk = true := endDrained_memOk _ _ _ (drain_memOk _ h)

/-! ### Traps (R333, R345) -/

theorem saveTrap_memOk {s : State} (k : Nat) (t : Trap) (pos : Nat × Nat) (h : s.memOk = true) :
    (saveTrap s k t pos).memOk = true := acquire_memOk k (State.memOk_modCtx k (report_memOk _ _ _ _ h) fun _ => rfl)

theorem trapNow_memOk {s : State} (k : Nat) (t : Trap) (h : s.memOk = true) : (trapNow s k t).memOk = true := by
  have h1 := drain_memOk k h
  have h2 := saveTrap_memOk k t (stopPositions (s.ctx k) ((drain s k).ctx k)) h1
  exact apply_ite_memOk (endDrained_memOk _ _ _ h1) (apply_ite_memOk (endDrained_memOk _ _ _ h2) (State.memOk_modCtx k h2))

theorem State.fault_memOk {s : State} (st : Stream) (code addr : Nat) (h : s.memOk = true) : (s.fault st code addr).memOk = true :=
  apply_ite_memOk h (trapNow_memOk _ _ h)

theorem State.illegal_memOk {s : State} (st : Stream) (h : s.memOk = true) : (s.illegal st).memOk = true := State.fault_memOk _ _ _ h

/-- A change of the issuing context that leaves its saved scratchpad alone. -/
theorem State.memOk_modCur {s : State} {f : Ctx → Ctx} (h : s.memOk = true)
    (hf : ∀ c, (f c).savedSpad = c.savedSpad := by intro; rfl) : (s.modCur f).memOk = true := State.memOk_modCtx _ h hf

theorem State.failAccess_memOk {s : State} (st : Stream) (kind : AccessKind) (f : Fail) (va : Nat) (h : s.memOk = true) :
    (s.failAccess st kind f va).memOk = true := by
  simp only [State.failAccess]
  split
  · exact State.noAnswer_memOk _ _ _ h
  · have h2 := useS_memOk s.focus.key kind.need va h
    split
    · exact State.memOk_modCur h2
    · exact State.fault_memOk _ _ _ h2

/-! ### The issuing context: its registers, its streams and the issue of a V word (R199, R291) -/

theorem Ctx.setPc_spad (c : Ctx) (st : Stream) (x : Dword) : (c.setPc st x).savedSpad = c.savedSpad := by cases st <;> rfl
theorem Ctx.setLoop_spad (c : Ctx) (st : Stream) (l : Loop) : (c.setLoop st l).savedSpad = c.savedSpad := by cases st <;> rfl
theorem Ctx.advance_spad (c : Ctx) (st : Stream) (n : Nat) : (c.advance st n).savedSpad = c.savedSpad := by
  simp only [Ctx.advance, Ctx.setPc_spad, Ctx.setLoop_spad]
theorem Ctx.jump_spad (c : Ctx) (st : Stream) (x : Dword) : (c.jump st x).savedSpad = c.savedSpad := by
  simp only [Ctx.jump, Ctx.setPc_spad, Ctx.setLoop_spad]

theorem State.advance_memOk {s : State} (st : Stream) (n : Nat) (h : s.memOk = true) : (s.advance st n).memOk = true :=
  State.memOk_modCur h fun c => Ctx.advance_spad c st n
theorem State.jump_memOk {s : State} (st : Stream) (x : Dword) (h : s.memOk = true) : (s.jump st x).memOk = true :=
  State.memOk_modCur h fun c => Ctx.jump_spad c st x

theorem State.wS_memOk {s : State} (d : Reg) (v : Dword) (h : s.memOk = true) : (s.wS d v).memOk = true :=
  State.memOk_setCtx _ h (by rw [Ctx.writeS_same]; exact State.ctx_spad h _)
theorem State.wA_memOk {s : State} (d : Reg) (v : Dword) (h : s.memOk = true) : (s.wA d v).memOk = true :=
  State.memOk_setCtx _ h (by rw [Ctx.writeA_same]; exact State.ctx_spad h _)

theorem Ctx.popAll_spad (c : Ctx) (l : List Source) : (c.popAll l).savedSpad = c.savedSpad := by
  refine foldl_same Ctx.savedSpad (fun c x => ?_) l c
  split
  · rfl
  · simp only [Ctx.setFifo]
    split <;> rfl

theorem VOp.consume_spad (o : VOp) (w : VWord) (rc : Rc) (rb : Nat) (p : Pen) (c : Ctx) :
    (o.consume w rc rb p c).savedSpad = c.savedSpad := by
  simp only [VOp.consume]
  repeat' split
  all_goals exact Ctx.popAll_spad _ _

/-- A V word keeps the form if its effect does. -/
theorem issueV_memOk {s : State} (w : VWord) (o : VOp) (h : s.memOk = true)
    (ha : ∀ v t, t.memOk = true → (o.act v t).memOk = true) : (issueV w o s).memOk = true := by
  simp only [issueV]
  split
  · exact State.advance_memOk _ _ h
  · split
    · exact h
    · split
      · exact State.illegal_memOk _ h
      · split
        · exact State.fault_memOk _ _ _ h
        · split
          · exact State.fault_memOk _ _ _ h
          · exact ha _ _ (State.memOk_setCtx _ h (by rw [VOp.consume_spad]; exact State.ctx_spad h _))

theorem flyV_memOk {s : State} (w : VWord) (lat : Nat) (f : Flight) (h : s.memOk = true) : (flyV w lat f s).memOk = true :=
  State.advance_memOk _ _ (State.memOk_modCur h)

theorem retireV_memOk {s : State} (w : VWord) (h : s.memOk = true) : (retireV w s).memOk = true := by
  simp only [retireV]
  refine State.advance_memOk _ _ ?_
  split
  · exact h
  · exact State.memOk_modCur h

theorem pushV_memOk {s : State} (w : VWord) (l : List Source) (lat n : Nat) (f : VIn → Lanes) (h : s.memOk = true) :
    (pushV w l lat n f s).memOk = true :=
  issueV_memOk _ _ h fun _ _ ht => flyV_memOk _ _ _ ht

/-! ### Commands (R136, R273) -/

theorem pushCmd_memOk {s : State} (fn : Nat) (opd opa opb : Dword) (follow : BitVec 192) (h : s.memOk = true) :
    (pushCmd fn opd opa opb follow s).memOk = true :=
  State.advance_memOk _ _ (State.act_memOk _ (State.memOk_modCore _ (State.memOk_setCtx _ h (State.ctx_spad h s.focus.key))
    fun c hc => by simp only [Core.reuse]; split <;> exact hc))

theorem issueCmd_memOk {s : State} (fn : Nat) (opd opa opb : Dword) (follow : BitVec 192) (sel : Option (Nat → Bool))
    (h : s.memOk = true) : (issueCmd fn opd opa opb follow sel s).memOk = true := by
  simp only [issueCmd]
  split
  · exact h
  · split
    · exact pushCmd_memOk _ _ _ _ _ h
    · rename_i f
      have h2 := commitOwn_memOk s.focus.key f h
      split <;> rename_i hw <;> rw [hw] at h2
      · exact h2
      · exact pushCmd_memOk _ _ _ _ _ h2

theorem copyA_memOk {s : State} (f : CopyFn) (opd opa opb : Dword) (follow : BitVec 192) (h : s.memOk = true) :
    (copyA f opd opa opb follow s).memOk = true := by
  simp only [copyA]
  split
  · exact State.fault_memOk _ _ _ h
  · exact issueCmd_memOk _ _ _ _ _ _ h

end Sys2Proof.Machine
end

