-- ==== Sys2Proof/Laws/Registers.lean ====
section
/-! SUPPORT. Reading registers after they have been written, what moving past a word changes, and each shared shape of an S
or A word as one update of the issuing context. -/

namespace Sys2Proof.Machine

set_option Elab.async false

/-! ### Reading after writing (R71, R72) -/

theorem Ctx.writeS_zero (c : Ctx) (p : Pen) (v : Dword) : c.writeS p 0 v = c := rfl
theorem Ctx.writeS_ne (c : Ctx) (p : Pen) {d : Reg} (v : Dword) (h : d ≠ 0) :
    c.writeS p d v = { c with s := c.s.set d.toNat ⟨p, v⟩ d.isLt } := by
  have : (d == 0) = false := by simpa using h
  simp only [Ctx.writeS, this]; rfl
theorem Ctx.readS_zero (c : Ctx) (p : Pen) : c.readS p 0 = 0 := rfl
theorem Ctx.readS_ne (c : Ctx) (p : Pen) {r : Reg} (h : r ≠ 0) : c.readS p r = (c.s[r.toNat]'r.isLt).read p := by
  have : (r == 0) = false := by simpa using h
  simp only [Ctx.readS, this]; rfl

theorem Ctx.readS_writeS (c : Ctx) (p : Pen) (d r : Reg) (v : Dword) :
    (c.writeS p d v).readS p r = if r = 0 then 0 else if r = d then v else c.readS p r := by
  by_cases hr : r = 0
  · rw [if_pos hr, hr, Ctx.readS_zero]
  · rw [if_neg hr]
    by_cases hd : d = 0
    · subst hd; rw [Ctx.writeS_zero, if_neg hr]
    · rw [Ctx.writeS_ne c p v hd, Ctx.readS_ne _ p hr]
      by_cases h : r = d
      · subst h; rw [if_pos rfl]; simp [Tag.read]
      · have : ¬ d.toNat = r.toNat := fun e => h (BitVec.eq_of_toNat_eq e.symm)
        rw [if_neg h, Ctx.readS_ne c p hr]; simp [this]

theorem Ctx.writeA_zero (c : Ctx) (p : Pen) (v : Dword) : c.writeA p 0 v = c := rfl
theorem Ctx.writeA_ne (c : Ctx) (p : Pen) {d : Reg} (v : Dword) (h : d ≠ 0) :
    c.writeA p d v = { c with a := c.a.set d.toNat ⟨p, v⟩ d.isLt } := by
  have : (d == 0) = false := by simpa using h
  simp only [Ctx.writeA, this]; rfl
theorem Ctx.readA_zero (c : Ctx) (p : Pen) : c.readA p 0 = 0 := rfl
theorem Ctx.readA_ne (c : Ctx) (p : Pen) {r : Reg} (h : r ≠ 0) : c.readA p r = (c.a[r.toNat]'r.isLt).read p := by
  have : (r == 0) = false := by simpa using h
  simp only [Ctx.readA, this]; rfl

theorem Ctx.readA_writeA (c : Ctx) (p : Pen) (d r : Reg) (v : Dword) :
    (c.writeA p d v).readA p r = if r = 0 then 0 else if r = d then v else c.readA p r := by
  by_cases hr : r = 0
  · rw [if_pos hr, hr, Ctx.readA_zero]
  · rw [if_neg hr]
    by_cases hd : d = 0
    · subst hd; rw [Ctx.writeA_zero, if_neg hr]
    · rw [Ctx.writeA_ne c p v hd, Ctx.readA_ne _ p hr]
      by_cases h : r = d
      · subst h; rw [if_pos rfl]; simp [Tag.read]
      · have : ¬ d.toNat = r.toNat := fun e => h (BitVec.eq_of_toNat_eq e.symm)
        rw [if_neg h, Ctx.readA_ne c p hr]; simp [this]

theorem Ctx.readS_congr {c d : Ctx} (h : c.s = d.s) : c.readS = d.readS := by funext p r; simp [Ctx.readS, h]
theorem Ctx.readA_congr {c d : Ctx} (h : c.a = d.a) : c.readA = d.readA := by funext p r; simp [Ctx.readA, h]

/-! ### The pennant of the issuing context -/

theorem State.pen_setCur (s : State) (c : Ctx) (hv : c.vi = s.cur.vi) (hh : c.home = s.cur.home) :
    (s.setCur c).pen = s.pen := by
  have hp : (s.setCur c).pkg = s.pkg := rfl
  simp [State.pen, State.ctxPen, State.penOf, Ctx.pkg, Ctx.die, hv, hh, hp]

/-! ### Moving past a word (R22, R227) -/

theorem Ctx.advanceS_same (c : Ctx) (n : Nat) :
    c.advance .s n = { c with pcS := (c.loopS.next c.pcS n).2, loopS := (c.loopS.next c.pcS n).1 } := rfl
theorem Ctx.advanceA_same (c : Ctx) (n : Nat) :
    c.advance .a n = { c with pcA := (c.loopA.next c.pcA n).2, loopA := (c.loopA.next c.pcA n).1 } := rfl
theorem Ctx.advanceV_same (c : Ctx) (n : Nat) :
    c.advance .v n = { c with pcV := (c.loopV.next c.pcV n).2, loopV := (c.loopV.next c.pcV n).1 } := rfl
theorem Ctx.advanceM_same (c : Ctx) (n : Nat) :
    c.advance .m n = { c with pcM := (c.loopM.next c.pcM n).2, loopM := (c.loopM.next c.pcM n).1 } := rfl
theorem Ctx.jumpS_same (c : Ctx) (x : Dword) : c.jump .s x = { c with pcS := x, loopS := c.loopS.jump x } := rfl
theorem Ctx.jumpA_same (c : Ctx) (x : Dword) : c.jump .a x = { c with pcA := x, loopA := c.loopA.jump x } := rfl
theorem Ctx.jumpV_same (c : Ctx) (x : Dword) : c.jump .v x = { c with pcV := x, loopV := c.loopV.jump x } := rfl
theorem Ctx.jumpM_same (c : Ctx) (x : Dword) : c.jump .m x = { c with pcM := x, loopM := c.loopM.jump x } := rfl

/-! Registers are read the same after a move. -/

@[simp] theorem Ctx.readS_advance (c : Ctx) (st : Stream) (n : Nat) : (c.advance st n).readS = c.readS :=
  Ctx.readS_congr (by cases st <;> rfl)
@[simp] theorem Ctx.readA_advance (c : Ctx) (st : Stream) (n : Nat) : (c.advance st n).readA = c.readA :=
  Ctx.readA_congr (by cases st <;> rfl)
@[simp] theorem Ctx.readS_jump (c : Ctx) (st : Stream) (x : Dword) : (c.jump st x).readS = c.readS :=
  Ctx.readS_congr (by cases st <;> rfl)
@[simp] theorem Ctx.readA_jump (c : Ctx) (st : Stream) (x : Dword) : (c.jump st x).readA = c.readA :=
  Ctx.readA_congr (by cases st <;> rfl)

/-! ### The shapes of words, as one update of the issuing context -/

theorem State.wS_eq (s : State) (d : Reg) (v : Dword) : s.wS d v = s.setCur (s.cur.writeS s.pen d v) := rfl
theorem State.wA_eq (s : State) (d : Reg) (v : Dword) : s.wA d v = s.setCur (s.cur.writeA s.pen d v) := rfl
theorem State.advance_eq (s : State) (st : Stream) (n : Nat) : s.advance st n = s.setCur (s.cur.advance st n) := rfl
theorem State.jump_eq (s : State) (st : Stream) (x : Dword) : s.jump st x = s.setCur (s.cur.jump st x) := rfl

theorem State.wS_advance (s : State) (d : Reg) (v : Dword) (n : Nat) :
    (s.wS d v).advance .s n = s.setCur ((s.cur.writeS s.pen d v).advance .s n) := by
  rw [State.advance_eq, State.wS_eq, State.cur_setCur, State.setCur_setCur]
theorem State.wA_advance (s : State) (d : Reg) (v : Dword) (n : Nat) :
    (s.wA d v).advance .a n = s.setCur ((s.cur.writeA s.pen d v).advance .a n) := by
  rw [State.advance_eq, State.wA_eq, State.cur_setCur, State.setCur_setCur]
theorem setS_eq (d : Reg) (v : Dword) (s : State) : setS d v s = s.setCur ((s.cur.writeS s.pen d v).advance .s 4) :=
  s.wS_advance d v 4
theorem setA_eq (d : Reg) (v : Dword) (s : State) : setA d v s = s.setCur ((s.cur.writeA s.pen d v).advance .a 4) :=
  s.wA_advance d v 4

end Sys2Proof.Machine
end

