-- ==== Sys2Proof/Tests/Slice0.lean ====
section
/-! SUPPORT. Tests: ill-formed instructions refused, words of the spec's encoding tables decoded, and for each statement
of Certificates/Slice0 states that meet its hypotheses. Expected values come from the rules named beside them. -/

namespace Sys2Proof.Tests

open Sys2Proof.Machine Sys2Proof.Slice0

set_option Elab.async false

/-! ### The checks of R199 -/

/-- No instruction of the list passes its check. -/
def allIllFormed (l : List Instr) : Bool := l.all (fun i => !i.wf)

/-- A word that passes the checks of VADD, VMOV and VDIV, and one that passes those of MMA in slot 0. -/
def okV : VWord := { blankV with d := ⟨4, false, 0, 0⟩, x := ⟨1, false, 0, 0⟩ }
def okV2 : VWord := { okV with y := ⟨2, false, 0, 0⟩ }
def okM : MWord := blankM

theorem test_wf_ok : [Instr.vadd okV2, .vdiv okV2, .vmov okV, .vfma okV2, .vcvt { okV with pa := 0x400 }, .mma okM,
    .mmaw { okM with wsrc := 8 }, .mhad { okM with hsz := 1 }, .mdrn okM].all Instr.wf = true := by decide +kernel

theorem test_wf_scalar : allIllFormed [.slli 1 1 64, .srli 1 1 0xFFFF, .srai 1 1 64, .strm 0 1, .strm 4 1, .toks 4, .tokw 0,
    .bqsnd 4 1, .loop 1 4 8, .loop 1 0 0, .bqrcv 0 0, .bqrcv 3 0, .claim 0 1 2 3, .claim 31 1 2 3, .fulfil 1 0 2 3,
    .fulfil 1 30 2 3, .abandon 1 30 2, .capt 8 1 2, .captr 31 1 2, .krel 8, .apply 1 8 2, .kdup 8 1, .kdup 1 8, .kenv 0 1,
    .kenv 25 1, .kenv 1 8, .doorw 0 1, .doorw 25 1] = true := by decide +kernel

theorem test_wf_access : allIllFormed [.slliA 1 1 64, .srliA 1 1 0x100, .sraiA 1 1 64, .toksA 1, .toksA 4, .tokwA 1,
    .aloop 1 4 8, .aloop 1 0 0, .ldv 4 1 false false, .ldvs 31 1 2 false false, .ldvg 4 1 2 false false, .stv 2 1 false,
    .stvs 2 1 2 false, .stvg 31 1 2 false, .wdset 4 1 2, .cpyf 1 1 0, .cpyf 1 1 29, .cres 31] = true := by decide +kernel

/-- R204 to R208: the common fields, the operands, and RC, SAT, MSK and RB where an opcode has no use for them. -/
theorem test_wf_vector_fields : allIllFormed [.vadd { okV2 with ty := 7 }, .vadd { okV2 with u := true },
    .vadd { okV2 with tkw := 1 }, .vadd { okV2 with tkw := 6 }, .vadd { okV2 with tkp := 3 }, .vadd { okV2 with grd := 3 },
    .vadd { okV2 with d := ⟨0x10, false, 0, 0⟩ }, .vadd { okV2 with d := ⟨0x20, false, 0, 0⟩ },
    .vadd { okV2 with d := ⟨0x26, false, 0, 0⟩ }, .vadd { okV2 with d := ⟨0x28, false, 0, 0⟩ },
    .vadd { okV2 with d := ⟨0x2A, false, 0, 0⟩ }, .vadd { okV2 with d := ⟨4, true, 0, 0⟩ },
    .vadd { okV2 with d := ⟨4, false, 1, 0⟩ }, .vadd { okV2 with x := ⟨0x24, false, 0, 0⟩ },
    .vadd { okV2 with x := ⟨0x28, false, 0, 0⟩ }, .vadd { okV2 with y := ⟨0x2B, false, 0, 0⟩ },
    .vadd { okV2 with x := ⟨1, false, 0, 9⟩ }, .vadd { okV2 with x := ⟨0x10, true, 0, 0⟩ },
    .vadd { okV2 with y := ⟨0x29, false, 1, 0⟩ }, .vadd { okV2 with ty := 3, y := ⟨0x2A, false, 16, 0⟩ },
    .vadd { okV2 with ty := 4, rc := 1 }, .vadd { okV2 with rb := 1 }, .vadd { okV2 with rc := 7, rb := 1 },
    .vadd { okV2 with pa := 1 }, .vmov { okV with y := ⟨1, false, 0, 0⟩ }, .vmov { okV with rc := 1 },
    .vmov { okV with sat := true }, .mpush { okV with d := ⟨0, false, 0, 0⟩, msk := true }] = true := by decide +kernel

/-- R209: the types, the per-opcode area and the operands of the opcodes that limit them. -/
theorem test_wf_vector_forms : allIllFormed [.vdiv { okV2 with ty := 3 }, .vdiv { okV2 with ty := 4 }, .vabs { okV with rc := 1 },
    .vfma { okV2 with ty := 3 }, .vfma { okV2 with pa := 0x1500 }, .vfms { okV2 with pa := 0x840 }, .vsel { okV2 with pa := 1 },
    .vand { okV2 with ty := 0 }, .vshl { okV2 with ty := 1 }, .vshr { okV2 with ty := 4, sat := true },
    .vmulh { okV2 with ty := 4, u := true, sat := true }, .vexp2 { okV with ty := 1 }, .vsig { okV with rc := 1 },
    .vceq { okV2 with rc := 1 }, .vcvt { okV with ty := 3 }, .vcvt { okV with ty := 4, pa := 0xC00 },
    .vcvt { okV with pa := 0x1C00 }, .vcvt { okV with pa := 0x200 }, .vcvt { okV with pa := 1 }, .vqd8 { okV with ty := 1 },
    .vqd8 { okV with pa := 0x600 }, .vqi8 { okV with ty := 4 }, .vqi8 { okV with ty := 6, pa := 1 },
    .vsca { okV2 with ty := 1 }, .vscd { okV2 with ty := 4 }, .vssel { okV with ty := 5 }, .vssel { okV with ty := 4, u := true },
    .vrsum { okV with ty := 3 }, .vrmax { okV with rc := 1 }, .vrot { okV with pa := 1 }, .vperm { okV2 with sat := true },
    .vpack { okV2 with ty := 0 }, .vpack { okV2 with ty := 3 }, .vunpk { okV2 with ty := 0 }, .vunpk { okV2 with ty := 4 },
    .vrseed { okV with ty := 4 }, .vrseed { okV with d := ⟨0, false, 0, 0⟩ }, .mpush okV, .minv { blankV with ty := 1 },
    .mpop { blankV with pa := 1 }, .vbz okV, .vbr { blankV with msk := true }, .vjmp { blankV with sat := true },
    .vloop { okV with d := ⟨0, false, 0, 0⟩ }, .vapply { okV with d := ⟨0, false, 0, 0⟩, ty := 4 },
    .vapply { okV with d := ⟨0, false, 0, 0⟩, ty := 4, u := true, sq := true }, .vscat okV2,
    .vbqsnd { blankV with pa := 1 }] = true := by decide +kernel

/-- R210, R211. -/
theorem test_wf_matrix : allIllFormed [.mma { okM with mode := 4 }, .mma { okM with rc := 1 }, .mma { okM with sq := true },
    .mma { okM with tkw := 7 }, .mma { okM with tkp := 2 }, .mma { okM with grd := 1 }, .mma { okM with hsz := 1 },
    .mma { okM with dq := true }, .mma { okM with pa := 1 }, .mma { okM with atile := 120, kt := 8 },
    .mma { okM with mode := 2, atile := 126, kt := 1 }, .mma { okM with wsrc := 8 }, .mma { okM with mode := 3, wsrc := 1 },
    .mma { okM with wsrc := 6, kt := 2 }, .mma { okM with mode := 2, wsrc := 4, kt := 2 }, .mmaw { okM with wsrc := 7 },
    .mmaw { okM with wsrc := 12 }, .mmaq { okM with mode := 1 }, .mmaq { okM with acc := true }, .mhad okM,
    .mhad { okM with hsz := 1, zi := true }, .mhad { okM with hsz := 1, kt := 1 }, .mhad { okM with hsz := 1, wsrc := 1 },
    .mhad { okM with hsz := 1, mode := 2, atile := 127 }, .mwld { okM with wsrc := 8 }, .mwld { okM with pa := 1 },
    .mdrn { okM with rc := 5 }, .mdrn { okM with dfmt := 4 }, .mdrn { okM with row0 := 100, nrow := 28 },
    .mdrn { okM with atile := 1 }, .mzero { okM with con := true }, .mloop okM, .mloop { okM with pa := 0x100000000000000000001 },
    .mbr { okM with pa := 1 }, .mjmp { okM with acc := true }, .mnop { okM with acc := true }] = true := by decide +kernel

/-! ### Words of the encoding tables

Each word is put together from the fields of its rule, the operands at values that show their places and widths. -/

/-- Every word of the list decodes to the instruction beside it. -/
def allRead (st : Stream) (l : List (Nat × Instr)) : Bool :=
  l.all (fun e => match decodeBits st e.1 with
    | .ok i => i == e.2
    | .error _ => false)

/-- R202, R219: two-operand words, from the fields of R200. -/
theorem test_decode_s_arithmetic : allRead .s [
   (0x06A64800, .add 21 6 9), (0x06A64801, .sub 21 6 9), (0x06A64802, .and 21 6 9), (0x06A64803, .or 21 6 9),
   (0x06A64804, .xor 21 6 9), (0x06A64805, .sll 21 6 9), (0x06A64806, .srl 21 6 9), (0x06A64807, .sra 21 6 9),
   (0x06A64808, .mul 21 6 9), (0x06A64809, .mulh 21 6 9), (0x06A6480A, .mulhu 21 6 9), (0x06A6480B, .div 21 6 9),
   (0x06A6480C, .divu 21 6 9), (0x06A6480D, .rem 21 6 9), (0x06A6480E, .remu 21 6 9), (0x06A6480F, .slt 21 6 9),
   (0x06A64810, .sltu 21 6 9), (0x06A64811, .min 21 6 9), (0x06A64812, .max 21 6 9), (0x06A64813, .minu 21 6 9),
   (0x06A64814, .maxu 21 6 9), (0x06A60015, .clz 21 6), (0x06A60016, .popc 21 6)] = true := by decide +kernel

/-- R202, R221: immediates; a shift by 63. -/
theorem test_decode_s_immediates : allRead .s [
   (0x0AA68001, .addi 21 6 0x8001), (0x0EA68001, .andi 21 6 0x8001), (0x12A68001, .ori 21 6 0x8001),
   (0x16A68001, .xori 21 6 0x8001), (0x1AA6003F, .slli 21 6 0x3f), (0x1EA6003F, .srli 21 6 0x3f),
   (0x22A6003F, .srai 21 6 0x3f), (0x26A68001, .slti 21 6 0x8001), (0x2AA68001, .sltiu 21 6 0x8001),
   (0x2EA08001, .lui 21 0x8001)] = true := by decide +kernel

/-- R202, R223, R224: loads and stores. -/
theorem test_decode_s_loads_and_stores : allRead .s [
   (0x42A68001, .ldb 21 6 0x8001), (0x46A68001, .ldbu 21 6 0x8001), (0x4AA68001, .ldh 21 6 0x8001),
   (0x4EA68001, .ldhu 21 6 0x8001), (0x52A68001, .ldw 21 6 0x8001), (0x56A68001, .ldwu 21 6 0x8001),
   (0x5AA68001, .ldd 21 6 0x8001), (0x62A68001, .stb 21 6 0x8001), (0x66A68001, .sth 21 6 0x8001),
   (0x6AA68001, .stw 21 6 0x8001), (0x6EA68001, .std 21 6 0x8001)] = true := by decide +kernel

/-- R202, R225, R226: branches and jumps. -/
theorem test_decode_s_branches : allRead .s [
   (0x80C98001, .beq 6 9 0x8001), (0x84C98001, .bne 6 9 0x8001), (0x88C98001, .blt 6 9 0x8001),
   (0x8CC98001, .bge 6 9 0x8001), (0x90C98001, .bltu 6 9 0x8001), (0x94C98001, .bgeu 6 9 0x8001),
   (0x9A000003, .j 0x2000003), (0x9E000003, .jal 0x2000003), (0xA0060000, .jr 6), (0xA2A60001, .jalr 21 6)] = true := by decide +kernel

/-- R202, R227 to R230: STRM, loops, outcomes and tokens. -/
theorem test_decode_s_streams_and_tokens : allRead .s [
   (0xA0460002, .strm 2 6), (0xA4C8FFFE, .loop 6 2 0xfffe), (0xA8408001, .bqrcv 2 0x8001), (0xAC600000, .toks 3),
   (0xAC200001, .tokw 1), (0xAC460002, .bqsnd 2 6)] = true := by decide +kernel

/-- R202, R232 to R238: phases, groups and tasks. -/
theorem test_decode_s_groups_and_tasks : allRead .s [
   (0xB0000000, .phase), (0xB0064801, .gbar 6 9), (0xB2A64802, .join 21 6 9), (0xB0060003, .leave 6),
   (0xB2A64804, .spawn 21 6 9), (0xB0000005, .tend), (0xB0000006, .yield)] = true := by decide +kernel

/-- R202, R239 to R253: claims, closures and doors. -/
theorem test_decode_s_claims_closures_doors : allRead .s [
   (0xB7C64E80, .claim 30 6 9 26), (0xB4C64E81, .clpark 6 9 26), (0xB6BD4E82, .fulfil 21 29 9 26),
   (0xB6A14803, .abandon 21 1 9), (0xB8A64800, .capt 5 6 9), (0xB8C64801, .captr 6 6 9),
   (0xBAA34802, .apply 21 3 9), (0xB8470003, .kdup 2 7), (0xB8E00004, .krel 7), (0xBB040005, .kenv 24 4),
   (0xBE860000, .doorw 20 6), (0xBC064801, .doors 6 9)] = true := by decide +kernel

/-- R202, R254 to R256: CSRs, traps and quiet words. -/
theorem test_decode_s_system : allRead .s [
   (0xC2A00029, .csrr 21 0x29), (0xC6A00029, .csrw 21 0x29), (0xE0000000, .nop), (0xE0000001, .eret),
   (0xE0000002, .wfe), (0xE0000003, .brk), (0xE4008001, .trap 0x8001)] = true := by decide +kernel

/-- R202, R337 to R341: privileged words; the VIMAP rows share one. -/
theorem test_decode_s_privileged : allRead .s [
   (0xF2A64800, .vishut 21 6 9), (0xF2A64801, .vikeyz 21 6 9), (0xF2A64802, .virev 21 6 9),
   (0xF2A60003, .vimapLeaf 21 6)] = true := by decide +kernel

/-- R200, R202, R203: the X form takes its immediate from the second word. -/
theorem test_decode_x : allRead .s [(0x8000000230600000, .li 3 0x80000002)] && allRead .a [(0xFFFFFFFE33E00000, .liA 31 0xFFFFFFFE)] = true := by
  decide +kernel

/-- R203, R257: arithmetic of A. -/
theorem test_decode_a_arithmetic : allRead .a [
   (0x06A64800, .addA 21 6 9), (0x06A64801, .subA 21 6 9), (0x06A64802, .andA 21 6 9), (0x06A64803, .orA 21 6 9),
   (0x06A64804, .xorA 21 6 9), (0x06A64805, .sllA 21 6 9), (0x06A64806, .srlA 21 6 9),
   (0x06A64807, .sraA 21 6 9), (0x06A64808, .mulA 21 6 9), (0x06A64811, .minA 21 6 9),
   (0x06A64812, .maxA 21 6 9), (0x06A64813, .minuA 21 6 9), (0x06A64814, .maxuA 21 6 9),
   (0x0AA68001, .addiA 21 6 0x8001), (0x0EA68001, .andiA 21 6 0x8001), (0x12A68001, .oriA 21 6 0x8001),
   (0x16A68001, .xoriA 21 6 0x8001), (0x1AA6003F, .slliA 21 6 0x3f), (0x1EA6003F, .srliA 21 6 0x3f),
   (0x22A6003F, .sraiA 21 6 0x3f), (0x2EA08001, .luiA 21 0x8001)] = true := by decide +kernel

/-- R203, R259: scratchpad words, with C in function bit 10 and P in bit 9. -/
theorem test_decode_a_scratchpad : allRead .a [
   (0x40660600, .ldv 3 6 true true), (0x44464E00, .ldvs 2 6 9 true true), (0x48264E00, .ldvg 1 6 9 true true),
   (0x60260200, .stv 1 6 true), (0x64264A00, .stvs 1 6 9 true), (0x68064A00, .stvg 0 6 9 true)] = true := by decide +kernel

/-- R203, R258: branches, loops and tokens of A. -/
theorem test_decode_a_control : allRead .a [
   (0x80C98001, .abrEq 6 9 0x8001), (0x84C98001, .abrNe 6 9 0x8001), (0x88C98001, .abrLt 6 9 0x8001),
   (0x8CC98001, .abrGe 6 9 0x8001), (0x90C98001, .abrLtu 6 9 0x8001), (0x94C98001, .abrGeu 6 9 0x8001),
   (0x9A000003, .ajmp 0x2000003), (0xA4C8FFFE, .aloop 6 2 0xfffe), (0xA8008001, .abrBq 0x8001),
   (0xAC000000, .toksA 0), (0xAC600001, .tokwA 3), (0xAC060002, .bqsndA 6)] = true := by decide +kernel

/-- R203, R265 to R268: tiles and descriptors. -/
theorem test_decode_a_tiles : allRead .a [
   (0xA2A00000, .talloc 21), (0xA0060001, .tfree 6), (0xA0060002, .twaitf 6), (0xA0060003, .twaite 6),
   (0xA0060004, .tsetf 6), (0xA0060005, .tclr 6), (0xA2A60006, .tstat 21 6), (0xA0664807, .wdset 3 6 9)] = true := by decide +kernel

/-- R203, R269 to R285: engine commands and quiet words. -/
theorem test_decode_a_engines : allRead .a [
   (0xC2A64800, .cpy 21 6 9), (0xC2A6E001, .cpyf 21 6 28), (0xC2A64802, .cpymc 21 6 9),
   (0xC2A64803, .cpylr 21 6 9), (0xC2A64804, .cpyrd 21 6 9), (0xC0064805, .pref 6 9), (0xC2A60006, .sacc 21 6),
   (0xC0060007, .sigdec 6), (0xC0064808, .sigwait 6 9), (0xC0060009, .jdec 6), (0xC2A0000A, .cres 21),
   (0xE0000000, .nopA), (0xE0000003, .brkA)] = true := by decide +kernel

/-- R204 to R209: arithmetic, with a view, a peek, a rounding code and a stage guard. -/
theorem test_decode_v_arithmetic : allRead .v [
   (0x017C582000430A6132460000, .vadd ⟨3, true, true, true, 0, 5, 4, ⟨4, false, 0, 0⟩, ⟨0x21, true, 5, 3⟩, ⟨2, false, 100, 8⟩, 6, 0, false, 0⟩),
   (0x02BCD82000430A6132468000, .vsub ⟨5, true, true, true, 1, 5, 4, ⟨4, false, 0, 0⟩, ⟨0x21, true, 5, 3⟩, ⟨2, false, 100, 8⟩, 6, 2, false, 0⟩),
   (0x031F582000430A6132462000, .vmul ⟨0, true, true, true, 6, 5, 4, ⟨4, false, 0, 0⟩, ⟨0x21, true, 5, 3⟩, ⟨2, false, 100, 8⟩, 6, 0, true, 0⟩),
   (0x0439582000430A6132460000, .vdiv ⟨1, true, true, false, 2, 5, 4, ⟨4, false, 0, 0⟩, ⟨0x21, true, 5, 3⟩, ⟨2, false, 100, 8⟩, 6, 0, false, 0⟩),
   (0x0515D82000430A6132460000, .vmin ⟨0, true, false, true, 3, 5, 4, ⟨4, false, 0, 0⟩, ⟨0x21, true, 5, 3⟩, ⟨2, false, 100, 8⟩, 6, 0, false, 0⟩),
   (0x0616D82000430A6132460000, .vmax ⟨0, true, false, true, 5, 5, 4, ⟨4, false, 0, 0⟩, ⟨0x21, true, 5, 3⟩, ⟨2, false, 100, 8⟩, 6, 0, false, 0⟩),
   (0x071E582000430A6000060000, .vabs ⟨0, true, true, true, 4, 5, 4, ⟨4, false, 0, 0⟩, ⟨0x21, true, 5, 3⟩, ⟨0, false, 0, 0⟩, 6, 0, false, 0⟩),
   (0x081C582000430A6000060000, .vneg ⟨0, true, true, true, 0, 5, 4, ⟨4, false, 0, 0⟩, ⟨0x21, true, 5, 3⟩, ⟨0, false, 0, 0⟩, 6, 0, false, 0⟩),
   (0x09D0582000430A6132461340, .vfma ⟨6, true, false, false, 0, 5, 4, ⟨4, false, 0, 0⟩, ⟨0x21, true, 5, 3⟩, ⟨2, false, 100, 8⟩, 6, 0, false, 0x1340⟩),
   (0x0A50D82000430A6132460780, .vfms ⟨2, true, false, false, 1, 5, 4, ⟨4, false, 0, 0⟩, ⟨0x21, true, 5, 3⟩, ⟨2, false, 100, 8⟩, 6, 0, false, 0x780⟩)] = true := by decide +kernel

/-- R209: integer words, transcendentals, compares and selection. -/
theorem test_decode_v_logic_and_compares : allRead .v [
   (0x1016582000430A6132460000, .vand ⟨0, true, false, true, 4, 5, 4, ⟨4, false, 0, 0⟩, ⟨0x21, true, 5, 3⟩, ⟨2, false, 100, 8⟩, 6, 0, false, 0⟩),
   (0x1116D82000430A6132460000, .vor ⟨0, true, false, true, 5, 5, 4, ⟨4, false, 0, 0⟩, ⟨0x21, true, 5, 3⟩, ⟨2, false, 100, 8⟩, 6, 0, false, 0⟩),
   (0x1217582000430A6132460000, .vxor ⟨0, true, false, true, 6, 5, 4, ⟨4, false, 0, 0⟩, ⟨0x21, true, 5, 3⟩, ⟨2, false, 100, 8⟩, 6, 0, false, 0⟩),
   (0x131A582000430A6132462000, .vshl ⟨0, true, true, false, 4, 5, 4, ⟨4, false, 0, 0⟩, ⟨0x21, true, 5, 3⟩, ⟨2, false, 100, 8⟩, 6, 0, true, 0⟩),
   (0x1412D82000430A6132462000, .vshr ⟨0, true, false, false, 5, 5, 4, ⟨4, false, 0, 0⟩, ⟨0x21, true, 5, 3⟩, ⟨2, false, 100, 8⟩, 6, 0, true, 0⟩),
   (0x151B582000430A6132460000, .vmulh ⟨0, true, true, false, 6, 5, 4, ⟨4, false, 0, 0⟩, ⟨0x21, true, 5, 3⟩, ⟨2, false, 100, 8⟩, 6, 0, false, 0⟩),
   (0x1814582000430A6000060000, .vexp2 ⟨0, true, false, true, 0, 5, 4, ⟨4, false, 0, 0⟩, ⟨0x21, true, 5, 3⟩, ⟨0, false, 0, 0⟩, 6, 0, false, 0⟩),
   (0x1910582000430A6000060000, .vlog2 ⟨0, true, false, false, 0, 5, 4, ⟨4, false, 0, 0⟩, ⟨0x21, true, 5, 3⟩, ⟨0, false, 0, 0⟩, 6, 0, false, 0⟩),
   (0x1A10582000430A6000060000, .vrcp ⟨0, true, false, false, 0, 5, 4, ⟨4, false, 0, 0⟩, ⟨0x21, true, 5, 3⟩, ⟨0, false, 0, 0⟩, 6, 0, false, 0⟩),
   (0x1B10582000430A6000060000, .vrsq ⟨0, true, false, false, 0, 5, 4, ⟨4, false, 0, 0⟩, ⟨0x21, true, 5, 3⟩, ⟨0, false, 0, 0⟩, 6, 0, false, 0⟩),
   (0x1C10582000430A6000060000, .vtanh ⟨0, true, false, false, 0, 5, 4, ⟨4, false, 0, 0⟩, ⟨0x21, true, 5, 3⟩, ⟨0, false, 0, 0⟩, 6, 0, false, 0⟩),
   (0x1D10582000430A6000060000, .vsig ⟨0, true, false, false, 0, 5, 4, ⟨4, false, 0, 0⟩, ⟨0x21, true, 5, 3⟩, ⟨0, false, 0, 0⟩, 6, 0, false, 0⟩),
   (0x2015D82000430A6132460000, .vceq ⟨0, true, false, true, 3, 5, 4, ⟨4, false, 0, 0⟩, ⟨0x21, true, 5, 3⟩, ⟨2, false, 100, 8⟩, 6, 0, false, 0⟩),
   (0x2112582000430A6132460000, .vcne ⟨0, true, false, false, 4, 5, 4, ⟨4, false, 0, 0⟩, ⟨0x21, true, 5, 3⟩, ⟨2, false, 100, 8⟩, 6, 0, false, 0⟩),
   (0x2210D82000430A6132460000, .vclt ⟨0, true, false, false, 1, 5, 4, ⟨4, false, 0, 0⟩, ⟨0x21, true, 5, 3⟩, ⟨2, false, 100, 8⟩, 6, 0, false, 0⟩),
   (0x2312D82000430A6132462000, .vcle ⟨0, true, false, false, 5, 5, 4, ⟨4, false, 0, 0⟩, ⟨0x21, true, 5, 3⟩, ⟨2, false, 100, 8⟩, 6, 0, true, 0⟩),
   (0x2411582000430A6132461480, .vsel ⟨0, true, false, false, 2, 5, 4, ⟨4, false, 0, 0⟩, ⟨0x21, true, 5, 3⟩, ⟨2, false, 100, 8⟩, 6, 0, false, 0x1480⟩)] = true := by decide +kernel

/-- R209: conversions, scales, reductions and moves. -/
theorem test_decode_v_conversions_and_moves : allRead .v [
   (0x283A582000430A6000062400, .vcvt ⟨1, true, true, false, 4, 5, 4, ⟨4, false, 0, 0⟩, ⟨0x21, true, 5, 3⟩, ⟨0, false, 0, 0⟩, 6, 0, true, 0x400⟩),
   (0x29B0582000430A600006D200, .vqd8 ⟨5, true, false, false, 0, 5, 4, ⟨4, false, 0, 0⟩, ⟨0x21, true, 5, 3⟩, ⟨0, false, 0, 0⟩, 6, 3, false, 0x1200⟩),
   (0x2A93582000430A6000063C00, .vqi8 ⟨4, true, false, false, 6, 5, 4, ⟨4, false, 0, 0⟩, ⟨0x21, true, 5, 3⟩, ⟨0, false, 0, 0⟩, 6, 0, true, 0x1C00⟩),
   (0x2B5C582000430A6132460000, .vsca ⟨2, true, true, true, 0, 5, 4, ⟨4, false, 0, 0⟩, ⟨0x21, true, 5, 3⟩, ⟨2, false, 100, 8⟩, 6, 0, false, 0⟩),
   (0x2C30582000430A757FFE0000, .vscd ⟨1, true, false, false, 0, 5, 4, ⟨4, false, 0, 0⟩, ⟨0x21, true, 5, 3⟩, ⟨0x2A, true, 127, 15⟩, 6, 0, false, 0⟩),
   (0x2D12582000430A6000061600, .vssel ⟨0, true, false, false, 4, 5, 4, ⟨4, false, 0, 0⟩, ⟨0x21, true, 5, 3⟩, ⟨0, false, 0, 0⟩, 6, 0, false, 0x1600⟩),
   (0x307D582000430A6000060000, .vrsum ⟨3, true, true, true, 2, 5, 4, ⟨4, false, 0, 0⟩, ⟨0x21, true, 5, 3⟩, ⟨0, false, 0, 0⟩, 6, 0, false, 0⟩),
   (0x3115D82000430A6000060000, .vrmax ⟨0, true, false, true, 3, 5, 4, ⟨4, false, 0, 0⟩, ⟨0x21, true, 5, 3⟩, ⟨0, false, 0, 0⟩, 6, 0, false, 0⟩),
   (0x3213582000430A6000062000, .vrmin ⟨0, true, false, false, 6, 5, 4, ⟨4, false, 0, 0⟩, ⟨0x21, true, 5, 3⟩, ⟨0, false, 0, 0⟩, 6, 0, true, 0⟩),
   (0x3410D82000430A6000061FC0, .vrot ⟨0, true, false, false, 1, 5, 4, ⟨4, false, 0, 0⟩, ⟨0x21, true, 5, 3⟩, ⟨0, false, 0, 0⟩, 6, 0, false, 0x1FC0⟩),
   (0x3515D82000430A6F80060000, .vperm ⟨0, true, false, true, 3, 5, 4, ⟨4, false, 0, 0⟩, ⟨0x21, true, 5, 3⟩, ⟨0x1F, false, 0, 0⟩, 6, 0, false, 0⟩),
   (0x3658D82000430A6132460000, .vpack ⟨2, true, true, false, 1, 5, 4, ⟨4, false, 0, 0⟩, ⟨0x21, true, 5, 3⟩, ⟨2, false, 100, 8⟩, 6, 0, false, 0⟩),
   (0x3713582000430A6132462000, .vunpk ⟨0, true, false, false, 6, 5, 4, ⟨4, false, 0, 0⟩, ⟨0x21, true, 5, 3⟩, ⟨2, false, 100, 8⟩, 6, 0, true, 0⟩),
   (0x3812D92800430A6000060000, .vmov ⟨0, true, false, false, 5, 5, 4, ⟨0x25, false, 0, 0⟩, ⟨0x21, true, 5, 3⟩, ⟨0, false, 0, 0⟩, 6, 0, false, 0⟩),
   (0x3912594800430A6000060000, .vldi ⟨0, true, false, false, 4, 5, 4, ⟨0x29, false, 0, 0⟩, ⟨0x21, true, 5, 3⟩, ⟨0, false, 0, 0⟩, 6, 0, false, 0⟩)] = true := by decide +kernel

/-- R209: seeds, masks, control flow and scatters. -/
theorem test_decode_v_control : allRead .v [
   (0x3A12580000430A600006A000, .vrseed ⟨0, true, false, false, 4, 5, 4, ⟨0, false, 0, 0⟩, ⟨0x21, true, 5, 3⟩, ⟨0, false, 0, 0⟩, 6, 2, true, 0⟩),
   (0x4011D80000430A6000060000, .mpush ⟨0, true, false, false, 3, 5, 4, ⟨0, false, 0, 0⟩, ⟨0x21, true, 5, 3⟩, ⟨0, false, 0, 0⟩, 6, 0, false, 0⟩),
   (0x411058000000000000060000, .minv ⟨0, true, false, false, 0, 5, 4, ⟨0, false, 0, 0⟩, ⟨0, false, 0, 0⟩, ⟨0, false, 0, 0⟩, 6, 0, false, 0⟩),
   (0x421058000000000000060000, .mpop ⟨0, true, false, false, 0, 5, 4, ⟨0, false, 0, 0⟩, ⟨0, false, 0, 0⟩, ⟨0, false, 0, 0⟩, 6, 0, false, 0⟩),
   (0x481058000000000000061FFF, .vbz ⟨0, true, false, false, 0, 5, 4, ⟨0, false, 0, 0⟩, ⟨0, false, 0, 0⟩, ⟨0, false, 0, 0⟩, 6, 0, false, 0x1FFF⟩),
   (0x491058000000000000061000, .vbr ⟨0, true, false, false, 0, 5, 4, ⟨0, false, 0, 0⟩, ⟨0, false, 0, 0⟩, ⟨0, false, 0, 0⟩, 6, 0, false, 0x1000⟩),
   (0x4A1058000000000000060003, .vjmp ⟨0, true, false, false, 0, 5, 4, ⟨0, false, 0, 0⟩, ⟨0, false, 0, 0⟩, ⟨0, false, 0, 0⟩, 6, 0, false, 3⟩),
   (0x4B10580000540C8000061FFF, .vloop ⟨0, true, false, false, 0, 5, 4, ⟨0, false, 0, 0⟩, ⟨0x2A, false, 6, 4⟩, ⟨0, false, 0, 0⟩, 6, 0, false, 0x1FFF⟩),
   (0x4C06580000430A6000062000, .vapply ⟨0, false, false, true, 4, 5, 4, ⟨0, false, 0, 0⟩, ⟨0x21, true, 5, 3⟩, ⟨0, false, 0, 0⟩, 6, 0, true, 0⟩),
   (0x4D16594000430A6132460000, .vscat ⟨0, true, false, true, 4, 5, 4, ⟨0x28, false, 0, 0⟩, ⟨0x21, true, 5, 3⟩, ⟨2, false, 100, 8⟩, 6, 0, false, 0⟩),
   (0x4E1058000000000000060000, .vbqsnd ⟨0, true, false, false, 0, 5, 4, ⟨0, false, 0, 0⟩, ⟨0, false, 0, 0⟩, ⟨0, false, 0, 0⟩, 6, 0, false, 0⟩)] = true := by decide +kernel

/-- R210, R211: the words of M. -/
theorem test_decode_m : allRead .m [
   (0x0102B3F81400000600000000000000000000000000000000, .mma ⟨0, false, 2, 5, 4, true, true, true, 120, 1, 4, 0, 0, false, 0, 0, 6, 0x0⟩),
   (0x0201B270FB00000600000000000000000000000000000000, .mmaw ⟨0, false, 1, 5, 4, true, false, false, 112, 15, 11, 0, 0, false, 0, 0, 6, 0x0⟩),
   (0x0300B0000000000600000000000000000000000000000000, .mmaq ⟨0, false, 0, 5, 4, false, false, false, 0, 0, 0, 0, 0, false, 0, 0, 6, 0x0⟩),
   (0x0403B2FE00C0000600000000000000000000000000000000, .mhad ⟨0, false, 3, 5, 4, true, false, true, 126, 0, 0, 3, 0, false, 0, 0, 6, 0x0⟩),
   (0x0500B0000700000680000000000000000000000000000000, .mwld ⟨0, false, 0, 5, 4, false, false, false, 0, 0, 7, 0, 0, false, 0, 0, 6, 0x80000000000000000000000000000000⟩),
   (0x06F0B200000B90DE00000000000000000000000000000000, .mdrn ⟨7, true, 0, 5, 4, true, false, false, 0, 0, 0, 0, 2, true, 100, 27, 6, 0x0⟩),
   (0x0710B2000000000600000000000000000000000000000000, .mzero ⟨0, true, 0, 5, 4, true, false, false, 0, 0, 0, 0, 0, false, 0, 0, 6, 0x0⟩),
   (0x0800B0000000000680000001FFFF00000000000000000000, .mloop ⟨0, false, 0, 5, 4, false, false, false, 0, 0, 0, 0, 0, false, 0, 0, 6, 0x80000001FFFF00000000000000000000⟩),
   (0x0900B0000000000680010000000000000000000000000000, .mbr ⟨0, false, 0, 5, 4, false, false, false, 0, 0, 0, 0, 0, false, 0, 0, 6, 0x80010000000000000000000000000000⟩),
   (0x0A00B000000000067FFF0000000000000000000000000000, .mjmp ⟨0, false, 0, 5, 4, false, false, false, 0, 0, 0, 0, 0, false, 0, 0, 6, 0x7FFF0000000000000000000000000000⟩),
   (0x0B10B0000000000600000000000000000000000000000000, .mnop ⟨0, true, 0, 5, 4, false, false, false, 0, 0, 0, 0, 0, false, 0, 0, 6, 0x0⟩)] = true := by decide +kernel

/-! ### States for the witnesses -/

/-- VI 0 of the bench: claim tables of one bucket on each die, four parked-waiter nodes, one virtual core, two task
queues and four doors. -/
def benchVi (e : BitVec 1024) : BitVec 1024 :=
  let e := setField (setField e (8 * 40) 64 (65536 * 4102)) (8 * 48) 64 (65536 * 4101)
  let e := setField (setField e (8 * 56) 64 (384 * 2 ^ 46 + 65536 * 4101)) (8 * 72) 32 4
  let e := setField (setField e (8 * 76) 16 1) (8 * 80) 16 0
  setField (setField e (8 * 84) 16 2) (8 * 88) 16 4

/-- An enabled queue of 64 records at 0x11000, or another address; an enabled door of 16 messages. -/
def benchQueue (base : Nat) : Line := BitVec.ofNat 512 (base * 2 ^ 448 + 2 ^ 55)
def benchDoor (base : Nat) (out : Bool) : Door := ⟨BitVec.ofNat 512 (base * 2 ^ 448 + 2 ^ 47 + (if out then 2 ^ 63 else 0)), 0⟩

/-- Virtual core 0 of VI 0 on core 0, bound to task queue 0. -/
def benchCore : Line := BitVec.ofNat 512 (2 ^ 489 + 0x8000)

/-- A context of VI 0 in bank 0 of core 0, with its code at address 0 and a page of data at 0x10000. -/
def bench : State :=
  let s := State.reset.withFetchWord 32 0xE0000000
  let s := { s with cycle := 1000, agenda := [], fresh := 1,
                    mem := s.mem.pokeBytes (65536 * 4098 + 16) (leBytes 16 (7 + 65536 * 4100)) }
  let s := s.modDie 0 (fun d => { d.setPage 4100 ⟨0, 0, true, false, false, false⟩ with coreMap := [(0, benchCore)] })
  let s := s.modPkg 0 (fun k => { k with
    viMap := [(0, benchVi (k.vi 0))], queues := [(0, benchQueue 0x11000), (1, benchQueue 0x12000)],
    doors := [(0, benchDoor 0x13000 true), (1, benchDoor 0x14000 false), (2, benchDoor 0x15000 true)] })
  s.modCore 0 (fun c => { c with running := some false })

/-- The bench with values in s or a registers. -/
def withS (s : State) (l : List (Reg × Dword)) : State := l.foldl (fun s e => s.wS e.1 e.2) s
def withA (s : State) (l : List (Reg × Dword)) : State := l.foldl (fun s e => s.wA e.1 e.2) s

/-- The bench with the issuing context changed. -/
def withC (s : State) (f : Ctx → Ctx) : State := s.modCur f

/-! ### Witnesses of the statements' hypotheses -/

/-- An answer that is there and has a property. -/
def okWith {ε α : Type} (x : Except ε α) (q : α → Bool) : Bool := match x with | .ok v => q v | .error _ => false

theorem okWith_exists {ε α : Type} {x : Except ε α} {q : α → Bool} (h : okWith x q = true) : ∃ v, x = .ok v ∧ q v = true := by
  cases x with
  | ok v => exact ⟨v, rfl, h⟩
  | error e => exact absurd h (by simp [okWith])

/-- Something that is there. -/
def isOk {ε α : Type} (x : Except ε α) : Bool := okWith x (fun _ => true)

/-- An operation on an address is answered now by its die, which has not performed it before. -/
def reachedB (s : State) (die addr : Nat) : Bool :=
  answersNow s (here s) die addr && ((s.cur.lostFor die addr).bind Lost.answer).isNone

theorem reached_of {s : State} {die addr : Nat} (h : reachedB s die addr = true) : reached s die addr := by
  simpa [reachedB, reached] using h

/-- An execution that answers a next state. -/
def runs (i : Instr) (s : State) : Bool := match exec i s with | .next _ => true | _ => false

/-- A V word can issue, as a check. -/
def vReadyB (w : VWord) (srcs : List Source) (d : PushDest) (s : State) : Bool :=
  decide (w.grd = 0 ∨ s.cur.loopV.g (w.grd.toNat % 4) = true) &&
  (match waitIdx 2 w.tkw with | some i => s.cur.tokens s.pen i != 0 | none => true) &&
  (List.range srcs.length).all (fun n => match srcs[n]? with
    | some x => !x.key.isFifo || decide (x.place (srcs.take n) < ((s.cur.settledLq s.cycle).fifo x.key).length)
    | none => true) &&
  !s.cur.destFull d && !s.cur.destOver d srcs &&
  (match postIdx 2 w.tkp with | some i => !s.cur.postFull s.pen i | none => true) &&
  (roundingOf w (s.cur.rmode.read s.pen)).isSome

theorem vReady_of {w : VWord} {srcs : List Source} {d : PushDest} {s : State} (h : vReadyB w srcs d s = true) :
    vReady w srcs d s := by
  simp only [vReadyB, Bool.and_eq_true, decide_eq_true_eq, Bool.not_eq_true', List.all_eq_true, List.mem_range] at h
  obtain ⟨⟨⟨⟨⟨⟨h1, h2⟩, h3⟩, h4⟩, h5⟩, h6⟩, h7⟩ := h
  refine ⟨h1, fun i hi => ?_, fun n x hx hf => ?_, h4, h5, fun i hi => ?_, h7⟩
  · rw [hi] at h2; simpa using h2
  · have := h3 n (List.getElem?_eq_some_iff.mp hx).1
    rw [hx] at this; simpa [hf] using this
  · rw [hi] at h6; simpa using h6

/-- An M word can issue, as a check. -/
def mReadyB (w : MWord) (array : Bool) (s : State) : Bool :=
  (s.cur.again || (decide (w.grd = 0 ∨ s.cur.loopM.g (w.grd.toNat % 4) = true) &&
    (match waitIdx 3 w.tkw with | some i => s.cur.tokens s.pen i != 0 | none => true))) &&
  !s.cur.holdsBack && (!array || decide (s.cur.run = none)) &&
  (match postIdx 3 w.tkp with | some i => !s.cur.postFull s.pen i | none => true)

theorem mReady_of {w : MWord} {array : Bool} {s : State} (h : mReadyB w array s = true) : mReady w array s := by
  simp only [mReadyB, Bool.and_eq_true, Bool.or_eq_true, decide_eq_true_eq, Bool.not_eq_true'] at h
  obtain ⟨⟨⟨h1, h2⟩, h3⟩, h4⟩ := h
  refine ⟨h1.imp id fun g => ⟨g.1, fun i hi => ?_⟩, h2, fun ha => ?_, fun i hi => ?_⟩
  · have := g.2; rw [hi] at this; simpa using this
  · simpa [ha] using h3
  · rw [hi] at h4; simpa using h4

/-- ScalarLoadsComplete, ScalarStoresComplete: the last aligned address of a line, for every size. -/
theorem meets_loads_and_stores : let s := withS bench [(2, 0x10038)]
    (∀ n ∈ ([1, 2, 4, 8] : List Nat), ea s 2 0 % n = 0) ∧ isOk (viewLine s s.focus.key (ea s 2 0)) = true ∧
    (∃ w, checkSource s (own s) Need.write (ea s 2 0) = .ok w ∧
      (!isDescriptor s w.gpa s.pen && decide (s.cur.sbuf.length < 128)) = true) := by
  refine ⟨by decide +kernel, by decide +kernel, okWith_exists (by decide +kernel)⟩

/-- OwnStoreIsSeen: the same, the buffer empty. -/
theorem meets_own_store : let s := withS bench [(2, 0x10038), (1, 0xFFEEDDCCBBAA9988)]
    (∀ e ∈ scalarStores, ea s 2 0 % e.2 = 0 ∧ runs (e.1 1 2 0) s = true) ∧
    (∃ w, checkSource s (own s) Need.write (ea s 2 0) = .ok w ∧
      (!isDescriptor s w.gpa s.pen && decide (s.cur.sbuf = []) && decide (s.cur.spill = [])) = true) := by
  refine ⟨by decide +kernel, okWith_exists (by decide +kernel)⟩

/-- FirstLoadSeesMemory. -/
theorem meets_first_load : ∃ w, checkSource bench (own bench) Need.read 0x10000 = .ok w ∧
    ((checkTarget bench (own bench).pen w.leaf w.gpa false).isNone && dieOfGpa w.gpa == bench.cur.die && w.leaf.cmp == 0 &&
     !w.leaf.e && decide (bench.cur.sbuf = []) && decide (bench.cur.spill = []) && (seenLine bench (here bench) (own bench).pen (w.gpa / 64)).isNone) = true :=
  okWith_exists (by decide +kernel)

/-- LoopsBegin: the greatest count. -/
theorem meets_loops : let s := withA (withS bench [(4, 0xFFFFFFFF)]) [(4, 0xFFFFFFFF)]
    s.cur.loopS.act = false ∧ (s.rS 4).toNat < 2 ^ 32 ∧ s.cur.loopA.act = false ∧ (s.rA 4).toNat < 2 ^ 32 := by decide +kernel

/-- LoopBackEdge: a body of two words at its last word on its last pass but one, on its last, at a long word that passes its
end, and a branch to its end. -/
theorem meets_back_edge : let l : Loop := ⟨2, 1, 0, 0x100, 0x108, true, 0⟩
    l.act = true ∧ l.start ≤ 0x104 ∧ (0x104 : Dword) < l.fin ∧ l.next 0x104 4 = ({ l with p := 1 }, 0x100) ∧
    { l with p := 1 }.next 0x104 4 = ({ l with p := 1, act := false }, 0x108) ∧
    l.next 0x104 8 = ({ l with act := false }, 0x10C) ∧ l.next 0x100 4 = (l, 0x104) ∧
    l.jump 0x100 = l ∧ l.jump 0x108 = { l with act := false } := by decide +kernel

/-- TokensComplete: the last post there is room for, the last token, and none. -/
theorem meets_tokens : let s := withC bench (fun c => { c with tok := c.tok.set 0 ⟨bench.pen, 62⟩ |>.set 3 ⟨bench.pen, 1⟩ })
    s.cur.tokens s.pen (tokenQueue .s .a) + s.cur.pendingPosts (tokenQueue .s .a) < 63 ∧
    0 < s.cur.tokens s.pen (tokenQueue .a .s) ∧ s.cur.tokens s.pen (tokenQueue .v .s) = 0 := by decide +kernel

/-- OutcomesComplete: queues with room for one, and with one. -/
theorem meets_outcomes : let q := List.replicate 15 (⟨bench.pen, 1⟩ : Tag 1)
    let s := withC bench (fun c => { c with bqSA := q, bqSV := q, bqSM := q, bqAS := q, bqVS := q })
    (∀ i, i < 5 → (s.cur.bq i).length < 16 ∧ s.cur.bq i = ⟨bench.pen, 1⟩ :: q.tail) := by decide +kernel

theorem meets_strm : bench.cur.handler = false ∧ ∀ x ∈ [Stream.a, .v, .m], bench.cur.idle x = true := by decide +kernel

/-- A command of the bench. -/
def benchCmd (seq : BitVec 16) (state : CmdState) (words : Line) : Cmd :=
  ⟨words, 0, seq, state, 0, 0, false, [], [], [], [], none, 0, 0, 0, 0⟩

/-- PhaseCommits: one store of the line's last byte; none; and a command that has not completed. -/
theorem meets_phase : let s := withC bench (fun c => { c with sbuf := [⟨0x400, 0xAB, 2 ^ 63, bench.pen, none, 0⟩] })
    (∃ w, checkSource s (own s) Need.write (64 * 0x400) = .ok w ∧
      (dieOfGpa w.gpa == s.cur.die && (checkTarget s s.pen w.leaf w.gpa false).isNone && w.leaf.cmp == 0 && !w.leaf.e &&
        !w.leaf.wct) = true) ∧ s.cur.cmdsDone = true ∧ s.cur.spill = [] ∧ s.cur.paused = [] ∧
    bench.cur.cmdsDone = true ∧ bench.cur.sbuf = [] ∧ bench.cur.spill = [] ∧
    (withC bench (fun c => { c with cmds := [benchCmd 0 .queued 0] })).cur.cmdsDone = false :=
  ⟨okWith_exists (by decide +kernel), by decide +kernel⟩

/-- The descriptor at s[a] is reached now, and its place and contents have a property. -/
def describesB (s : State) (a : Reg) (q : Where → Line → Bool) : Bool :=
  decide ((s.rS a).toNat % 64 = 0) && okWith (checkSource s (own s) Need.both (s.rS a).toNat) (fun w =>
    reachedB (xlatS s (here s) (s.rS a).toNat) (dieOfGpa w.gpa) (s.rS a).toNat && okWith (descAt (atDesc s a w) (own s) w) (q w))

theorem describes_of {s : State} {a : Reg} {q : Where → Line → Bool} (h : describesB s a q = true) :
    ∃ w l, describes s a w l ∧ q w l = true := by
  simp only [describesB, Bool.and_eq_true, decide_eq_true_eq] at h
  obtain ⟨h0, h1⟩ := h
  obtain ⟨w, hw, h2⟩ := okWith_exists h1
  simp only [Bool.and_eq_true] at h2
  obtain ⟨l, hl, h3⟩ := okWith_exists h2.2
  exact ⟨w, l, ⟨h0, hw, reached_of h2.1, hl⟩, h3⟩

/-- A member of the group whose descriptor is at 0x10000, at the greatest index, alone in its phase; and one that stands there. -/
def benchMember : State := { withC (withS bench [(1, 0x10000)]) (fun c => { c with member := [⟨0x10000, 4095, true⟩] }) with
  groups := [⟨9, 0, 65536 * 4100, 0, 0x10000, bench.pen, true, [⟨bench.cur.id, 4095, true, false⟩], [], none, []⟩] }
def benchWaits (passed : Bool) : State := withC benchMember (fun c => { c with atGroup := [⟨c.pcS, 0x10000, passed⟩] })

/-- GroupWordsComplete: a JOIN at the greatest index; an arrival in an open phase; and a wait that goes on, and one that ends. -/
theorem meets_join : let s := withS bench [(1, 0x10000), (2, 4095)]
    (∃ w l, describes s 1 w l ∧ (decide (gdMem l < 4096) && (s.groupAt w.gpa s.pen).isNone) = true) ∧
    (s.rS 2).toNat < 4096 ∧ s.cur.member.length < 4 ∧ s.cur.membership (s.rS 1) = none :=
  ⟨describes_of (by decide +kernel), by decide +kernel⟩

theorem meets_arrival : let s := benchMember
    let m : Membership := ⟨0x10000, 4095, true⟩
    (∃ w l, describes s 1 w l ∧ (match s.groupAt w.gpa s.pen with
      | some g => !g.arrivals.any (fun x => x.ctx == s.cur.id && x.index == m.index) && g.counting g.parity != 0
      | none => false) = true) ∧ s.cur.groupWait (s.rS 1) = none ∧ s.cur.membership (s.rS 1) = some m ∧ (s.rS 0).getLsbD 1 = false :=
  ⟨describes_of (by decide +kernel), by decide +kernel⟩

theorem meets_group_waits : ∀ b ∈ [true, false], let s := benchWaits b
    s.cur.groupWait (s.rS 1) = some ⟨s.cur.pcS, s.rS 1, b⟩ ∧ s.cur.lost.any (fun l => l.addr == (s.rS 1).toNat) = false := by
  decide +kernel

/-- What a SPAWN of the record at s2 into queue s1 asks of a state. -/
def spawnMeets (s : State) : Bool := okWith (viewLine s (here s) (s.rS 2).toNat) (fun y =>
  let u := y.2
  let h := u.cur.readK u.pen (recCode y.1).toNat
  let w := (release u (here u)).2
  let r := if recClo y.1 then setField y.1 448 64 h.toNat else y.1
  let q := viQfirst (w.ctxVi w.cur) + (s.rS 1).toNat
  let home := queueHome w w.cur.pkg w.cur.vi.toNat q
  let ring := qBase ((w.pkg w.cur.pkg).queue q)
  let z := sent w home ring
  (release u (here u)).1 && (!recClo y.1 || decide ((recCode y.1).toNat < 8) && (envOf u u.cur.die u.cur.vi.toNat h).isSome) &&
  reachedB w home ring && queueOpen (z.pkg w.cur.pkg) q w.pen && !(z.pkg w.cur.pkg).heldPushes.any (fun h => h.queue == q) &&
  match (if recClo r then takeRefs z w.cur.die w.cur.vi.toNat (recCode r) 1 else some z) with
  | some v => isOk (queueWrite v w.cur.pkg w.cur.vi.toNat q w.pen r)
  | none => false)

/-- TaskWordsComplete: a task record at 0x10000, of zeros, into queue 1. -/
theorem meets_spawn : let s := withS bench [(1, 1), (2, 0x10000)]
    (s.rS 1).toNat < viQcount (s.ctxVi s.cur) ∧ (s.rS 2).toNat % 64 = 0 ∧ spawnMeets s = true := by decide +kernel

/-- TaskWordsComplete: TEND with idle streams, and YIELD with and without a READY bank beside its own. -/
theorem meets_tend_and_yield : bench.cur.allIdle = true ∧ landing bench = false ∧ (release bench (here bench)).1 = true ∧
    otherBank bench ≠ here bench ∧ isSlot (here bench) = false ∧ (bench.ctx (otherBank bench)).status ≠ .ready ∧
    ((bench.modCtx (otherBank bench) (fun c => { c with status := .ready })).ctx (otherBank bench)).status = .ready := by
  decide +kernel

/-- The name 0, 0, 0 in its bucket's first way, of a state, maker token and value. -/
def benchEntry (state mtok value : Nat) : ClaimEntry :=
  setField (setField (setField (setField (claimReset 0) 144 16 0) 110 2 state) 160 32 mtok) 256 64 value

/-- The bucket of that name. -/
def benchBucket : Bucket := ⟨65536 * 4101, 0⟩

def benchClaims (e : ClaimEntry) : State :=
  withC (writeClaim bench benchBucket 0 e) (fun c => { c with maker := [⟨0, 7, 0, 0, 0⟩] })

/-- What the clauses on a name that is there ask of a state. -/
def claimsMeet (e : ClaimEntry) (s v : State) : Bool :=
  decide (claimed s 0 0 0 = some (benchBucket, 0)) && claimEntry s (benchBucket, 0) == e && s.cur.allIdle && !landing s &&
  reachedB s 0 benchBucket.addr &&
  decide (s.taskOf s.cur < viQcount (s.ctxVi s.cur)) && decide (claimed v (v.rS 0) (v.rS 0) (v.rS 0) = some (benchBucket, 0)) &&
  claimEntry v (benchBucket, 0) == e && (freeNodeOf v (v.ctxVi v.cur) v.pen).isSome && reachedB v 0 benchBucket.addr

/-- What a CLAIM and a CLPARK of a name that is there meet: at once, and after its release. -/
def claimFound (e : ClaimEntry) : Bool :=
  (release (benchClaims e) (here bench)).1 &&
  claimsMeet e (benchClaims e) (acquire (release (benchClaims e) (here bench)).2 (here bench))

/-- ClaimWordsComplete: a name DONE, one MAKING, and one MAKING with as many waiting as it can count. -/
theorem meets_claims_found : hasClaims (bench.ctxVi bench.cur) = true ∧ clState (benchEntry 2 7 5) = 2 ∧
    clState (benchEntry 1 7 0) ≠ 2 ∧ clWait (benchEntry 1 7 0) ≠ 65535 ∧
    clWait (setField (benchEntry 1 7 0) 128 16 65535) = 65535 := by decide +kernel

theorem meets_claim_done : claimFound (benchEntry 2 7 5) = true := by decide +kernel

theorem meets_claim_making : claimFound (benchEntry 1 7 0) = true := by decide +kernel

theorem meets_claim_full : claimFound (setField (benchEntry 1 7 0) 128 16 65535) = true := by decide +kernel

/-- ClaimWordsComplete: a name that is not there, with room for it and with four makers; no table; and a queue that the VI
does not have. -/
theorem meets_claims_new : let v := acquire (release bench (here bench)).2 (here bench)
    let full := withC bench (fun c => { c with maker := List.replicate 4 ⟨0, 7, 0, 0, 0⟩ })
    claimed bench 0 0 0 = none ∧ claimed v 0 0 0 = none ∧ bench.cur.maker.length < 4 ∧ v.cur.maker.length < 4 ∧
    (installWay (ways bench benchBucket bench.pen)).isSome = true ∧ claimed full 0 0 0 = none ∧ 4 ≤ full.cur.maker.length ∧
    hasClaims ((bench.modPkg 0 (fun k => { k with viMap := [] })).ctxVi bench.cur) = false ∧
    viQcount (bench.ctxVi bench.cur) ≤ (withC bench (fun c => { c with taskq := ⟨bench.pen, 2⟩ })).taskOf
      (withC bench (fun c => { c with taskq := ⟨bench.pen, 2⟩ })).cur := by decide +kernel

/-- What FULFIL or ABANDON by the maker of an entry meets: its status word names a maker, and the entry after the release is
the one being made, or not. -/
def makerMeets (e : ClaimEntry) (made : Bool) : Bool :=
  let s := withS (benchClaims e) [(4, 0x700000000)]
  let u := (release s (here s)).2
  let x := readClaim u (bucketOfEntry (u.ctxVi u.cur) 0) 0 (u.ctxPen u.cur)
  s.cur.makerOf (s.rS 1) (s.rS 2) (s.rS 3) (s.rS 4) == some ⟨0, 7, 0, 0, 0⟩ && (release s (here s)).1 &&
  reachedB u (dieOfGpa (bucketOfEntry (u.ctxVi u.cur) 0).addr) (bucketOfEntry (u.ctxVi u.cur) 0).addr &&
  (clState x == 1 && !clPend x && clMtok x == 7 && clNamed x 0 0 0) == made

/-- ClaimWordsComplete: its maker settles it, with the status word it was given; an entry that is no longer being made; and
someone else. -/
theorem meets_makers : makerMeets (benchEntry 1 7 0) true = true ∧ makerMeets (benchEntry 2 7 0) false = true ∧
    makerMeets (setField (benchEntry 1 7 0) 128 16 1) true = true ∧ bench.cur.makerOf 0 0 0 0 = none := by decide +kernel

/-- A live handle to entry 3 of environment 5 of core 0, made by a virtual core; the entry, with one reference. -/
def benchEnv : State := (withC bench (fun c => { c with
    k := c.k.set 0 ⟨bench.pen, handle bench.pen 0 5 3⟩ |>.set 1 ⟨bench.pen, handle bench.pen 0 5 3⟩ })).modCore 0
  (fun c => c.setEnv 5 ⟨0, 1, 0, true, Vector.replicate 8 9, 0⟩)

/-- ClosureWordsComplete: a capture of seven values up to s31, and of a reference; calls through k0 and k1; a call made a
record; copies. SPAWN of the closure in k0. -/
theorem meets_closures : let s := withS benchEnv [(2, BitVec.ofNat 64 (2 ^ 24 * 7 + 0x7FFFFF)), (3, 0), (4, 1),
      (5, BitVec.ofNat 64 (2 ^ 32 + 0x7FFFFF)), (6, 0), (7, BitVec.ofNat 64 (2 ^ 24 * 7 + 0xFFFFFF))]
    let t := (s.setTile 0 0 { Tile.reset with pen := bench.pen, alloc := true, bank := false })
    freeEnv s s.curCore = some 0 ∧ (∀ b ∈ [(2 : Reg), 7], field (s.rS b) 48 16 = 0 ∧ field (s.rS b) 27 5 = 0 ∧ field (s.rS b) 32 16 = 0) ∧
    freeEnv t t.curCore = some 0 ∧ isOk (captValues t 6 (field (t.rS 5) 32 16) (field (t.rS 5) 24 3 + 1) 0) = true ∧
    field (t.rS 5) 48 16 = 0 ∧ field (t.rS 5) 27 5 = 0 ∧ (∀ j, j < 8 → field (t.rS 5) 32 16 / 4 ^ j % 4 ≠ 3) ∧
    (∀ a ∈ [(0 : Reg), 1], (envNamed s a).isSome = true ∧ hVcore (s.cur.readK s.pen a.toNat) = s.cur.vcn.toNat ∧
      refsOk s s.cur (s.cur.readK s.pen a.toNat) ⟨0, 1, 0, true, Vector.replicate 8 9, 0⟩ = true ∧
      envNamed s a = some (0, ⟨0, 1, 0, true, Vector.replicate 8 9, 0⟩) ∧
      (takeRefs s s.cur.die s.cur.vi.toNat (s.cur.readK s.pen a.toNat) 1).isSome = true) ∧
    (s.rS 3).getLsbD 0 = false ∧ (s.rS 4).getLsbD 0 = true ∧
    routeOfVcn s s.cur.die s.cur.vi.toNat (hVcore (s.cur.readK s.pen 1)) = some (0, 0) ∧ (release s (here s)).1 = true ∧
    (let u := (release s (here s)).2
     let phys := viQfirst ((u.pkg 0).vi s.cur.vi.toNat)
     let home := queueHome u 0 s.cur.vi.toNat phys
     let ring := qBase ((u.pkg 0).queue phys)
     reachedB u home ring = true ∧
     (takeRefs (sent u home ring) s.cur.die s.cur.vi.toNat (s.cur.readK s.pen 1) 1).isSome = true) ∧
    hLive (s.cur.readK s.pen 2) = false := by decide +kernel

theorem meets_spawn_closure : spawnMeets (withS (withC benchEnv (fun c => { c with
      view := [(4198400, ⟨bench.pen, taskRecord true 0 0 0 0 0 0 0⟩)] })) [(1, 1), (2, 0x10000)]) = true ∧
    recClo (taskRecord true 0 0 0 0 0 0 0) = true := by decide +kernel

/-- DoorWordsComplete: one message in door 1, and room for the last of 16 in door 0; no message; one given; a full door. -/
theorem meets_doors : let s := withS (bench.modPkg 0 (fun k => { k with doors :=
      [(0, { benchDoor 0x13000 true with desc := setField (benchDoor 0x13000 true).desc 368 32 15 }),
       (1, { benchDoor 0x14000 false with desc := setField (benchDoor 0x14000 false).desc 368 32 1 }),
       (2, { benchDoor 0x15000 true with desc := setField (benchDoor 0x15000 true).desc 368 32 16 })] })) [(1, 1), (2, 0x10000), (3, 2)]
    (∀ m q, s.cur.inside ≠ .message m q) ∧ doorOfNum s s.cur (s.rS 1).toNat false = some 1 ∧ doorHas s s.cur.pkg s.cur.vi.toNat 1 = true ∧
    (s.pkg s.cur.pkg).doorWaiters.any (fun e => e.1 == 1) = false ∧
    (let home := doorHome s s.cur.pkg s.cur.vi.toNat 1
     let ring := dBase ((s.pkg s.cur.pkg).door 1).desc
     reachedB s home ring = true ∧ isOk (doorTake (sent s home ring) s.cur.pkg s.cur.vi.toNat 1) = true) ∧
    doorHas bench bench.cur.pkg bench.cur.vi.toNat 1 = false ∧
    (withC s (fun c => { c with inside := .message 5 3 })).cur.inside = .message 5 3 ∧
    doorOfNum s s.cur (s.rS 0).toNat true = some 0 ∧ doorOfNum s s.cur (s.rS 3).toNat true = some 2 ∧ (s.rS 2).toNat % 64 = 0 ∧
    okWith (viewLine s (here s) (s.rS 2).toNat) (fun y => let w := (release y.2 (here y.2)).2
      let home := doorHome w s.cur.pkg s.cur.vi.toNat 0
      let ring := dBase ((w.pkg s.cur.pkg).door 0).desc
      doorOpen y.2 s.cur.pkg s.cur.vi.toNat 0 && !doorOpen y.2 s.cur.pkg s.cur.vi.toNat 2 && (release y.2 (here y.2)).1 &&
      reachedB w home ring && isOk (doorAppend (sent w home ring) s.cur.pkg s.cur.vi.toNat 0 y.1)) = true := by
  refine ⟨fun m q h => ?_, by decide +kernel⟩
  cases h

/-- CsrWordsComplete: every number that can be read, and the bounds of the c registers. -/
theorem meets_csrs : (∀ n ∈ readOnlyCsrs.take 9 ++ writableCsrs.map (fun e => e.1) ++ [0x010, 0x01F],
      (readCsr bench (here bench) n).isSome = true) ∧ 0xFFF ∉ readOnlyCsrs ∧
    0xFFF ∉ writableCsrs.map (fun e => e.1) := by decide +kernel

/-- A context with a handler, and one in it. -/
def benchTrap : State := withC bench (fun c => { c with tvec := ⟨bench.pen, 0x100⟩ })
def inHandler (s : State) : State := withC s (fun c => { c with handler := true })

/-- TrapEntry, TrapWordsComplete, EretReturns, TrapThenEretResumes. -/
theorem meets_traps : canTrap benchTrap ∧ benchTrap.cur.begun = false ∧ bench.cur.handler = false ∧ (inHandler bench).cur.handler = true ∧
    benchTrap.cur.pcA.getLsbD 0 = false ∧ benchTrap.cur.pcV.getLsbD 0 = false ∧ benchTrap.cur.pcM.getLsbD 0 = false ∧
    runs .eret (benchTrap.fault .v fFifoUnder 0) = true := by
  unfold canTrap quiet; decide +kernel

/-- QuietWordsComplete. -/
theorem meets_wfe : (withC bench (fun c => { c with ev := true })).cur.ev = true := by decide +kernel

/-! VIMAP (R341, R342). -/

/-- The bench with a request in its view at 0x10000: OP, FLAGS, COUNT, INDEX and DATA. -/
def benchReq (s : State) (op flags count index data : Nat) : State :=
  let l : List (Nat × Tag 512) := [(4198400, ⟨s.pen, BitVec.ofNat 512 (op + 2 ^ 24 * flags + 2 ^ 48 * count + 2 ^ 64 * index)⟩),
    (4198401, ⟨s.pen, BitVec.ofNat 512 data⟩), (4198402, ⟨s.pen, BitVec.ofNat 512 (data / 2 ^ 512)⟩)]
  withS (withC s (fun c => { c with view := l })) [(1, 0x10000)]

/-- The request is read, has its OP and is answered. -/
def vimapMeets (op : Nat) (o : VOpcode) (s : State) : Bool :=
  s.cur.vi == 0 && (s.rS 1).toNat % 64 == 0 && okWith (viewLines s (here s) (s.rS 1).toNat 3) (fun x =>
    let r := vreqOf x.1
    let z := sweepPassEnd x.2.cur.pkg x.2
    r.clear && r.op == op && (!o.named || viState ((z.pkg x.2.cur.pkg).vi r.vi) != 2) &&
    match vimapOp o z x.2.cur.pkg (x.2.cur.accessor x.2) r with | (.done _, _) => true | _ => false)

/-- VimapWordsComplete: a page mapped at 0x20000, a middle table, a free page given to VI 0 and one to the tables. -/
theorem meets_vimap_pages : vimapMeets 1 .leaf (benchReq bench 1 0 1 0x20000 (7 + 65536 * 4100)) = true ∧
    vimapMeets 2 .link (benchReq (bench.modDie 0 (fun d => d.setPage 4105 ⟨0, 0, false, false, true, false⟩)) 2 1 0 (2 ^ 40) (65536 * 4105)) = true ∧
    vimapMeets 3 .own (benchReq bench 3 0 0 (65536 * 4104) 0) = true ∧
    vimapMeets 15 .tblpg (benchReq bench 15 0 0 (65536 * 4103) 1) = true := by decide +kernel

/-- A wait that FAIL names, a map entry, a virtual core, a queue and a door. -/
theorem meets_vimap_entries : vimapMeets 6 .fail (benchReq (withC bench (fun c => { c with waits := [{
      seq := 9, kind := .read, stream := .s, cmd := 0, die := 0, va := 0, pc := 0, code := fPage, state := .waiting }] }))
        6 0 0 9 0) = true ∧
    vimapMeets 7 .vient (benchReq bench 7 0 0 0 (2 ^ 720 * 4 + 2 ^ 728)) = true ∧
    vimapMeets 8 .core (benchReq bench 8 0 0 0 (2 ^ 489 + 0x8000)) = true ∧
    vimapMeets 9 .queue (benchReq bench 9 0 0 8191 (2 ^ 55)) = true ∧
    vimapMeets 10 .door (benchReq bench 10 0 0 32767 (2 ^ 47)) = true := by decide +kernel

/-- A window, a key slot, a route and a multicast group, each at its greatest index. -/
theorem meets_vimap_tables : vimapMeets 11 .window (benchReq bench 11 0 0 63 (2 ^ 113)) = true ∧
    vimapMeets 12 .key (benchReq bench 12 0 0 4095 (2 ^ 46)) = true ∧
    vimapMeets 13 .route (benchReq bench 13 0 0 9215 0) = true ∧
    vimapMeets 14 .mcast (benchReq bench 14 0 0 63 (1 + 2 ^ 32)) = true := by decide +kernel

/-- VimapEffects: a free page and a window, and a VI in CLOSING. -/
theorem meets_vimap_effects : let s := benchReq bench 3 0 0 0 0
    (⟨3 + 2 ^ 64 * 0x10080000, 0⟩ : VReq).clear = true ∧ (⟨3 + 2 ^ 64 * 0x10080000, 0⟩ : VReq).op = 3 ∧
    (⟨3 + 2 ^ 64 * 0x10080000, 0⟩ : VReq).index = 65536 * 4104 ∧ viState ((s.pkg 0).vi 0) ≠ 2 ∧
    pageOk 0 (65536 * 4104) = true ∧ (s.own (65536 * 4104)).valid = false ∧ (s.own (65536 * 4104)).tbl = false ∧
    (∀ i ∈ [1, 63], let r : VReq := ⟨BitVec.ofNat 512 (11 + 2 ^ 64 * i), 0⟩
      r.clear = true ∧ r.op = 11 ∧ r.index = i ∧ r.dieOk 0 = true) ∧
    (let u := s.modPkg 0 (fun k => { k with viMap := [(0, setViState (benchVi 0) 2)] })
     viState ((u.pkg 0).vi 0) = 2 ∧ ((u.sweep (die0 0)).finished && (u.sweep (die1 0)).finished) = false) := by
  decide +kernel

/-- The bench with a request of its die that has no response. -/
def benchAsking (p : Packet) : State := bench.modRouter 0 (fun r => { r with
  requests := [⟨p, ⟨.wr, 0, 1, 0, 0, 0, [], false, 0, .none, maskAll, 65535, none⟩, 77, 0, 0, 100, .sent, false⟩] })
def blankPacket : Packet := ⟨3, 0, [], 0, 100, 3, 100, false, 0, .none, maskAll, none⟩

/-- PrivilegedWordsComplete, VimapWordsComplete: a VI to shut, to close, with keys, and BUSY; a page to revoke, and one that
is another's; a request outstanding, and an operation that waits for it. -/
theorem meets_privileged : bench.cur.vi = 0 ∧ (bench.pkg bench.cur.pkg).shutBusy 1 = false ∧
    (bench.pkg bench.cur.pkg).shutBusy 255 = false ∧ (65536 * 4100 : Nat) < 2 ^ 60 ∧ pageOk bench.cur.pkg (65536 * 4100) = true ∧
    (bench.own (65536 * 4100)).ownedBy 0 = true ∧ (bench.own (65536 * 4100)).ownedBy 1 = false ∧ viState ((bench.pkg 0).vi 1) ≠ 1 ∧
    ((bench.modPkg 0 (fun k => { k with gens := [(1, 255 * 65536)] })).pkg 0).shutBusy 1 = true ∧
    (let s := bench.modPkg 0 (fun k => { k with viMap := [(1, setViState (benchVi 0) 1)] })
     viState ((s.pkg 0).vi 1) = 1 ∧ viProt ((s.pkg 0).vi 1) = false) ∧
    (let s := bench.modPkg 0 (fun k => { k with viMap := [(1, setField (setViState (benchVi 0) 1) 730 1 1)],
                                                keys := [(7, ⟨0x0101400000000000, 0⟩)] })
     viProt ((s.pkg 0).vi 1) = true ∧ (s.pkg 0).namesKey 1 = true) ∧
    pendingUses bench 0 none false = [] ∧ pendingUses (benchAsking blankPacket) 0 none false = [(3, 0)] ∧
    (withC bench (fun c => { c with inside := .settling c.pcS 9 [(3, 0)] })).cur.inside = .settling bench.cur.pcS 9 [(3, 0)] ∧
    (∀ n ∈ ([(3, 0)] : List Use), n ∉ pendingUses bench 0 none true ∧ n ∈ pendingUses (benchAsking blankPacket) 0 none true) := by
  decide +kernel

theorem meets_at_start : atStart bench := fun _ _ h => by cases h

/-- Tile 127 held by the bench, EMPTY, with an entry in each queue. -/
def benchTile (full : Bool) : State :=
  withC ((withA bench [(1, 127), (2, 0x1FC000), (3, 0x1FFE00), (4, 0x400000000)]).setTile 0 127
    { Tile.reset with pen := bench.pen, alloc := true, full := full }) (fun c => { c with
      sq := Vector.replicate 2 [⟨bench.pen, Lanes.zero⟩] })

/-- ScratchpadLoadsComplete, ScratchpadStoresComplete: the last tile, from its first line and from its last 512 bytes; a
stride of four bytes, and offsets of zero. -/
theorem meets_scratchpad : let s := benchTile true
    (∀ d ∈ [0, 1, 2, 3], (s.cur.lq.getD d []).length < 8) ∧ (∀ d ∈ [0, 1], s.cur.sq.getD d [] = [⟨bench.pen, Lanes.zero⟩]) ∧
    (∀ con ∈ [true, false], spCheck s .contiguous (s.rA 3) 0 con = none ∧ spCheck s .strided (s.rA 2) (s.rA 4) con = none ∧
      spCheck s .indexed (s.rA 2) (s.rA 3) con = none) := by decide +kernel

/-- TileWordsComplete: a free tile, none free, and a tile FULL and EMPTY. -/
theorem meets_tiles : (127 < 128 ∧ tileFree (benchTile true) (tileHere (benchTile true) 0) = true) ∧
    (∀ b ∈ [true, false], holdsTile (benchTile b) 1 ∧ (tileHere (benchTile b) 127).full = b ∧
      (tileHere (benchTile b) 127).land = false) ∧ bench.cur.wdBusy 3 = false := by
  unfold holdsTile; decide +kernel

theorem meets_no_tile_free : let s := bench.modCore 0 (fun c => { c with tiles := (List.range 128).map (fun n =>
      (n, { Tile.reset with pen := bench.pen, alloc := true })) })
    ∀ m ∈ List.range 128, tileFree s (tileHere s m) = false := by decide +kernel

/-- CommandsArePushed: operands of each copy, with 15 commands outstanding; a prefetch, a sum, signals. -/
def benchCmds : State :=
  withA (withC bench (fun c => { c with cmds := List.replicate 15 (benchCmd 0 .queued 0) }))
  [(1, 0x11000), (2, 0x10000), (3, 1), (4, 0x8000000000000000), (5, 0xC000000000000000), (6, 0x10FF8), (7, 0xFFFF), (8, 0x10F80)]

theorem meets_commands : let s := benchCmds
    s.cur.cmds.length < 16 ∧
    (∀ e ∈ ([(.cpy, 1, 2, 3), (.cpyf, 4, 2, 3), (.cpymc, 5, 2, 3), (.cpylr, 1, 5, 3), (.cpyrd, 1, 4, 3)] :
      List (CopyFn × Reg × Reg × Reg)), copyCheck e.1 s.cur.vcn.toNat (s.rA e.2.1) (s.rA e.2.2.1) (s.rA e.2.2.2) = none) ∧
    (commitOwn s (here s) (fun _ => true)).1 = true ∧ endpoint (s.rA 2) = some (.mem 0x10000) ∧
    (lenWord (s.rA 3)).ok none none (.mem 0x10000) = true ∧ field (s.rA 1) 52 12 = 0 ∧ (s.rA 1).toNat % 4 = 0 ∧
    field (s.rA 7) 28 36 = 0 ∧ field (s.rA 7) 16 8 = 0 ∧ field (s.rA 7) 0 16 ≠ 0 ∧ field (s.rA 7) 24 4 ∈ [0, 2, 3, 4] ∧
    (s.rA 6).toNat % 8 = 0 ∧ (s.rA 8).toNat % 128 = 0 := by decide +kernel

/-- ResultsArePopped. -/
theorem meets_results : let s := withC bench (fun c => { c with cmds := [benchCmd 0 .posted 0] })
    s.cur.cmds = [benchCmd 0 .posted 0] ∧ (benchCmd 0 .posted 0).state = .posted ∧ bench.cur.cmds = [] := by decide +kernel

/-- An entry in every v register, tokens from S, and a mask with lane 127 alone. -/
def benchV : State := withC bench (fun c => { c with
  v := Vector.replicate 16 [⟨bench.pen, Vector.replicate 128 0x3F800000⟩], tok := Vector.replicate 12 ⟨bench.pen, 62⟩,
  mask := [⟨bench.pen, BitVec.twoPow 128 127⟩], loopV := ⟨3, 4, 5, 0, 300, true, bench.pen⟩ })

/-- A word under the guard of the last stage, with the tokens of R206. -/
def fullV : VWord := { okV2 with grd := 7, tkw := 5, tkp := 4, msk := true, sq := true }

/-- ElementWordsComplete, LaneWordsComplete, SideEffectWordsComplete and VectorControlCompletes: a word that can issue, with
no source, one, two and three; into a v register, xq and nothing; in the last pass of a loop of four stages. -/
theorem meets_vector : (∀ n ∈ [0, 1, 2, 3], vReady fullV ((sources fullV 3).take n) (destOf fullV.d) benchV) ∧
    (∀ n ∈ [0, 1], vReady fullV ((sources fullV 3).take n) .nothing benchV) ∧
    vReady fullV [srcX fullV, intSource fullV.y] (destOf fullV.d) benchV ∧ vReady fullV [intSource fullV.x] .nothing benchV ∧
    vReady fullV [sourceOf fullV.x (cvtSrc fullV)] (destOf fullV.d) benchV ∧ vReady fullV [srcX fullV, srcY fullV] .xq benchV :=
  ⟨fun n h => vReady_of ((by decide +kernel : ∀ n ∈ [0, 1, 2, 3],
      vReadyB fullV ((sources fullV 3).take n) (destOf fullV.d) benchV = true) n h),
   fun n h => vReady_of ((by decide +kernel : ∀ n ∈ [0, 1], vReadyB fullV ((sources fullV 3).take n) .nothing benchV = true) n h),
   vReady_of (by decide +kernel), vReady_of (by decide +kernel), vReady_of (by decide +kernel), vReady_of (by decide +kernel)⟩

/-- SideEffectWordsComplete: VAPPLY of the highest lane, and of none. -/
theorem meets_vapply : let s := withC benchEnv (fun c => { c with v := benchV.cur.v, mask := benchV.cur.mask })
    let w : VWord := { okV with msk := true, d := ⟨0, false, 0, 0⟩ }
    vReadyB w [srcX w] .nothing s = true ∧ envNamed s 0 = some (0, ⟨0, 1, 0, true, Vector.replicate 8 9, 0⟩) ∧
    laneList (seen w [srcX w] s).active = [127] ∧
    routeOfVcn s s.cur.die s.cur.vi.toNat (hVcore (s.cur.readK s.pen 0)) = some (0, 0) ∧
    laneList (seen w [srcX w] (withC s (fun c => { c with mask := [⟨bench.pen, 0⟩] }))).active = [] := by decide +kernel

/-- VectorControlCompletes: a full stack of masks but one, a top of zeros and one not, an outcome, and no loop. -/
theorem meets_vector_control : let s := withC bench (fun c => { c with
      mask := List.replicate 15 ⟨bench.pen, 0⟩, bqSV := [⟨bench.pen, 1⟩], bqVS := List.replicate 15 ⟨bench.pen, 1⟩ })
    s.cur.mask.length < 16 ∧ vReadyB blankV [] .nothing s = true ∧ s.cur.mask = ⟨bench.pen, 0⟩ :: List.replicate 14 ⟨bench.pen, 0⟩ ∧
    (seen blankV [] s).top = 0 ∧ (seen blankV [] bench).top ≠ 0 ∧ vReadyB blankV [] .nothing bench = true ∧
    s.cur.bqSV = [⟨bench.pen, 1⟩] ∧ s.cur.bqVS.length < 16 ∧ s.cur.loopV.act = false ∧ blankV.pa = 0 ∧
    vReadyB { blankV with pa := 0x1FFF } [] .nothing bench = true := by decide +kernel

/-- VectorIssueIsChecked: a stage out of range, a token not there, and an empty v register. -/
theorem meets_vector_stops : fullV.grd ≠ 0 ∧ bench.cur.loopV.g (fullV.grd.toNat % 4) = false ∧
    waitIdx 2 4 = some 1 ∧ bench.cur.tokens bench.pen 1 = 0 ∧ okV2.grd = 0 ∧ okV2.tkw = 0 ∧ okV2.rc = 0 ∧
    bench.cur.destFull (destOf okV2.d) = false ∧ (∀ n ∈ [1, 2, 3], ∀ x ∈ sources okV2 n, x.key.isQueue = false) ∧
    (srcX okV2).key = .v 1 ∧ bench.cur.v.getD 1 [] = [] := by decide +kernel

/-- A queue word of MMA, and one of MMAW, with tile 127 as its A tile. -/
def mWord (n : Nat) : MWord := { blankM with atile := 127, wsrc := BitVec.ofNat 4 n }

/-- The bench with tile 127 FULL, descriptor 3 of one tile of weights at 0x10000, and a word in fq. -/
def benchM (x : Instr) : State := withC (benchTile true) (fun c => { c with
  wd := Vector.replicate 4 ⟨bench.pen, BitVec.ofNat 128 (2 ^ 64 * 0x10000 + 2 ^ 48)⟩, fq := [⟨bench.pen, BitVec.ofNat 192 (encodeBits x)⟩],
  tok := Vector.replicate 12 ⟨bench.pen, 62⟩ })

/-- ArrayWordsStart: words that can issue, with tokens, and one that issues again after its last K-step but one. -/
theorem meets_array_words : let s := benchM (.mma (mWord 7))
    mReady { mWord 7 with tkw := 5, tkp := 6 } true s ∧ mReady (mWord 11) true (withC s (fun c => { c with mrs := 127 })) ∧
    mmaOk (mWord 7) s ∧ mmawOk (mWord 11) s (BitVec.ofNat 128 (2 ^ 64 * 0x10000 + 2 ^ 48)) ∧
    queuedWord s.cur s.pen = some (BitVec.ofNat 192 (encodeBits (.mma (mWord 7)))) ∧
    innerWord (BitVec.ofNat 192 (encodeBits (.mma (mWord 7)))) = some (mWord 7, true) ∧
    innerWord (BitVec.ofNat 192 (encodeBits (.mmaw (mWord 11)))) = some (mWord 11, false) := by
  refine ⟨mReady_of (by decide +kernel), mReady_of (by decide +kernel), ?_, ?_, ?_⟩
  · unfold mmaOk; decide +kernel
  · unfold mmawOk; decide +kernel
  · decide +kernel

/-- MatrixControlCompletes: a weight tile for slot 7 by descriptor 3, and both outcomes of a branch. -/
theorem meets_matrix_control : let s := benchM (.mma (mWord 7))
    let w : MWord := { blankM with wsrc := 7, pa := BitVec.ofNat 128 (2 ^ 126 * 3) }
    mReady w false s ∧ s.cur.slotsRead (mwldSlots w s) = false ∧ wdOk (wdOfWord w s) 0 128 = true ∧ wdFmt (wdOfWord w s) < 2 ∧
    isOk (streamTile s ⟨s.cur.die, s.cur.vi.toNat, s.pen⟩ (wdOfWord w s) (wdPos (wdOfWord w s) / 128)) = true ∧
    s.cur.loopM.act = false ∧ field w.pa 112 16 ≠ 0 ∧ field blankM.pa 112 16 = 0 ∧
    ∀ b ∈ [0, 1], (withC s (fun c => { c with bqSM := [⟨bench.pen, b⟩] })).cur.bqSM = [⟨bench.pen, b⟩] := by
  refine ⟨mReady_of (by decide +kernel), ?_⟩
  decide +kernel

/-- The four blocks of a tile of weights that the port has staged. -/
def benchStaged : List WBlock := (List.range 4).map (fun i =>
  ⟨bench.pen, false, 0, 0, List.replicate 64 (BitVec.allOnes 512), false, 64 * i, 0⟩)

/-- A running word of the bench, and its descriptor as it stands. -/
def benchRun (op : ArrayOp) (w : MWord) (staged mrs : Nat) : State :=
  let d := fun (pos : Nat) => BitVec.ofNat 128 (2 ^ 64 * 0x10000 + 2 ^ 48 + pos)
  let r : ArrayRun := ⟨op, w, 0, false, false, 0, 0, staged, d 0, decide (0 < staged), [], none, true, [(127, 0)]⟩
  (withC (benchM (.mnop blankM)) (fun c => { c with
    mrs := mrs, run := some r, wd := Vector.replicate 4 ⟨bench.pen, d mrs⟩ })).modCore 0 (fun c => { c with
      staging := if 0 < staged then [benchStaged] else [] })

/-- ArrayEventsComplete: the last K-step of an MMA and of an MMAW, and the last row of an MHAD. -/
theorem meets_ksteps : ∀ s ∈ [benchRun .mma (mWord 7) 0 127, benchRun .mmaw (mWord 11) 128 127, benchRun .mhad (mWord 0) 0 127],
      s.cur.mrs = 127 ∧ (∀ n ∈ stepTiles (mWord 7) (s.cur.mrs / 128), (s.tile s.curCore n).full = true) ∧
      (s.cur.run.map (fun r => r.moved s.cur s.pen)) = some none := by decide +kernel

/-- ArrayEventsComplete: a row of MDRN that is due, a tile to be staged, a fill and a push that are due. -/
theorem meets_array_events : let s := benchRun .mmaw (mWord 11) 0 0
    let x : Flight := ⟨1000, false, .v 15, s.pen, Lanes.zero, Lanes.zero, 0, [], 4, [], 0⟩
    let f : SlotFill := ⟨1000, 6, 0, true, [], 0, 0, s.pen, 0⟩
    (∀ r, s.cur.run = some r → r.rows = [(127, 0)] ∧ r.checked = false ∧ r.fault = none ∧ ringRoom s.cur r = true ∧
      okWith (streamTile s (own s) r.wd (r.tileAt r.staged)) (fun bs => isOk (plainTile (own s).pen 0 bs)) = true) ∧
    (let u := withC s (fun c => { c with flights := [x], fills := [f] })
     u.cur.flights.find? (fun f => f.due ≤ u.cycle) = some x ∧ x.recs = [] ∧ u.cur.fills.find? (fun f => f.due ≤ u.cycle) = some f) := by
  refine ⟨fun r h => ?_, by decide +kernel⟩
  cases h; decide +kernel

/-- IdleEventsChangeNothing. -/
theorem meets_idle : bench.cur.run = none ∧ (∀ f ∈ bench.cur.flights, bench.cycle < f.due) ∧
    (∀ f ∈ bench.cur.fills, bench.cycle < f.due) := by decide +kernel

/-! Agents. -/

/-- The bench with a READY context in the other bank, one record in queue 0, and its own bank for a slice that has run out. -/
def benchReady : State := ((bench.modCtx 1 (fun c => { c with status := .ready })).modPkg 0 (fun k => { k with
  queues := [(0, benchQueue 0x11000 ||| BitVec.ofNat 512 (2 ^ 352))] })).modCore 0 (fun c => { c with switched := 0 })

def late (s : State) : State := { s with cycle := 65536 }

/-- SchedulerEventsComplete: a record of zeros for an EMPTY bank, a bank to run, and a slice that ends. -/
theorem meets_dispatch : let s := benchReady.modCtx 1 (fun _ => Ctx.empty)
    isSlot 1 = false ∧ (s.ctx 1).status = .empty ∧ selectQueue s (coreOf 1) = some (0, ⟨0, 0, 0, 0⟩, []) ∧
    queueHead (noteServed s (coreOf 1) 0 ⟨0, 0, 0, 0⟩ []) (pkgOf (dieOfCore (coreOf 1))) 0 0 = .record 0 ∧
    recordOk 0 = true ∧ recClo 0 = false ∧ field (recArg 0 3) 7 1 = 0 := by decide +kernel

/-- SchedulerEventsComplete: a core whose READY bank is the lower, and the upper alone, and a slice that ends. -/
theorem meets_bank_switch : let s := benchReady.modCore 0 (fun c => { c with running := none })
    let v := s.modCtx 0 (fun c => { c with status := .ready })
    (s.core 0).running = none ∧ (s.ctx (bankKey 0 true)).status = .ready ∧ (s.ctx (bankKey 0 false)).status ≠ .ready ∧
    (v.core 0).running = none ∧ (v.ctx (bankKey 0 false)).status = .ready ∧
    ((late benchReady).core 0).running = some false ∧ ((late benchReady).core 0).switched + 65536 ≤ (late benchReady).cycle ∧
    ((late benchReady).ctx (bankKey 0 true)).status = .ready ∧ ((late benchReady).ctx (bankKey 0 false)).begun = false := by
  decide +kernel

/-- A tile wait of 256 cycles, a context to save into the last slot of its VI, and one to bring back. -/
theorem meets_waits_and_saves : let s := withC bench (fun c => { c with tileWait := some (5, true, 744) })
    let v := withC bench (fun c => { c with status := .waiting })
    let w := { bench with ctxs := [(slotKey 0 0 1, { bench.cur with status := .ready })] }
    (s.ctx 0).tileWait = some (5, true, 744) ∧ (s.ctx 0).status = .running ∧ 744 + 256 ≤ s.cycle ∧ (s.ctx 0).begun = false ∧
    (v.ctx 0).status = .waiting ∧ Table.has v.ctxs (slotKey 0 0 1) = false ∧ 1 < 2 * viVcores (v.ctxVi (v.ctx 0)) ∧
    noLanding v 0 = true ∧ (v.ctx 0).begun = false ∧ (v.ctx 0).flights = [] ∧
    isSlot (slotKey 0 0 1) = true ∧ (w.ctx (slotKey 0 0 1)).status = .ready ∧
    (w.ctx (slotKey 0 0 1)).held = false ∧ (w.ctx 0).status = .empty ∧
    mayRestore w (slotKey 0 0 1) (w.ctx (slotKey 0 0 1)) (coreOf 0) = true := by decide +kernel

/-- A trap that is due, an ended context, a group whose last line has been settled, and one whose line's page is away. -/
theorem meets_due : (withC benchTrap (fun c => { c with pend := some ⟨fPerm, .m, 24, 0, 0⟩ })).cur.dueTrap =
      some ⟨fPerm, .m, 24, 0, 0⟩ ∧ canTrap (withC benchTrap (fun c => { c with pend := some ⟨fPerm, .m, 24, 0, 0⟩ })) ∧
    (bench.ctx 0).status ≠ .empty ∧
    (let g : Group := ⟨3, 0, 0, 0, 0, 0, false, [], [], some [], []⟩
     ({ bench with groups := [g] }.groups.find? (fun x => x.n == 3)) = some g ∧
     (commitGroup { bench with groups := [g] } g.vi.toNat g.paused []).1 = []) ∧
    (let a : Arrival := ⟨bench.cur.id, 0, false, false, bench.pen, 0, 0⟩
     let l : List (List (Arrival × SbEntry)) := [[(a, ⟨0x1000, 1, 1, bench.pen, some 3, 0⟩)]]
     let g : Group := ⟨3, 0, 0, 0, 0, 0, false, [], [], some l, []⟩
     (commitGroup { bench with groups := [g] } g.vi.toNat g.paused l).1 = l) := by
  unfold canTrap quiet; decide +kernel

/-- A loop of V that a breakpoint stops at its place. -/
theorem meets_stop : let s := withC benchTrap (fun c => { c with pcV := 24, idleV := false, stops := [⟨.v, 24, false⟩] })
    canTrap s ∧ s.cur.pend = none ∧ s.cur.failedWait = none ∧ s.cur.dueStop = some ⟨.v, 24, false⟩ := by
  unfold canTrap quiet; decide +kernel

/-- A barrier record without signals at the head of queue 0, and a push held for queue 1. -/
theorem meets_barrier : let s := { benchReady with mem := benchReady.mem.putLine 4198464 0 (BitVec.ofNat 512 (2 ^ 62)) }
    ownerOf (s.pkg 0) viQfirst viQcount 0 = some 0 ∧ (s.pkg 0).notices = [] ∧ (s.pkg 0).barriers = [] ∧
    (match unseenHead s 0 0 0 with
     | none => false
     | some r =>
       let a := queueAccessor s 0 0 0
       let w := meetSignals (meetHead s 0 0 0) a r
       let b : Barrier := ⟨0, qHead ((s.pkg 0).queue 0), r, (barrierSignals r).map (fun va => if va == 0 then none else signalValue w a va),
         (barrierSignals r).map (fun va => if va == 0 then none else signalPlace w a va), none, none⟩
       let u := w.modPkg 0 (fun x => { x with barriers := [b] })
       judge u (queueAccessor u 0 0 0) r b.known == .satisfied) = true := by decide +kernel

theorem meets_held_push : let h : HeldPush := ⟨1, 0, 0⟩
    let s := bench.modPkg 0 (fun k => { k with heldPushes := [h] })
    (s.pkg 0).heldPushes = [h] ∧ (s.pkg 0).pen (penVi h.pen) = h.pen ∧ queueOpen (s.pkg 0) 1 h.pen = true ∧
    isOk (queueWrite (s.setPkg 0 { s.pkg 0 with heldPushes := [] }) 0 (penVi h.pen) 1 h.pen h.record) = true := by decide +kernel

/-- EngineEventsComplete: a CPY of one line, a SIGWAIT at its threshold, an ended command. -/
theorem meets_copy : let m := benchCmd 7 .queued (cmdWords bench.cur 0 false 0 0x10FC0 0x10000 1 0)
    let s := withC bench (fun c => { c with cmds := [m] })
    (s.ctx 0).cmd 7 = some m ∧ copyOf m = some ⟨0, .mem 0x10FC0, .mem 0x10000, lenWord 1⟩ ∧ cmdFn m.words = 0 ∧
    (lenWord 1).lines = 1 ∧ (lenWord 1).bf = false ∧ (lenWord 1).sw = false ∧ (lenWord 1).sc = false ∧
    m.got = [] ∧ m.sent = false ∧ outstanding s (s.ctx 0).id 7 = [] ∧
    ∀ e ∈ [(Need.read, 0x10000), (Need.write, 0x10FC0)], okWith (checkSource s (engineAccessor (s.ctx 0) m) e.1 e.2) (fun w =>
      dieOfGpa w.gpa == (s.ctx 0).die && (checkTarget s (engineAccessor (s.ctx 0) m).pen w.leaf w.gpa false).isNone &&
      w.leaf.cmp == 0 && !w.leaf.e && !w.leaf.wct && !isDescriptor s w.gpa (engineAccessor (s.ctx 0) m).pen) = true := by
  decide +kernel

theorem meets_sigwait : let m := benchCmd 7 (.taken 0) (cmdWords bench.cur 0 false 8 0 0x10FF8 0 0)
    let s := withC bench (fun c => { c with cmds := [m] })
    (s.ctx 0).cmd 7 = some m ∧ m.state = .taken 0 ∧ cmdFn m.words = 8 ∧
    (let a := engineAccessor (s.ctx 0) m
     let va := (cmdOpa m.words).toNat
     let u := engineUse (tellAll s (s.ctx 0).id 7) (s.ctx 0) m Need.read va none false
     okWith (checkSource u a Need.read va) (fun w => dieOfGpa w.gpa == (s.ctx 0).die && (checkTarget u a.pen w.leaf w.gpa false).isNone &&
       okWith (readLine u a w) (fun l => lineDword l (va % 64 / 8) == 0)) = true) ∧
    m.sent = false ∧ (0 : Int) ≤ (cmdOpb m.words).toInt ∧
    (cmdOpb (cmdWords bench.cur 0 false 8 0 0x10FF8 (BitVec.allOnes 64) 0)).toInt < 0 ∧
    (benchCmd 7 (.ended 0 0) (cmdWords bench.cur 0 false 8 0 0 0 0)).state = .ended 0 0 ∧ cmdFn (cmdWords bench.cur 0 false 8 0 0 0 0) ≠ 1 := by
  decide +kernel

/-- A delivery of one line to tile 127: admitted, held behind 15 others, parked with a saved context, dropped, and landed. -/
def benchDelivery (st : DeliveryState) (landed : List Nat) : Delivery :=
  ⟨3, 0, 0, 127, 0, 0, 255, 1, 0, st, landed, 0, 0, 0, none, 0, [], false, false⟩

def benchDelivers (t : Tile) (d : Delivery) : State :=
  { (bench.setTile 0 127 t).modCore 0 (fun c => { c with holdq := List.replicate 15 9 }) with deliveries := [d] }

/-- The same with tile 127 saved with a context of virtual core 0. -/
def benchSaved (t : Tile) (d : Delivery) : State :=
  let s := benchDelivers Tile.reset d
  { s with ctxs := s.ctxs ++ [(slotKey 0 0 1, { bench.cur with status := .waiting, savedTiles := [(127, t)] })] }

/-- EngineEventsComplete: where each delivery finds its tile, and where an admitted one lands. -/
theorem meets_deliveries : let x : Tile := { Tile.reset with pen := 0, alloc := true }
    (∀ e ∈ [(x, .presented, []), ({ x with full := true }, .presented, []), ({ x with land := true }, .presented, []),
        ({ x with alloc := false }, .presented, []), ({ x with land := true }, .admitted, [255])],
      let d := benchDelivery e.2.1 e.2.2
      let s := benchDelivers e.1 d
      s.delivery 3 = some d ∧ s.tile (coreKey 0 0) 127 = e.1 ∧ (s.core (coreKey 0 0)).holdq.length < 16 ∧
      findPlace s (coreKey 0 0) d.vi d.vcn d.pen d.tile = (if e.1.alloc then some (.core (coreKey 0 0)) else none) ∧
      landPlace s d = if e.1.land then some (.core (coreKey 0 0)) else none) := by decide +kernel

theorem meets_parked : let x : Tile := { Tile.reset with pen := 0, alloc := true, land := true }
    let d := benchDelivery .presented []
    let s := benchSaved x d
    s.delivery 3 = some d ∧ (s.core (coreKey 0 0)).holdq.length < 16 ∧
    findPlace s (coreKey 0 0) d.vi d.vcn d.pen d.tile = some (.slot (slotKey 0 0 1)) ∧
    landPlace (benchSaved x (benchDelivery .admitted [255])) (benchDelivery .admitted [255]) = some (.slot (slotKey 0 0 1)) := by
  decide +kernel

/-- A message from one die to another, of the line at VA 0x10000 or of a result, with a fresh number. -/
def benchMsg (t : PacketType) (src dst : Nat) (aux : BitVec 8) (data : List Line) (op : HomeOp) : Msg :=
  ⟨t, src, dst, 0, 4198400, aux, data, false, BitVec.ofNat 128 (7 + 65536 * 4100), op, maskAll, 65535, none⟩

/-- The domain secret on the packages of dies 0 and 1. -/
def secrets (s : State) : State := (s.modPkg 0 (fun k => { k with secret := some 9 })).modPkg 1 (fun k => { k with secret := some 9 })

/-- The packet of a message at its target, which has heard of its source so much. -/
def arriving (m : Msg) (x : Receive) : State :=
  let s := (secrets bench).modRouter m.dst (fun r => { r with sources := [(m.src, x)] })
  { s with packets := [{ (formPacket s m).1 with n := 3, here := m.dst }] }

/-- A packet arrives as its message, and stands to its source as said. -/
def arrives (m : Msg) (high : BitVec 16) (r : Repeat) : Bool :=
  match arrivePacket (arriving m ⟨high, 0, [], 0⟩) 3 m.type with
  | (some y, u) => y == m && ((u.router m.dst).source m.src).judge m.seq == r
  | _ => false

/-- FabricEventsComplete: a request of each type that arrives, one of them also as a repeat. -/
theorem meets_wr : arrives (benchMsg .wr 1 0 0 [] .none) 65535 .fresh = true := by decide +kernel

theorem meets_repeat : arrives (benchMsg .wr 1 0 0 [] .none) 100 .repeated = true := by decide +kernel

theorem meets_red : arrives (benchMsg .red 1 0 2 [] .none) 65535 .fresh = true := by decide +kernel

theorem meets_hop : arrives (benchMsg .hop 1 0 0 [1] .sigDec) 65535 .fresh = true := by decide +kernel

theorem meets_lrp : arrives (benchMsg .lrp 1 0 1 [] .none) 65535 .fresh = true := by decide +kernel

theorem meets_mgt : arrives (benchMsg .mgt 1 0 0 [] .none) 65535 .fresh = true := by decide +kernel

theorem meets_dlv : arrives (benchMsg .dlv 1 0 0xC0 [] .none) 65535 .fresh = true := by decide +kernel

/-- A read of one line, which can be read. -/
theorem meets_rd : (match arrivePacket (arriving (benchMsg .rd 1 0 0 [] .none) ⟨65535, 0, [], 0⟩) 3 .rd with
    | (some m, u) => isOk (rdLines m (if ((u.router m.dst).source m.src).judge m.seq = .repeated then u
        else u.modReceive m.dst m.src (fun x => x.perform m.seq))).1
    | _ => false) = true := by decide +kernel

/-- A packet with its last hop but one before it, and one that has waited too long. -/
theorem meets_packets : let h := BitVec.ofNat 256 (2 ^ 146 + 2 ^ 133 + 2 ^ 8 * 46)
    let p : Packet := { blankPacket with header := h, here := 0, since := 1000 }
    let s := (secrets { bench with packets := [p] }).modDie 0 (fun d => { d with routes := [(1, 0x80000000)] })
    s.packet 3 = some p ∧ p.dst = 1 ∧ p.here ≠ p.dst ∧ (s.secretOf p.here).isSome = true ∧ routeP (routeOf (s.die p.here) p.dst) = true ∧
    p.hops + 1 < 48 ∧ s.cycle ≤ p.since + 47000 ∧ linkOf (routeOf (s.die p.here) p.dst) < 6 ∧
    (s.router p.here).dead.contains (linkOf (routeOf (s.die p.here) p.dst)) = false ∧
    p.since + 47000 < ({ s with cycle := 48001 } : State).cycle := by decide +kernel

/-- A request of die 1 that die 0 answers. -/
def benchRequest (id : Nat) (st : RequestState) : Request :=
  ⟨{ blankPacket with n := 3, first := 100 }, { benchMsg .wr 1 0 0 [] .none with seq := 65535 }, id, 7, 0, 100, st, false⟩

/-- A response that arrives at die 1, of a code, to the request of a command that is at its engine or that no context has. -/
def responds (t : PacketType) (code : Nat) (id : Nat) : Bool :=
  let m := benchMsg t 0 1 (BitVec.ofNat 8 code) [] .none
  let s := withC (arriving m ⟨65535, 0, [], 0⟩) (fun c => { c with id := 5, cmds := [benchCmd 7 (.taken 0) 0] })
  match arrivePacket (s.modRouter 1 (fun r => { r with requests := [benchRequest id .sent] })) 3 t with
  | (some y, u) => y.aux.toNat == code && (u.router y.dst).request y.src y.seq == some (benchRequest id .sent) &&
      (servedCmd (dropRequest u y.dst (benchRequest id .sent)) (benchRequest id .sent)).isSome == (id == 5)
  | _ => false

theorem meets_data : responds .rdr 0 77 = true := by decide +kernel

theorem meets_held : responds .rsp rspHeld 77 = true ∧ rspDone ≠ rspHeld ∧ rspDone ≠ rspBusy := by decide +kernel

theorem meets_busy : responds .rsp rspBusy 77 = true := by decide +kernel

theorem meets_done : responds .rsp rspDone 77 = true ∧ responds .rsp rspDone 5 = true := by decide +kernel

theorem meets_admit : responds .rsp rspAdmit 5 = true := by decide +kernel

theorem meets_fault : responds .rsp rspFault 5 = true := by decide +kernel

/-- A request to be sent again, and one that met BUSY. -/
theorem meets_reissues : let asks := fun (st : RequestState) =>
      (({ bench with cycle := 100 + cycles20us } : State).modRouter 1 (fun r => { r with requests := [benchRequest 77 st] }))
    ((asks .sent).router 1).requests.find? (fun x => x.pkt.n == 3) = some (benchRequest 77 .sent) ∧
    (benchRequest 77 .sent).last + cycles20us ≤ (asks .sent).cycle ∧ (asks .sent).cycle < (benchRequest 77 .sent).pkt.first + cycles2ms ∧
    (asks .busy).dies.findSome? (fun (d, x) => (x.router.requests.find? (fun q => q.pkt.n == 3)).map (fun q => (d, q))) =
      some (1, benchRequest 77 .busy) ∧ (asks .busy).room 1 (benchRequest 77 .busy).msg.dst = true := by decide +kernel

/-- An S word and a command that have had no answer for 2 ms. -/
theorem meets_timeouts : let s := { bench with cycle := 100 + cycles2ms }
    let l : Lost := ⟨100, 100, 1, 0, 0, 0, none, true⟩
    let push : Request := { benchRequest 5 .sent with msg := { (benchRequest 5 .sent).msg with dst := 1, op := .push } }
    let v := withC (s.modRouter 0 (fun r => { r with requests := [push] })) (fun c => { c with id := 5 })
    let u := withC (s.modRouter 0 (fun r => { r with requests := [benchRequest 5 .sent] })) (fun c =>
      { c with id := 5, cmds := [benchCmd 7 (.taken 0) 0] })
    (s.ctx 0).status ≠ .empty ∧ ((withC s (fun c => { c with lost := some l })).ctx 0).lost = some l ∧
    l.dst = (1 : BitVec 14).toNat ∧ l.first + cycles2ms ≤ s.cycle ∧
    (u.ctx 0).cmd 7 = some (benchCmd 7 (.taken 0) 0) ∧ expired u (u.ctx 0) 7 = true ∧
    (v.ctx 0).lost = none ∧ pushExpired v (v.ctx 0) (1 : BitVec 14).toNat = true := by decide +kernel

/-- Deliveries from another die that were held: one of which lines are to come, and one whose FIRST was the whole. -/
theorem meets_admits : let d : Delivery := { benchDelivery .admitted [] with remote := some (1, 7), waited := true }
    let more := { d with lines := 0 }
    let whole := { d with data := [5] }
    ({ bench with deliveries := [more] } : State).delivery 3 = some more ∧ more.data = [] ∧ more.lines = 0 ∧
    (benchDelivers { Tile.reset with pen := 0, alloc := true, land := true } whole).delivery 3 = some whole ∧ whole.landed = [] ∧
    whole.lines = whole.data.length ∧
    landPlace (benchDelivers { Tile.reset with pen := 0, alloc := true, land := true } whole) whole = some (.core (coreKey 0 0)) := by
  decide +kernel

/-- An ended delivery from another die, and links alive and dead. -/
theorem meets_links : let d : Delivery := { benchDelivery .ended [] with remote := some (1, 7) }
    ({ bench with deliveries := [d] } : State).delivery 3 = some d ∧
    (∀ l ∈ [(0 : BitVec 3), 5], l.toNat < 6 ∧ (bench.router 0).dead.contains l.toNat = false) ∧
    ((bench.modRouter 0 (fun r => { r with dead := [5] })).router 0).dead.contains (5 : BitVec 3).toNat = true := by decide +kernel

/-- Door 0 with three messages, from the last number to the first two. -/
def benchHead : State :=
  let d : Door := ⟨setField (setField (benchDoor 0x13000 true).desc 368 32 2) 400 32 (2 ^ 32 - 1), 0⟩
  bench.modPkg 0 (fun k => { k with doors := [(0, d)] })

/-- HostEventsComplete: a message for door 1, one byte too short and whole; HEAD of door 0; two lines of memory. -/
theorem meets_host : answers bench 0 0 false ∧ answers0 bench 0 0 ∧ viDfirst ((bench.pkg 0).vi 0) + 1 = 1 ∧
    1 < viDcount ((bench.pkg 0).vi 0) ∧ dOut ((bench.pkg 0).door 1).desc = false ∧ doorOpen bench 0 0 1 = true ∧
    (List.replicate 64 (1 : Byte)).length = 64 ∧ (List.replicate 63 (1 : Byte)).length ≠ 64 ∧
    isOk (doorAppend bench 0 0 1 (lineOf (List.replicate 64 1))) = true ∧
    (let d := (benchHead.pkg 0).door 0
     dOut d.desc = true ∧ dPen d.desc = bench.penOf 0 0 ∧ span32 2 (dHead d.desc) ≤ span32 (dTail d.desc) (dHead d.desc) ∧
     span32 (dTail d.desc) (dHead d.desc) < span32 3 (dHead d.desc)) ∧
    bench.rejects 0 0 false = false ∧ bench.absent 0 = false ∧ bench.rejects0 0 0 = false ∧
    (bench.modPkg 0 (fun k => { k with tdisp := [(255, .error)] })).rejects 0 255 false = true ∧
    readPieces bench ⟨die0 0, 0, bench.penOf 0 0⟩ (piecesOf 0x8003F 2) = none ∧
    (readPieces bench ⟨die0 0, 0, bench.penOf 0 0⟩ (piecesOf 0x1003F 2)).isSome = true ∧
    (writePieces bench ⟨die0 0, 0, bench.penOf 0 0⟩ (piecesOf 0x1003F 2) [1, 2]).1 = true ∧
    (writePieces bench ⟨die0 0, 0, bench.penOf 0 0⟩ (piecesOf 0x8003F 2) [1, 2]).1 = false := by
  unfold answers answers0; decide +kernel

/-- A record to be written at the last place but one of a trace ring. -/
theorem meets_trace : let r : TraceCopy := { TraceCopy.reset with tbase := 0x12000, tcap := 7, twptr := 127, queue := [5] }
    let s := bench.setCluster 0 15 { Cluster.reset with traceHyp := r }
    let x := traceOf s 0 15 true
    let a : Accessor := ⟨0, 0, s.penOf (pkgOf 0) 0⟩
    answers0 s (pkgOf 0) 0 ∧ x.queue = [5] ∧ (s.die 0).clusters ≠ [] ∧ x.ringOk = true ∧ x.tbase.toNat % 32 = 0 ∧ span32 x.twptr.toNat x.trptr.toNat ≠ x.capacity ∧
    targetOf s a Need.write 0x12FE0 = 0 ∧ isOk (homeWrite (lateWrite (afterAccess s a Need.write 0x12FE0 false) a 0x12FE0) a Need.write 0x12FE0
      (maskRange 32 32) (BitVec.ofNat 512 (5 * 2 ^ 256))) = true ∧
    x.tbase.toNat + 32 * (x.twptr.toNat % x.capacity) = 0x12FE0 := by unfold answers0; decide +kernel

/-- The bench with its context and its queues in VI 5, which has one virtual core. -/
def benchVi5 : State := ((bench.modPkg 0 (fun k => { k with viMap := [(5, benchVi (k.vi 0))] })).modCtx 0 (fun c => { c with
  vi := 5, id := 77 })).modDie 0 (fun d => { d with coreMap := [(65536 * 5, benchCore)] })

/-- HostEventsComplete: the last pair of overflow counters of VI 5. -/
theorem meets_overflow_read : benchVi5.rejects0 0 (5 : BitVec 8).toNat = false ∧
    2 * 1 + 1 < viDcount ((benchVi5.pkg 0).vi (5 : BitVec 8).toNat) := by decide +kernel

/-- ManagementEventsComplete: one target of a PREEMPT or a CANCEL, alone and with its groups. -/
theorem meets_preempt : preIgnored benchVi5 0 5 = false ∧ (∀ g ∈ [true, false], preTargets benchVi5 0 5 0 g = [77]) ∧
    preTargets benchVi5 0 5 0xFFFF false = [77] ∧ benchVi5.keyOfId 77 = some 0 ∧ isSlot 0 = false ∧
    (benchVi5.ctx 0).committing = false ∧ (benchVi5.pkg 0).cancelq = [] ∧ (benchVi5.pkg 0).preq = [] ∧
    (let n := viVcores (benchVi5.ctxVi (benchVi5.ctx 0))
     (freeSlot benchVi5 (benchVi5.ctx 0).pkg (benchVi5.ctx 0).vi.toNat (2 * n) (4 * n)).isSome = true) ∧
    (benchVi5.ctx 0).status ≠ .empty := by decide +kernel

/-- SEED into the last queue of VI 0; a session; a key slot ASSIGNED; an interface of each state. -/
theorem meets_management : bench.absent 0 = false ∧ (bench.pkg 0).mailRun = none ∧ mailWaits 0 (bench.pkg 0).mailRequest (mailOp bench 0 (bench.pkg 0).mailRequest) = [] ∧ viQfirst ((bench.pkg 0).vi 0) ≤ 1 ∧
    1 < viQfirst ((bench.pkg 0).vi 0) + viQcount ((bench.pkg 0).vi 0) ∧ qEn ((bench.pkg 0).queue 1) = true ∧
    viState ((bench.pkg 0).vi 0) = 1 ∧ session bench 0 0 ∧ session bench 0 255 ∧ (1 : Dword).getLsbD 0 = true ∧
    (let h : Dword := 0x400000000000
     keyState h = 1 ∧ keyPen h = bench.penOf 0 0) ∧
    Table.get (bench.pkg 0).tdisp 255 .unlocked = .unlocked ∧
    Table.get ((bench.modPkg 0 (fun k => { k with tdisp := [(255, .locked)] })).pkg 0).tdisp 255 .unlocked = .locked := by
  unfold session; decide +kernel

/-- A WINDOW request in the mailbox while a request of VI 0 is outstanding, and the mailbox that waits for it. -/
theorem meets_mailbox : let s := (benchAsking blankPacket).modPkg 0 (fun k =>
      { k with mailbox := [11, 0] ++ List.replicate 6 0 ++ [1] ++ List.replicate 183 0 })
    let x := mailOp s 0 (s.pkg 0).mailRequest
    s.absent 0 = false ∧ (s.pkg 0).mailRun = none ∧ x.1 = .done 0 ∧ mailWaits 0 (s.pkg 0).mailRequest x = [(3, 0)] ∧
    ((mailDone 0 [(3, 0)] x).pkg 0).mailRun ≠ none := by decide +kernel

/-- ResetAndSweepEventsComplete: a VI to reset, one that waits, the first degree of a halt, a pass to start and a line to visit. -/
def benchGens (rcnt snap : Nat) (f : Sweep → Sweep) : State :=
  ((bench.modPkg 0 (fun k => { k with flrPending := [255], gens := [(3, BitVec.ofNat 64 (65536 * rcnt + 256 * snap))] })).setSweep 0 f).setSweep 384 f

theorem meets_resets : viState ((bench.pkg 0).vi 255) ≠ 2 ∧ (bench.pkg 0).shutBusy 255 = false ∧
    ((benchGens 0 0 id).pkg 0).flrPending.contains 255 = true ∧ ((benchGens 0 0 id).pkg 0).shutBusy 255 = false := by decide +kernel

/-- ResetAndSweepEventsComplete: a pass to start, a line to visit and a pass that has ended. -/
theorem meets_sweep : let s := benchGens 2 0 id
    let v := { benchGens 2 2 (fun x => { x with run := true, prog := 805306367 }) with cycle := 4700000 }
    let e := benchGens 2 2 (fun x => { x with run := true, prog := x.total })
    sweepIdle s 0 = true ∧ (s.pkg 0).sweepDue = true ∧ (v.sweep 384).run = true ∧ die1 0 = 384 ∧
    (v.sweep 384).prog.toNat < (v.sweep 384).target ∧ snapQuiet v (pkgOf 384) = true ∧ (v.sweep 384).begun + cycles5ms ≤ v.cycle ∧
    (v.sweep 384).unit (v.sweep 384).prog.toNat = .line 805306367 ∧
    (e.sweep (die0 0)).finished = true ∧ (e.sweep (die1 0)).finished = true := by decide +kernel

/-- OperandsAreChecked: descriptors, handles, tiles, commands and privilege. -/
def benchBad : State := withA (withS bench [(1, 0x10001), (2, 0x10040)]) [(1, 128), (2, 127), (3, 0x10001), (4, 1)]

theorem meets_operand_checks : benchBad.cur.groupWait (benchBad.rS 1) = none ∧ benchBad.cur.groupWait (benchBad.rS 2) = none ∧ (benchBad.rS 1).toNat % 64 ≠ 0 ∧ (benchBad.rS 2).toNat % 64 = 0 ∧
    benchBad.cur.membership (benchBad.rS 2) = none ∧ envNamed benchBad 1 = none ∧
    hLive ((withC benchBad (fun c => { c with k := c.k.set 1 ⟨bench.pen, handle bench.pen 0 5 3⟩ })).cur.readK bench.pen 1) = true ∧
    envNamed (withC benchBad (fun c => { c with k := c.k.set 1 ⟨bench.pen, handle bench.pen 0 5 3⟩ })) 1 = none ∧
    128 ≤ (benchBad.rA 1).toNat ∧ (benchBad.rA 2).toNat < 128 ∧ ownsTile benchBad (benchBad.rA 2).toNat = false ∧
    (∀ f ∈ [CopyFn.cpy, .cpyf, .cpymc, .cpylr, .cpyrd],
      (copyCheck f benchBad.cur.vcn.toNat (benchBad.rA 3) (benchBad.rA 3) (benchBad.rA 4)).isSome = true) ∧
    (benchBad.rA 3).toNat % 8 ≠ 0 ∧ (benchBad.rA 3).toNat % 128 ≠ 0 ∧ benchVi5.cur.vi ≠ 0 := by decide +kernel

theorem meets_outside_vi0 : atStart benchVi5 := fun _ _ h => by cases h

def benchFull : State :=
  withA (withC bench (fun c => { c with cmds := List.replicate 16 (benchCmd 0 .queued 0) })) [(1, 0x11000), (2, 0x10000), (3, 1)]

theorem meets_full_engine : let s := benchFull
    16 ≤ s.cur.cmds.length ∧
    copyCheck .cpy s.cur.vcn.toNat (s.rA 1) (s.rA 2) (s.rA 3) = none := by decide +kernel

/-- StepRunsDecodedInstruction: the bench, whose next word is a NOP, and an act of each unit that is due. -/
theorem meets_step : bench.agenda = [] ∧ nextTurn bench = some (.issue ⟨0, .s⟩) ∧ (bench.pkg (bench.ctx 0).pkg).halted = false ∧
    (let u := issuing bench ⟨0, .s⟩
     (u.cur.pc .s).toNat % Stream.s.wordAlign = 0 ∧ okWith (fetchWord u .s) (fun n => okWith (decodeBits .s n) (fun i =>
        decide (i = .nop) && runs i (useWord u .s))) = true) := by decide +kernel

theorem meets_step_acts : isRow .kstepCommit .kstepCommit ∧
    (∀ e ∈ [Turn.act .kstepCommit, .on 1 .kstepCommit],
      ({ bench with agenda := [e] } : State).agenda = e :: [] ∧ runs .kstepCommit { bench with agenda := [] } = true ∧
      runs .kstepCommit { bench with agenda := [], focus := ⟨1, .s⟩ } = true) := ⟨rfl, by decide +kernel⟩

/-- With nothing due the next cycle begins; the halted domain stops. -/
theorem meets_idle_step : let s := { bench with ctxs := [] }
    let h := { s with pkgs := [(0, { bench.pkg 0 with halted := true })] }
    s.agenda = [] ∧ nextTurn s = none ∧ s.halted = false ∧ h.agenda = [] ∧ nextTurn h = none ∧ h.halted = true := by
  decide +kernel

/-- StepKeepsMemory. -/
theorem meets_memory : bench.memOk = true ∧ (match step bench with | .next _ => true | _ => false) = true := by decide +kernel

/-- DieNumbers: the last die. -/
theorem meets_dies : 15 < 16 ∧ 23 < 24 ∧ dieX 9215 = 15 ∧ dieY 9215 = 23 ∧ dieZ 9215 = 23 ∧ pkgOf 9215 = 4607 := by decide +kernel

/-- ScalarWordsRoundTrip and ComputeWordsRoundTrip. -/
theorem meets_round_trip : ownWord (.li 7 0x80000000) .s ∧ ownWord (.addiA 31 31 0xFFFF) .a ∧ (Instr.li 7 0x80000000).wf = true ∧
    (Instr.addiA 31 31 0xFFFF).wf = true ∧ (Instr.vadd fullV).stream = some .v ∧ (Instr.vadd fullV).wf = true ∧
    (Instr.mma (mWord 7)).stream = some .m ∧ (Instr.mma (mWord 7)).wf = true := by
  refine ⟨⟨rfl, fun e he d a h => ?_⟩, ⟨rfl, fun e he d a h => ?_⟩, ?_⟩
  · simp only [vimapRows, List.mem_cons, List.not_mem_nil, or_false] at he
    rcases he with rfl | rfl | rfl | rfl | rfl | rfl | rfl | rfl | rfl | rfl | rfl | rfl | rfl | rfl | rfl <;> cases h
  · simp only [vimapRows, List.mem_cons, List.not_mem_nil, or_false] at he
    rcases he with rfl | rfl | rfl | rfl | rfl | rfl | rfl | rfl | rfl | rfl | rfl | rfl | rfl | rfl | rfl <;> cases h
  · decide +kernel

/-! ### Single steps, with values worked out by hand from the rules named -/

/-- The state after an execution. -/
def after (i : Instr) (s : State) : State := match exec i s with | .next t => t | _ => s

/-- R220: the most negative number by −1, and a division by zero. -/
theorem test_division : let s := withS bench [(1, 0x8000000000000000), (2, 0xFFFFFFFFFFFFFFFF), (3, 7)]
    (after (.div 4 1 2) s).rS 4 = 0x8000000000000000 ∧ (after (.rem 4 1 2) s).rS 4 = 0 ∧
    (after (.div 4 3 0) s).rS 4 = 0xFFFFFFFFFFFFFFFF ∧ (after (.rem 4 3 0) s).rS 4 = 7 ∧
    (after (.div 4 2 3) s).rS 4 = 0 ∧ (after (.rem 4 2 3) s).rS 4 = 0xFFFFFFFFFFFFFFFF := by decide +kernel

/-- R219, R221: the high halves of a product, and a count of shift taken modulo 64. -/
theorem test_products : let s := withS bench [(2, 0xFFFFFFFFFFFFFFFF), (3, 65)]
    (after (.mulh 4 2 2) s).rS 4 = 0 ∧ (after (.mulhu 4 2 2) s).rS 4 = 0xFFFFFFFFFFFFFFFE ∧
    (after (.sll 4 2 3) s).rS 4 = 0xFFFFFFFFFFFFFFFE ∧ (after (.sra 4 2 3) s).rS 4 = 0xFFFFFFFFFFFFFFFF ∧
    (after (.clz 4 3) s).rS 4 = 57 ∧ (after (.popc 4 2) s).rS 4 = 64 := by decide +kernel

/-- R222, R226: a constant shifted and extended by its sign; JAL writes s31; a destination s0 is discarded. -/
theorem test_constants_and_jumps : (after (.lui 4 0x8000) bench).rS 4 = 0xFFFFFFFF80000000 ∧
    (after (.jal 0xFFFF) bench).rS 31 = 4 ∧ (after (.jal (BitVec.ofInt _ (-1))) bench).cur.pcS = 0xFFFFFFFFFFFFFFFC ∧
    (after (.addi 0 0 5) bench).rS 0 = 0 := by decide +kernel

/-- R333, R126, R23: a PERM trap of S, code 2, and a token that is not there. -/
theorem test_traps : (after (.csrw 1 0x000) benchTrap).rS 0 = 0 ∧ (after (.csrw 1 0x000) benchTrap).cur.pcS = 0x100 ∧
    (after (.csrw 1 0x000) benchTrap).cur.tcause.val = 2 ∧ (after (.csrw 1 0x000) benchTrap).cur.epcS.val = 0 ∧
    (after (.tokw 1) bench).cur.pcS = 0 := by decide +kernel

/-- The push of a V word on entries of x and of y alone. -/
def pushed (i : VWord → Instr) (w : VWord) (x y : Word) : Word :=
  let s := withC bench (fun c => { c with v := (c.v.set 1 [⟨bench.pen, Vector.replicate 128 x⟩]).set 2 [⟨bench.pen, Vector.replicate 128 y⟩] })
  ((after (i w) s).cur.flights.map (fun f => f.lanes.getD 127 0)).headD 0xDEADBEEF

/-- R50, R294: FP32 sums to even and past the greatest number, an integer sum with SAT, and a quotient by zero. -/
theorem test_elements : pushed .vadd okV2 0x3F800001 0x33800000 = 0x3F800002 ∧ pushed .vadd okV2 0x7F7FFFFF 0x7F7FFFFF = 0x7F800000 ∧
    pushed .vadd { okV2 with ty := 4, sat := true } 0x7FFFFFFF 1 = 0x7FFFFFFF ∧
    pushed .vdiv okV2 0x3F800000 0 = 0x7F800000 := by decide +kernel

/-- What a word is refused as. -/
def refusedAs (st : Stream) (n : Nat) (e : DecodeError) : Bool :=
  match decodeBits st n with | .error x => x == e | .ok _ => false

/-- R199: an opcode and a function that name nothing, a reserved bit, and a field's illegal value. -/
theorem test_refused : refusedAs .s 0xFC000000 .unassignedOpcode = true ∧ refusedAs .s 0xE000001F .unassignedFunction = true ∧
    refusedAs .s 0xE0010000 .reservedField = true ∧ refusedAs .s 0x18210040 .illegalField = true ∧
    refusedAs .v 0x00000000_00000000_00000000 .unassignedOpcode = true ∧
    refusedAs .m 0xFF000000_00000000_00000000_00000000_00000000_00000000 .unassignedOpcode = true := by decide +kernel

end Sys2Proof.Tests
end

section
/-! CERTIFICATE. The values at reset (O56), and what they rest on: the tables of State.reset are empty, so each accessor
gives its default (R414); of a package at reset only VI 0 is listed in the VI map. -/

namespace Sys2Proof.Machine

/-! ### Fields of shifted words -/

@[simp] theorem field_zero {n : Nat} (lo w : Nat) : field (0 : BitVec n) lo w = 0 := by simp [field]

/-- The field at the place to which a word is shifted holds the word's low bits. -/
theorem field_shiftLeft {n : Nat} (x : BitVec n) {k w : Nat} (h : k + w ≤ n) : field (x <<< k) k w = field x 0 w := by
  refine congrArg BitVec.toNat (BitVec.eq_of_getLsbD_eq fun i hi => ?_)
  have hn : k + i < n := by omega
  simp only [BitVec.getLsbD_extractLsb', BitVec.getLsbD_shiftLeft, hi, hn]
  simp

/-- A field below the place to which a word is shifted is zero. -/
theorem field_shiftLeft_below {n : Nat} (x : BitVec n) {k lo w : Nat} (h : lo + w ≤ k) : field (x <<< k) lo w = 0 := by
  refine congrArg BitVec.toNat (BitVec.eq_of_getLsbD_eq (y := 0#w) fun i hi => ?_)
  have hk : lo + i < k := by omega
  simp [hk]

/-- A field at the bottom of a word is the word modulo its width. -/
theorem field_low {n : Nat} (x : BitVec n) (w : Nat) : field x 0 w = x.toNat % 2 ^ w := by simp [field]

/-! ### The default of each accessor of State -/

@[simp] theorem State.reset_ctx (k : Nat) : State.reset.ctx k = .empty := rfl
@[simp] theorem State.reset_core (ck : Nat) : State.reset.core ck = .reset := rfl
@[simp] theorem State.reset_die (d : Nat) : State.reset.die d = .reset := rfl
@[simp] theorem State.reset_pkg (p : Nat) : State.reset.pkg p = .reset := rfl
@[simp] theorem State.reset_tile (ck n : Nat) : State.reset.tile ck n = .reset := rfl
@[simp] theorem State.reset_sweep (d : Nat) : State.reset.sweep d = Die.reset.sweep := rfl

/-! ### Memories -/

/-- Every line of an empty memory is void (R92). -/
@[simp] theorem Memory.pen_empty (l : Nat) : Memory.empty.pen l = voidPen := rfl

/-- Device memory is empty, and no core or context is listed whose memories would have to be in canonical form. -/
theorem State.reset_memOk : State.reset.memOk = true :=
  (State.memOk_iff _).2 ⟨Memory.wf_empty, List.forall_mem_nil _, List.forall_mem_nil _⟩

/-! ### The VI map and the generations -/

theorem Pkg.reset_vi_zero : Pkg.reset.vi 0 = 1#1024 <<< 728 := rfl

theorem Pkg.reset_vi_of_ne_zero {v : Nat} (h : v ≠ 0) : Pkg.reset.vi v = 0 := by
  simp [Pkg.vi, Pkg.reset, Table.get, Ne.symm h]

/-- VI 0 is ACTIVE and every other VI is FREE (R163). -/
theorem Pkg.reset_viState (v : Nat) : viState (Pkg.reset.vi v) = if v = 0 then 1 else 0 := by
  by_cases h : v = 0
  · rw [if_pos h, h, Pkg.reset_vi_zero]
    calc viState (1#1024 <<< 728)
      _ = field 1#1024 0 2 := field_shiftLeft _ (by decide)
      _ = (1#1024).toNat % 2 ^ 2 := field_low _ _
      _ = 1 := congrArg (· % 2 ^ 2) (BitVec.toNat_one (by decide))
  · rw [if_neg h, Pkg.reset_vi_of_ne_zero h]
    exact field_zero _ _

@[simp] theorem Pkg.reset_gen (v : Nat) : Pkg.reset.gen v = 0 := rfl

/-! ### Queues and doors -/

@[simp] theorem Pkg.reset_queue (q : Nat) : Pkg.reset.queue q = Desc.reset := rfl
@[simp] theorem Pkg.reset_door (d : Nat) : Pkg.reset.door d = .reset := rfl

/-- Of a descriptor at reset every field below PEN is zero (R148, R155). -/
theorem Desc.reset_field {lo w : Nat} (h : lo + w ≤ 432) : field Desc.reset lo w = 0 := field_shiftLeft_below _ h

theorem Desc.reset_qEn : qEn Desc.reset = false := congrArg (· == 1) (Desc.reset_field (lo := 55) (w := 1) (by decide))
theorem Desc.reset_dEn : dEn Desc.reset = false := congrArg (· == 1) (Desc.reset_field (lo := 47) (w := 1) (by decide))

end Sys2Proof.Machine

namespace Sys2Proof.Slice0

open Sys2Proof.Machine

/-- Settles O56: each accessor reads its default, and each default has the value asked of it. -/
theorem resetValues : Obligations.ResetValues := by
  refine ⟨State.reset_memOk, rfl, ?context, ?viMap, ?generations, ?memory, ?scratchpads, ?tiles, ?queues, ?package, ?die⟩
  case context => exact fun k => congrArg Ctx.status (State.reset_ctx k)
  case viMap => intro p v; rw [State.reset_pkg]; exact Pkg.reset_viState v
  case generations =>
    intro p v
    rw [State.reset_pkg, Pkg.reset_gen]
    exact ⟨field_zero _ _, field_zero _ _⟩
  case memory => exact Memory.pen_empty
  case scratchpads => intro ck l; rw [State.reset_core]; exact Memory.pen_empty l
  case tiles => exact fun ck n => congrArg Tile.alloc (State.reset_tile ck n)
  case queues =>
    intro p q
    rw [State.reset_pkg, Pkg.reset_queue, Pkg.reset_door]
    exact ⟨Desc.reset_qEn, Desc.reset_dEn, rfl⟩
  case package => intro p; rw [State.reset_pkg]; exact ⟨rfl, rfl, rfl⟩
  case die => intro d; rw [State.reset_die, State.reset_sweep]; exact ⟨rfl, rfl, rfl⟩

end Sys2Proof.Slice0
end

section
/-! CERTIFICATE. The numbers of dies and packages (O59). A coordinate is a digit of a die's index in the mixed radix
16, 24, 24 (R14). Packages are numbered in the same radix, by the coordinates x and y and the pair of planes z they
take up: package (x, y, m) holds the dies (x, y, 2·m) and (x, y, 2·m + 1). -/

namespace Sys2Proof.Machine

/-- The number with the digits x, y and z: R14's index of a die and, for z a pair of planes, its index of a package. -/
def gridIndex (x y z : Nat) : Nat := x + 16 * (y + 24 * z)

theorem gridIndex_lt {x y z n : Nat} (hx : x < 16) (hy : y < 24) (hz : z < n) : gridIndex x y z < 384 * n := by
  unfold gridIndex; omega

/-! ### The digits of an index -/

theorem dieX_gridIndex {x : Nat} (y z : Nat) (hx : x < 16) : dieX (gridIndex x y z) = x := by
  unfold dieX gridIndex; omega

theorem dieY_gridIndex {x y : Nat} (z : Nat) (hx : x < 16) (hy : y < 24) : dieY (gridIndex x y z) = y := by
  unfold dieY gridIndex; omega

theorem dieZ_gridIndex {x y : Nat} (z : Nat) (hx : x < 16) (hy : y < 24) : dieZ (gridIndex x y z) = z := by
  unfold dieZ gridIndex; omega

/-- Die 1 of a package is the one with odd z. -/
theorem isDie1_eq_odd_dieZ (d : Nat) : isDie1 d = decide (dieZ d % 2 = 1) := rfl

/-! ### A package and its two dies -/

theorem die0_gridIndex {x y : Nat} (m : Nat) (hx : x < 16) (hy : y < 24) :
    die0 (gridIndex x y m) = gridIndex x y (2 * m) := by
  unfold die0 gridIndex; omega

theorem die1_gridIndex {x y : Nat} (m : Nat) (hx : x < 16) (hy : y < 24) :
    die1 (gridIndex x y m) = gridIndex x y (2 * m + 1) := by
  rw [die1, die0_gridIndex m hx hy]
  unfold gridIndex; omega

@[simp] theorem pkgOf_die0 (p : Nat) : pkgOf (die0 p) = p := by unfold pkgOf die0; omega

@[simp] theorem pkgOf_die1 (p : Nat) : pkgOf (die1 p) = p := by unfold pkgOf die1 die0; omega

end Sys2Proof.Machine

namespace Sys2Proof.Slice0

open Sys2Proof.Machine

/-- Settles O59: the coordinates are the digits of a die's index, and a package's dies are its index with z doubled. -/
theorem dieNumbers : Obligations.DieNumbers := by
  refine ⟨fun x y z hx hy hz => ?coordinates, fun x y m hx hy hm => ?package⟩
  case coordinates =>
    have odd : isDie1 (gridIndex x y z) = decide (z % 2 = 1) := by rw [isDie1_eq_odd_dieZ, dieZ_gridIndex z hx hy]
    exact ⟨gridIndex_lt hx hy hz, dieX_gridIndex y z hx, dieY_gridIndex z hx hy, dieZ_gridIndex z hx hy, odd⟩
  case package =>
    exact ⟨gridIndex_lt hx hy hm, die0_gridIndex m hx hy, die1_gridIndex m hx hy, rfl, pkgOf_die0 _, pkgOf_die1 _⟩

end Sys2Proof.Slice0
end

section
/-! SUPPORT. Words that change nothing but the issuing context, in the terms of the statements' frames. -/

namespace Sys2Proof.Machine

@[simp] theorem Ctx.loop_advance (c : Ctx) (st : Stream) (n : Nat) :
    (c.advance st n).loop st = ((c.loop st).next (c.pc st) n).1 := by cases st <;> rfl
@[simp] theorem Ctx.pc_advance (c : Ctx) (st : Stream) (n : Nat) :
    (c.advance st n).pc st = ((c.loop st).next (c.pc st) n).2 := by cases st <;> rfl

theorem State.nextS_eq (s : State) : s.nextS = s.setCur (s.cur.advance .s 4) := rfl
theorem State.nextA_eq (s : State) : s.nextA = s.setCur (s.cur.advance .a 4) := rfl

@[simp] theorem State.setCur_nextS (s : State) (c : Ctx) : (s.setCur c).nextS = s.setCur (c.advance .s 4) := by
  rw [State.nextS_eq, State.cur_setCur, State.setCur_setCur]
@[simp] theorem State.setCur_nextA (s : State) (c : Ctx) : (s.setCur c).nextA = s.setCur (c.advance .a 4) := by
  rw [State.nextA_eq, State.cur_setCur, State.setCur_setCur]

end Sys2Proof.Machine

namespace Sys2Proof.Slice0

open Sys2Proof.Machine

theorem ownOnly_setCur (s : State) (c : Ctx) : ownOnly s (s.setCur c) := ⟨rfl, fun _ h => s.ctx_setCur_other c h⟩

theorem bytesKept_of_mem_eq {s t : State} (h : t.mem = s.mem) : bytesKept s t := fun _ _ => by rw [h]

/-- A stream moves past a word from where it stood, whatever else of the context has changed. -/
theorem past_of_cur_advance {st : Stream} {s t : State} {c : Ctx} {n : Nat} (ht : t.cur = c.advance st n)
    (hl : c.loop st = s.cur.loop st) (hp : c.pc st = s.cur.pc st) : past st s t n := by
  rw [past, ht, Ctx.loop_advance, Ctx.pc_advance, hl, hp]

/-! ### S words whose only effect is a register (R22, R71, R72) -/

theorem wroteS_setS (s : State) (d : Reg) (v : Dword) : wroteS s (setS d v s) d v := fun r => by
  rw [setS_eq, State.rS, State.cur_setCur, State.pen_setCur, Ctx.readS_advance, Ctx.readS_writeS]
  · rfl
  · rw [Ctx.advanceS_same, Ctx.writeS_same]
  · rw [Ctx.advanceS_same, Ctx.writeS_same]

theorem past_setS (s : State) (d : Reg) (v : Dword) : past .s s (setS d v s) 4 := by
  refine past_of_cur_advance (c := s.cur.writeS s.pen d v) ?_ ?_ ?_
  · rw [setS_eq, State.cur_setCur]
  · rw [Ctx.writeS_same]; rfl
  · rw [Ctx.writeS_same]; rfl

theorem restS_setS (s : State) (d : Reg) (v : Dword) : restS s (setS d v s) := by
  rw [restS, setS_eq, State.cur_setCur, Ctx.advanceS_same, Ctx.writeS_same]

theorem setsS_of_exec_eq_setS {i : Instr} {s : State} {d : Reg} {v : Dword} (h : exec i s = .next (setS d v s)) :
    setsS i s d v 4 :=
  ⟨_, h, wroteS_setS s d v, past_setS s d v, restS_setS s d v, setS_eq d v s ▸ ownOnly_setCur s _,
    bytesKept_of_mem_eq rfl⟩

end Sys2Proof.Slice0
end

section
/-! CERTIFICATE. s0 and a0 (O58): a write to either leaves the context as it was, so a word with such a destination
only moves its stream on. -/

namespace Sys2Proof.Machine

theorem setS_zero (v : Dword) (s : State) : setS 0 v s = s.nextS := by rw [setS_eq, Ctx.writeS_zero, State.nextS_eq]
theorem setA_zero (v : Dword) (s : State) : setA 0 v s = s.nextA := by rw [setA_eq, Ctx.writeA_zero, State.nextA_eq]

end Sys2Proof.Machine

namespace Sys2Proof.Slice0

open Sys2Proof.Machine

theorem restS_nextS (s : State) : restS s s.nextS := by
  rw [restS, State.nextS_eq, State.cur_setCur, Ctx.advanceS_same]

/-- Settles O58: a write of register 0 is discarded by writeS and writeA, and what is left of the word is its move. -/
theorem zeroRegisters : Obligations.ZeroRegisters := by
  refine fun s c p v => ⟨Ctx.readS_zero _ _, Ctx.readA_zero _ _, Ctx.readS_zero c p, Ctx.readA_zero c p,
    Ctx.writeS_zero c p v, Ctx.writeA_zero c p v, fun a b => ⟨?addS, ?addA, restS_nextS s, ?regsS, ?regsA⟩⟩
  case addS => exact congrArg _ (setS_zero (s.rS a + s.rS b) s)
  case addA => exact congrArg _ (setA_zero (s.rA a + s.rA b) s)
  case regsS => rw [State.nextS_eq, State.cur_setCur, Ctx.advanceS_same]
  case regsA => rw [State.nextA_eq, State.cur_setCur, Ctx.advanceA_same]

end Sys2Proof.Slice0
end

section
/-! CERTIFICATE. CSRR and CSRW (O22). What either does follows from readCsr and writeCsr alone: their lemmas below
go by the kinds of R87's numbers, the writable ones, the c registers, the read-only ones, and the rest. -/

namespace Sys2Proof.Machine

/-! ### Reads and writes by number (R87) -/

theorem readCsr_c (s : State) (k : Nat) {n : Nat} (h : n < 16) :
    readCsr s k (0x010 + n) = some ((((s.ctx k).c.getD n .void).read (s.ctxPen (s.ctx k))).setWidth 64) := by
  unfold readCsr
  split
  case h_17 =>
    have hi : 0x010 + n ≤ 0x01F := by omega
    simp [hi]
  all_goals omega

/-- Outside VI 0 the physical place reads zero. -/
theorem readCsr_pcore (s : State) : readCsr s s.focus.key 0x030 = some (if s.cur.vi = 0 then
    BitVec.ofNat 64 (65536 * s.cur.die + 256 * (s.cur.home % 144) + (bankOf s.focus.key).toNat) else 0) := by
  by_cases h : s.cur.vi = 0
  · rw [if_pos h]
    exact congrArg some (if_pos (beq_iff_eq.2 h))
  · rw [if_neg h]
    exact congrArg some (if_neg fun e => h (beq_iff_eq.1 e))

theorem writeCsr_c (c : Ctx) (p : Pen) {n : Nat} (v : Dword) (lo : 0x010 ≤ n) (hi : n ≤ 0x01F) :
    writeCsr c p n v = .ok { c with c := c.c.setIfInBounds (n - 0x010) ⟨p, v.setWidth 32⟩ } := by
  unfold writeCsr
  split
  case h_17 => simp [lo, hi]
  all_goals omega

end Sys2Proof.Machine

namespace Sys2Proof.Slice0

open Sys2Proof.Machine

/-- Of a context nothing differs but the CSRs of `writableCsrs`. -/
def csrsAlone (c c' : Ctx) : Prop :=
  c' = { c with rmode := c'.rmode, tvec := c'.tvec, epcS := c'.epcS, epcA := c'.epcA, epcV := c'.epcV, epcM := c'.epcM,
                epcMN := c'.epcMN }

theorem writeCsr_writable (c : Ctx) (p : Pen) (v : Dword) : ∀ e ∈ writableCsrs,
    ∃ c', writeCsr c p e.1 v = .ok c' ∧ e.2.2 c' = ⟨p, v &&& e.2.1⟩ ∧ csrsAlone c c' := by
  have whole : (⟨p, v⟩ : Tag 64) = ⟨p, v &&& BitVec.allOnes 64⟩ := by rw [BitVec.and_allOnes]
  simp only [writableCsrs, List.forall_mem_cons]
  exact ⟨⟨_, rfl, rfl, rfl⟩, ⟨_, rfl, rfl, rfl⟩, ⟨_, rfl, whole, rfl⟩, ⟨_, rfl, whole, rfl⟩, ⟨_, rfl, whole, rfl⟩,
    ⟨_, rfl, whole, rfl⟩, ⟨_, rfl, whole, rfl⟩, List.forall_mem_nil _⟩

/-- No CSR of `writableCsrs` is a program counter or a loop. -/
theorem writableCsr_advance (c : Ctx) (n : Nat) : ∀ e ∈ writableCsrs, e.2.2 (c.advance .s n) = e.2.2 c := by
  simp [writableCsrs, Ctx.advanceS_same]

theorem writeCsr_readOnly (c : Ctx) (p : Pen) (v : Dword) : ∀ n ∈ readOnlyCsrs, writeCsr c p n v = .error fPerm := by
  simp only [readOnlyCsrs, List.forall_mem_cons]
  exact ⟨rfl, rfl, rfl, rfl, rfl, rfl, rfl, rfl, rfl, List.forall_mem_nil _⟩

/-- The listed numbers outside the c registers. -/
def namedCsrs : List Nat := readOnlyCsrs ++ writableCsrs.map (fun e => e.1)

theorem writeCsr_unlisted (c : Ctx) (p : Pen) {n : Nat} (v : Dword) (hn : n ∉ namedCsrs)
    (hc : ¬ (0x010 ≤ n ∧ n ≤ 0x01F)) : writeCsr c p n v = .error fIllegal := by
  unfold writeCsr
  split
  case h_17 => simpa using hc
  all_goals exact absurd (by decide) hn

theorem readCsr_unlisted (s : State) (k : Nat) {n : Nat} (hn : n ∉ namedCsrs) (hc : ¬ (0x010 ≤ n ∧ n ≤ 0x01F)) :
    readCsr s k n = none := by
  unfold readCsr
  split
  case h_17 => simpa using hc
  all_goals exact absurd (by decide) hn

/-! ### The two words by the answers of readCsr and writeCsr (R254) -/

theorem exec_csrr_of_some {s : State} {csr : BitVec 12} {v : Dword} (d : Reg) (h : readCsr s (here s) csr.toNat = some v) :
    exec (.csrr d csr) s = .next (setS d v s) := by
  change execCsrr d csr s = _
  rw [here] at h
  rw [execCsrr, h]

theorem exec_csrr_of_none {s : State} {csr : BitVec 12} (d : Reg) (h : readCsr s (here s) csr.toNat = none) :
    exec (.csrr d csr) s = .next (s.fault .s fIllegal 0) := by
  change execCsrr d csr s = _
  rw [here] at h
  rw [execCsrr, h]
  rfl

theorem exec_csrw_of_ok {s : State} {d : Reg} {csr : BitVec 12} {c : Ctx}
    (h : writeCsr s.cur s.pen csr.toNat (s.rS d) = .ok c) :
    exec (.csrw d csr) s = .next (s.setCur (c.advance .s 4)) := by
  change execCsrw d csr s = _
  rw [execCsrw, h, ← State.setCur_nextS]

theorem exec_csrw_of_error {s : State} {d : Reg} {csr : BitVec 12} {e : Nat}
    (h : writeCsr s.cur s.pen csr.toNat (s.rS d) = .error e) : exec (.csrw d csr) s = .next (s.fault .s e 0) := by
  change execCsrw d csr s = _
  rw [execCsrw, h]

theorem csrr_setsS {s : State} {csr : BitVec 12} {v : Dword} (d : Reg) (h : readCsr s (here s) csr.toNat = some v) :
    setsS (.csrr d csr) s d v 4 := setsS_of_exec_eq_setS (exec_csrr_of_some d h)

/-- A write of a CSR of `writableCsrs` keeps the bits it has and touches neither the s nor the c registers. -/
theorem csrw_writable (s : State) (d : Reg) (csr : BitVec 12) : ∀ e ∈ writableCsrs, csr.toNat = e.1 →
    ends (.csrw d csr) s (fun t => e.2.2 t.cur = ⟨s.pen, s.rS d &&& e.2.1⟩ ∧ past .s s t 4 ∧ ownOnly s t ∧
      bytesKept s t ∧ t.cur.s = s.cur.s ∧ t.cur.c = s.cur.c) := by
  intro e he hn
  obtain ⟨c, hw, hv, hrest⟩ := writeCsr_writable s.cur s.pen (s.rS d) e he
  rw [← hn] at hw
  refine ⟨_, exec_csrw_of_ok hw, ?value, past_of_cur_advance (State.cur_setCur _ _) ?loop ?pc, ownOnly_setCur _ _,
    bytesKept_of_mem_eq rfl, ?s, ?c⟩
  case value => rw [State.cur_setCur, writableCsr_advance c 4 e he, hv]
  all_goals rw [csrsAlone] at hrest
  case loop | pc => rw [hrest]; rfl
  case s | c => rw [State.cur_setCur, Ctx.advanceS_same, hrest]

/-- A write of a c register keeps the low word. -/
theorem csrw_c (s : State) (d : Reg) {csr : BitVec 12} (lo : 0x010 ≤ csr.toNat) (hi : csr.toNat ≤ 0x01F) :
    ends (.csrw d csr) s (fun t =>
      t.cur = { s.cur with c := s.cur.c.setIfInBounds (csr.toNat - 0x010) ⟨s.pen, (s.rS d).setWidth 32⟩,
                           pcS := t.cur.pcS, loopS := t.cur.loopS } ∧ past .s s t 4 ∧ ownOnly s t ∧ bytesKept s t) := by
  refine ⟨_, exec_csrw_of_ok (writeCsr_c _ _ _ lo hi), ?rest, past_of_cur_advance (State.cur_setCur _ _) rfl rfl,
    ownOnly_setCur _ _, bytesKept_of_mem_eq rfl⟩
  case rest => rw [State.cur_setCur, Ctx.advanceS_same]

/-- Settles O22: by the kind of the number, from what readCsr and writeCsr answer for it. -/
theorem csrWordsComplete : Obligations.CsrWordsComplete := by
  intro s d csr
  have read : ∀ (n : Nat) (v : Dword), readCsr s (here s) n = some v → csr.toNat = n → setsS (.csrr d csr) s d v 4 :=
    fun n v h e => csrr_setsS d (e ▸ h)
  refine ⟨fun v h => csrr_setsS d h, ?shows, csrw_writable s d csr, csrw_c s d, ?readOnly, ?unlisted⟩
  case shows =>
    exact ⟨read _ _ rfl, read _ _ rfl, read _ _ rfl, read _ _ rfl, read _ _ rfl, read _ _ rfl,
      fun n hn => read _ _ (readCsr_c s (here s) hn), read _ _ rfl, read _ _ rfl, read _ _ rfl, read _ _ rfl,
      read _ _ rfl, read _ _ rfl, read _ _ rfl, read _ _ rfl, read _ _ rfl, read _ _ (readCsr_pcore s)⟩
  case readOnly => exact fun h => exec_csrw_of_error (writeCsr_readOnly _ _ _ _ h)
  case unlisted =>
    intro hr hw hc
    have hn : csr.toNat ∉ namedCsrs := by rw [namedCsrs, List.mem_append]; exact fun h => h.elim hr hw
    exact ⟨exec_csrw_of_error (writeCsr_unlisted _ _ _ hn hc), exec_csrr_of_none d (readCsr_unlisted _ _ hn hc)⟩

end Sys2Proof.Slice0
end

section
/-! CERTIFICATE. Engine commands at issue (O34). A word whose operands pass its checks comes to issueCmd, and issueCmd,
with room and a complete release, to pushCmd; the fields of the pushed command are those of cmdWords (R273). -/

namespace Sys2Proof.Machine

/-! ### The layout of a command: each field lies above those appended after it (R273) -/

section Layout

variable (c : Ctx) (p : Pen) (bank : Bool) (fn : Nat) (opd opa opb : Dword) (follow : BitVec 192)

theorem cmdVcn_cmdWords : cmdVcn (cmdWords c p bank fn opd opa opb follow) = c.vcn.toNat := by
  refine congrArg BitVec.toNat ((BitVec.extractLsb'_append_eq_of_le (by decide)).trans ?_)
  exact BitVec.extractLsb'_append_eq_right

theorem cmdSeq_cmdWords : (cmdWords c p bank fn opd opa opb follow).extractLsb' 32 16 = c.seqNext := by
  rw [cmdWords]
  iterate 2 refine (BitVec.extractLsb'_append_eq_of_le (by decide)).trans ?_
  exact BitVec.extractLsb'_append_eq_right

theorem cmdPen_cmdWords : cmdPen (cmdWords c p bank fn opd opa opb follow) = p := by
  rw [cmdPen, cmdWords]
  iterate 3 refine (BitVec.extractLsb'_append_eq_of_le (by decide)).trans ?_
  exact BitVec.extractLsb'_append_eq_right

theorem cmdFn_cmdWords (h : fn < 256) : cmdFn (cmdWords c p bank fn opd opa opb follow) = fn := by
  have hf : (BitVec.ofNat 8 fn).toNat = fn := Nat.mod_eq_of_lt h
  rw [cmdFn, field, cmdWords, ← hf]
  refine congrArg BitVec.toNat ?_
  iterate 4 refine (BitVec.extractLsb'_append_eq_of_le (by decide)).trans ?_
  rw [hf]
  exact BitVec.extractLsb'_append_eq_right

theorem cmdFollow_cmdWords : (cmdWords c p bank fn opd opa opb follow).extractLsb' 128 192 = follow := by
  rw [cmdWords]
  iterate 6 refine (BitVec.extractLsb'_append_eq_of_le (by decide)).trans ?_
  exact BitVec.extractLsb'_append_eq_right

theorem cmdOpb_cmdWords : cmdOpb (cmdWords c p bank fn opd opa opb follow) = opb := by
  rw [cmdOpb, cmdWords]
  iterate 7 refine (BitVec.extractLsb'_append_eq_of_le (by decide)).trans ?_
  exact BitVec.extractLsb'_append_eq_right

theorem cmdOpa_cmdWords : cmdOpa (cmdWords c p bank fn opd opa opb follow) = opa := by
  rw [cmdOpa, cmdWords]
  iterate 8 refine (BitVec.extractLsb'_append_eq_of_le (by decide)).trans ?_
  exact BitVec.extractLsb'_append_eq_right

theorem cmdOpd_cmdWords : cmdOpd (cmdWords c p bank fn opd opa opb follow) = opd := by
  rw [cmdOpd, cmdWords]
  iterate 8 refine (BitVec.extractLsb'_append_eq_of_le (by decide)).trans ?_
  exact BitVec.extractLsb'_append_eq_left

end Layout

/-! ### Pushing (R86, R136, R273) -/

/-- The command that pushCmd appends. -/
def pushedCmd (fn : Nat) (opd opa opb : Dword) (follow : BitVec 192) (s : State) : Cmd :=
  ⟨cmdWords s.cur s.pen (bankOf s.focus.key) fn opd opa opb follow, s.cur.pcA, s.cur.seqNext, .queued, 0, s.pen, false,
    [], [], [], [], none, 0, 0, 0, 0⟩

section Push

variable (fn : Nat) (opd opa opb : Dword) (follow : BitVec 192) (s : State)

/-- The issuing context with the command appended. -/
def withPushed : Ctx :=
  { s.cur with cmds := s.cur.cmds ++ [pushedCmd fn opd opa opb follow s], seqNext := s.cur.seqNext + 1 }

/-- Of the contexts a push changes the issuing one alone. -/
theorem ctx_pushCmd : (pushCmd fn opd opa opb follow s).ctx =
    (s.setCur ((withPushed fn opd opa opb follow s).advance .a 4)).ctx := by
  rw [← State.setCur_nextA]
  exact State.ctx_congr rfl

theorem cur_pushCmd : (pushCmd fn opd opa opb follow s).cur =
    (withPushed fn opd opa opb follow s).advance .a 4 :=
  (congrFun (ctx_pushCmd fn opd opa opb follow s) s.focus.key).trans (State.cur_setCur s _)

theorem ctx_pushCmd_other {k : Nat} (h : k ≠ s.focus.key) : (pushCmd fn opd opa opb follow s).ctx k = s.ctx k := by
  rw [ctx_pushCmd, State.ctx_setCur_other s _ h]

theorem mem_pushCmd : (pushCmd fn opd opa opb follow s).mem = s.mem := rfl

end Push

theorem CopyFn.code_lt (f : CopyFn) : f.code < 256 := by cases f <;> decide

end Sys2Proof.Machine

namespace Sys2Proof.Slice0

open Sys2Proof.Machine

theorem pushes_of_exec_eq_pushCmd {i : Instr} {s u : State} {fn : Nat} {opd opa opb : Dword} {follow : BitVec 192}
    (hf : fn < 256) (h : exec i s = .next (pushCmd fn opd opa opb follow u)) : pushes i s u fn opd opa opb follow := by
  have hc := cur_pushCmd fn opd opa opb follow u
  refine ⟨_, h, pushedCmd fn opd opa opb follow u, ?cmds, rfl, rfl, cmdFn_cmdWords _ _ _ _ _ _ _ _ hf,
    cmdOpd_cmdWords _ _ _ _ _ _ _ _, cmdOpa_cmdWords _ _ _ _ _ _ _ _, cmdOpb_cmdWords _ _ _ _ _ _ _ _,
    cmdFollow_cmdWords _ _ _ _ _ _ _ _, cmdPen_cmdWords _ _ _ _ _ _ _ _, cmdVcn_cmdWords _ _ _ _ _ _ _ _,
    cmdSeq_cmdWords _ _ _ _ _ _ _ _, past_of_cur_advance hc rfl rfl, ?rest, mem_pushCmd _ _ _ _ _ _,
    fun k hk => ctx_pushCmd_other _ _ _ _ _ _ hk⟩
  all_goals rw [hc, Ctx.advanceA_same, withPushed]

theorem released_none (s : State) : released s none s := rfl

/-- With room, and its release complete, a command is pushed. -/
theorem issueCmd_of_released {s u : State} {sel : Option (Nat → Bool)} (fn : Nat) (opd opa opb : Dword)
    (follow : BitVec 192) (room : s.cur.cmds.length < 16) (hr : released s sel u) :
    issueCmd fn opd opa opb follow sel s = pushCmd fn opd opa opb follow u := by
  unfold issueCmd
  rw [if_neg (Nat.not_le.2 room)]
  match sel, hr with
  | none, hr => rw [show u = s from hr]
  | some f, hr =>
    have hw : commitOwn s s.focus.key f = (true, u) := hr
    simp only [hw]

theorem pushes_of_exec_eq_issueCmd {i : Instr} {s u : State} {sel : Option (Nat → Bool)} {fn : Nat} {opd opa opb : Dword}
    {follow : BitVec 192} (room : s.cur.cmds.length < 16) (hf : fn < 256) (hr : released s sel u)
    (h : exec i s = .next (issueCmd fn opd opa opb follow sel s)) : pushes i s u fn opd opa opb follow :=
  pushes_of_exec_eq_pushCmd hf (by rw [h, issueCmd_of_released _ _ _ _ _ room hr])

/-- The words that follow the operands of a copy: those of CPYF alone (R273). -/
def copyFollow (f : CopyFn) (b : Reg) (s : State) : BitVec 192 :=
  if f = .cpyf then s.rA (b + 1) ++ s.rA (b + 2) ++ s.rA (b + 3) else 0

theorem exec_copy (d a b : Reg) (s : State) : ∀ e ∈ copies,
    exec (e.1 d a b) s = .next (copyA e.2 (s.rA d) (s.rA a) (s.rA b) (copyFollow e.2 b s) s) := by
  simp only [copies, List.forall_mem_cons]
  exact ⟨rfl, rfl, rfl, rfl, rfl, List.forall_mem_nil _⟩

theorem copyA_of_checked {f : CopyFn} {s : State} {opd opa opb : Dword} (follow : BitVec 192)
    (h : copyCheck f s.cur.vcn.toNat opd opa opb = none) :
    copyA f opd opa opb follow s = issueCmd f.code opd opa opb follow (copySel opa opb) s := by rw [copyA, h]

theorem counterA_of_aligned {fn align : Nat} {addr : Dword} (releases : Bool) (opb : Dword) (s : State)
    (h : addr.toNat % align = 0) : counterA fn align releases addr opb s =
      issueCmd fn 0 addr opb 0 (if releases then some (fun _ => true) else none) s := by simp [counterA, h]

theorem exec_pref {s : State} {a : Reg} (b : Reg) {va : Nat} (he : endpoint (s.rA a) = some (.mem va))
    (hl : (lenWord (s.rA b)).ok none none (.mem va) = true) (ha : va % 64 = 0) :
    exec (.pref a b) s = .next (issueCmd 5 0 (s.rA a) (s.rA b) 0 none s) := by
  change execPref a b s = _
  simp [execPref, he, hl, ha]

theorem exec_sacc {s : State} {d a : Reg} (h52 : field (s.rA d) 52 12 = 0) (ha : (s.rA d).toNat % 4 = 0)
    (h28 : field (s.rA a) 28 36 = 0) (h16 : field (s.rA a) 16 8 = 0) (h0 : field (s.rA a) 0 16 ≠ 0)
    (rop : field (s.rA a) 24 4 ∈ [0, 2, 3, 4]) :
    exec (.sacc d a) s = .next (issueCmd 6 (s.rA d) (s.rA a) 0 0 none s) := by
  change execSacc d a s = _
  simp only [List.mem_cons, List.not_mem_nil, or_false] at rop
  rcases rop with h | h | h | h <;> simp [execSacc, h52, ha, h28, h16, h0, h]

/-- Settles O34: each word comes to one push, from the state after its release. -/
theorem commandsArePushed : Obligations.CommandsArePushed := by
  intro s u d a b room
  refine ⟨?copies, ?pref, ?sacc, ?sigdec, ?sigwait, ?jdec⟩
  case copies =>
    intro e he ok hr
    exact pushes_of_exec_eq_issueCmd room (CopyFn.code_lt _) hr (by rw [exec_copy d a b s e he, copyA_of_checked _ ok]; rfl)
  case pref => exact fun va he hl ha => pushes_of_exec_eq_issueCmd room (by decide) (released_none s) (exec_pref b he hl ha)
  case sacc => exact fun h52 ha h28 h16 h0 rop =>
    pushes_of_exec_eq_issueCmd room (by decide) (released_none s) (exec_sacc h52 ha h28 h16 h0 rop)
  case sigdec => exact fun ha hr =>
    pushes_of_exec_eq_issueCmd room (by decide) hr (congrArg _ (counterA_of_aligned true 0 s ha))
  case sigwait => exact fun ha =>
    pushes_of_exec_eq_issueCmd room (by decide) (released_none s) (congrArg _ (counterA_of_aligned false (s.rA b) s ha))
  case jdec => exact fun ha hr =>
    pushes_of_exec_eq_issueCmd room (by decide) hr (congrArg _ (counterA_of_aligned true 0 s ha))

end Sys2Proof.Slice0
end

section
/-! CERTIFICATE. Operands are checked (O51). Each family of words comes to one shared operation, and one lemma for each
of its failing checks says that the operation answers with the fault alone, whatever the rest of the word would do. -/

namespace Sys2Proof.Machine

/-! ### GBAR and LEAVE (R231, R233, R235) -/

/-- A word that stands in no wait of its group looks at its operand. -/
theorem arriveS_misaligned {s : State} {x : Dword} (leave : Bool) (p : Dword) (hw : s.cur.groupWait x = none)
    (ha : x.toNat % 64 ≠ 0) : arriveS leave x p s = s.fault .s fAlign x.toNat := by simp [arriveS, hw, ha]

theorem arriveS_notJoined {s : State} {x : Dword} (leave : Bool) (p : Dword) (hw : s.cur.groupWait x = none)
    (ha : x.toNat % 64 = 0) (hm : s.cur.membership x = none) : arriveS leave x p s = s.fault .s fPerm x.toNat := by
  simp [arriveS, hw, ha, hm]

/-! ### Tiles (R97, R264) -/

theorem withTile_illegal {a : Reg} {s : State} (f : Nat → Tile → State) (h : 128 ≤ (s.rA a).toNat) :
    withTile a s f = s.fault .a fIllegal 0 := by
  rw [withTile, if_pos h]
  rfl

theorem withTile_foreign {a : Reg} {s : State} (f : Nat → Tile → State) (h : (s.rA a).toNat < 128)
    (ho : ownsTile s (s.rA a).toNat = false) : withTile a s f = s.fault .a fPerm 0 := by
  simp [withTile, Nat.not_le.2 h, ho]

/-! ### Engine commands (R86, R270 to R272, R283, R284) -/

theorem copyA_of_fault {f : CopyFn} {s : State} {opd opa opb : Dword} {code x : Nat} (follow : BitVec 192)
    (h : copyCheck f s.cur.vcn.toNat opd opa opb = some (code, x)) :
    copyA f opd opa opb follow s = s.fault .a code x := by rw [copyA, h]

theorem counterA_misaligned {s : State} {fn align : Nat} {addr : Dword} (releases : Bool) (opb : Dword)
    (h : addr.toNat % align ≠ 0) : counterA fn align releases addr opb s = s.fault .a fAlign addr.toNat := by
  simp [counterA, h]

/-- With 16 outstanding a command waits, whatever it would release. -/
theorem issueCmd_full {s : State} (fn : Nat) (opd opa opb : Dword) (follow : BitVec 192) (sel : Option (Nat → Bool))
    (h : 16 ≤ s.cur.cmds.length) : issueCmd fn opd opa opb follow sel s = s := by
  unfold issueCmd
  rw [if_pos h, stall]

end Sys2Proof.Machine

namespace Sys2Proof.Slice0

open Sys2Proof.Machine

theorem exec_tileWord (a : Reg) (s : State) : ∀ i ∈ ([.tfree a, .twaitf a, .twaite a, .tsetf a, .tclr a] : List Instr),
    ∃ f, exec i s = .next (withTile a s f) := by
  simp only [List.forall_mem_cons]
  exact ⟨⟨_, rfl⟩, ⟨_, rfl⟩, ⟨_, rfl⟩, ⟨_, rfl⟩, ⟨_, rfl⟩, List.forall_mem_nil _⟩

/-! ### Handles (R247, R249, R251) -/

theorem exec_apply_null {s : State} {a : Reg} (d b : Reg) (h : envNamed s a = none) :
    exec (.apply d a b) s = .next (s.fault .s fNullK 0) := by
  change execApply d a b s = _
  rw [envNamed] at h
  simp only [execApply, h]

theorem exec_kenv_null {s : State} {a : Reg} (d : Reg) (h : envNamed s a = none) :
    exec (.kenv d a) s = .next (s.fault .s fNullK 0) := by
  change execKenv d a s = _
  rw [envNamed] at h
  simp only [execKenv, h]

/-- A handle that is not LIVE is copied as null; one that claims to be live must name an entry. -/
theorem exec_kdup_stale {s : State} {a : Reg} (d : Reg) (h : envNamed s a = none)
    (live : hLive (s.cur.readK s.pen a.toNat) = true) : exec (.kdup d a) s = .next (s.fault .s fNullK 0) := by
  change execKdup d a s = _
  rw [envNamed] at h
  simp [execKdup, h, live]

/-! ### Privileged words (R337, R341) -/

theorem settled_of_atStart {s : State} (d : Reg) (f : State → State) (h : atStart s) : settled d f s = f s := by
  unfold settled
  split
  · next pc w ns hi =>
    have : pc ≠ s.cur.pcS := fun e => h w ns (e ▸ hi)
    simp [this]
  · rfl

theorem privileged_outside {s : State} (f : State → Nat → Dword → Dword → VStatus × State) (waits : Bool) (d a b : Reg)
    (hv : s.cur.vi ≠ 0) (h : atStart s) : privileged f waits d a b s = s.fault .s fPerm 0 := by
  rw [privileged, settled_of_atStart d _ h]
  exact if_pos (by simpa using hv)

theorem vimapS_outside {s : State} (d a : Reg) (hv : s.cur.vi ≠ 0) (h : atStart s) :
    vimapS d a s = s.fault .s fPerm 0 := by
  rw [vimapS, settled_of_atStart d _ h]
  exact if_pos (by simpa using hv)

theorem exec_vimapRow (d a : Reg) (s : State) : ∀ e ∈ vimapRows, exec (e.1 d a) s = .next (vimapS d a s) := by
  simp only [vimapRows, List.forall_mem_cons]
  exact ⟨rfl, rfl, rfl, rfl, rfl, rfl, rfl, rfl, rfl, rfl, rfl, rfl, rfl, rfl, rfl, List.forall_mem_nil _⟩

/-- Settles O51: family by family, from the failing checks of the shared operations. -/
theorem operandsAreChecked : Obligations.OperandsAreChecked := by
  refine ⟨fun s a b hw => ?groups, fun s d a b he => ?handles, fun s a i hi => ?tiles, fun s d a b => ?commands,
    fun s d a b hv hs => ?privilege⟩
  case groups =>
    exact ⟨fun ha => ⟨congrArg _ (arriveS_misaligned false (s.rS b) hw ha), congrArg _ (arriveS_misaligned true 0 hw ha)⟩,
      fun ha hm => ⟨congrArg _ (arriveS_notJoined false (s.rS b) hw ha hm),
        congrArg _ (arriveS_notJoined true 0 hw ha hm)⟩⟩
  case handles => exact ⟨exec_apply_null d b he, exec_kenv_null d he, exec_kdup_stale d he⟩
  case tiles =>
    obtain ⟨f, hf⟩ := exec_tileWord a s i hi
    rw [hf]
    exact ⟨fun h => congrArg _ (withTile_illegal f h), fun h ho => congrArg _ (withTile_foreign f h ho)⟩
  case commands =>
    refine ⟨fun e he code x hx => ?fails, fun ha => ?signals, fun ha => congrArg _ (counterA_misaligned true 0 ha),
      fun full e he ok => ?waits⟩
    case fails => rw [exec_copy d a b s e he, copyA_of_fault _ hx]
    case signals =>
      simp only [List.forall_mem_cons]
      exact ⟨congrArg _ (counterA_misaligned true 0 ha), congrArg _ (counterA_misaligned false (s.rA b) ha),
        List.forall_mem_nil _⟩
    case waits => rw [waits, exec_copy d a b s e he, copyA_of_checked _ ok, issueCmd_full _ _ _ _ _ _ full]
  case privilege =>
    exact ⟨congrArg _ (privileged_outside vishut false d a b hv hs), congrArg _ (privileged_outside vikeyz true d a b hv hs),
      congrArg _ (privileged_outside virev true d a b hv hs),
      fun e he => by rw [exec_vimapRow d a s e he, vimapS_outside d a hv hs]⟩

end Sys2Proof.Slice0
end

section
/-! CERTIFICATE. The first load of a line (O6): what viewLine answers for a line that its context has not seen, on its
own die, and what the memory controller reads of a page that is neither compressed nor encrypted. -/

namespace Sys2Proof.Machine

/-- Without stores of its own a context sees a line as its view has it (R129). -/
theorem Ctx.overlay_of_no_stores {c : Ctx} (hb : c.sbuf = []) (hs : c.spill = []) (pen : Pen) (line : Nat) (view : Line) :
    c.overlay pen line view = view := by rw [Ctx.overlay, hb, hs]; rfl

theorem l1At_of_seenLine_eq_none {s : State} {k line : Nat} {pen : Pen} (h : seenLine s k pen line = none) :
    (s.core (coreOf k)).l1At (bankOf k) pen line = none := by
  unfold seenLine at h
  split at h
  · cases h
  · assumption

/-- A request of S within its own die is answered now. -/
theorem answersNow_of_own_die {s : State} {k dst : Nat} (addr : Nat) (h : dst = (s.ctx k).die) :
    answersNow s k dst addr = true := by simp [answersNow, h]

theorem checkWhere_of_checkTarget_eq_none {s : State} {a : Accessor} {w : Where} {whole : Bool}
    (h : checkTarget s a.pen w.leaf w.gpa whole = none) : checkWhere s a w whole = .ok w := by rw [checkWhere, h]

theorem decryptLine_of_not_encrypted {l : Leaf} (s : State) (line : Nat) (x : Line) (h : l.e = false) :
    decryptLine s l line x = x := by simp [decryptLine, h]

/-- A line of a plain page is memory's under the own pennant and zero under another (R111). -/
theorem readLine_plain {w : Where} (s : State) (a : Accessor) (hc : w.leaf.cmp = 0) (he : w.leaf.e = false) :
    readLine s a w = .ok (if s.mem.pen (w.gpa / 64) = a.pen then s.mem.raw (w.gpa / 64) else 0) := by
  have raw : (w.leaf.wct || w.leaf.cmp == 0) = true := by rw [hc, beq_self_eq_true, Bool.or_true]
  rw [readLine, if_pos raw, decryptLine_of_not_encrypted s _ _ he]
  by_cases own : s.mem.pen (w.gpa / 64) = a.pen
  · rw [if_pos (beq_iff_eq.2 own), if_pos own]
  · rw [if_neg (mt beq_iff_eq.1 own), if_neg own]

/-- The first load of a line on the own die takes the line as the controller reads it, under the own stores, and fills
the L1 and the view with it (R107, R129). -/
theorem viewLine_of_unseen {s : State} {k va : Nat} {a : Accessor} {w : Where} {x : Line}
    (ha : a = (s.ctx k).accessor s) (source : checkSource s a Need.read va = .ok w)
    (target : checkWhere s a w false = .ok w) (ownDie : dieOfGpa w.gpa = a.die)
    (unseen : seenLine s k a.pen (w.gpa / 64) = none) (read : readLine s a w = .ok x) :
    viewLine s k va = .ok ((s.ctx k).overlay a.pen (va / 64) x,
      fillLine (useS s k Need.read va) k a.pen (w.gpa / 64) x) := by
  subst ha
  have miss := l1At_of_seenLine_eq_none unseen
  have now : answersNow s k (dieOfGpa w.gpa) va = true := answersNow_of_own_die va ownDie
  simp [viewLine, source, miss, now, target, unseen, read]

end Sys2Proof.Machine

namespace Sys2Proof.Slice0

open Sys2Proof.Machine

/-- Settles O6: the load of an unseen line, with the plain read of the line and no own stores over it. -/
theorem firstLoadSeesMemory : Obligations.FirstLoadSeesMemory := by
  intro s va w source target ownDie plain clear noStores noSpill unseen
  have read := readLine_plain s (own s) plain clear
  have load := viewLine_of_unseen rfl source (checkWhere_of_checkTarget_eq_none target) ownDie unseen read
  rw [Ctx.overlay_of_no_stores (c := s.ctx s.focus.key) noStores noSpill] at load
  exact ⟨_, load⟩

end Sys2Proof.Slice0
end

section
/-! CERTIFICATE. What one step does (O52): step takes the first turn of the agenda, else nextTurn's, else it ticks; a
stream's turn runs its decoded word, and an act's turn the row of the act's name. -/

namespace Sys2Proof.Machine

/-! ### Which turn a step takes -/

theorem step_of_agenda {s : State} {t : Turn} {r : List Turn} (h : s.agenda = t :: r) :
    step s = takeTurn t { s with agenda := r } := by rw [step, h]

theorem step_of_nextTurn {s : State} {t : Turn} (ha : s.agenda = []) (ht : nextTurn s = some t) :
    step s = takeTurn t s := by rw [step, ha, ht]

theorem step_of_idle {s : State} (ha : s.agenda = []) (ht : nextTurn s = none) :
    step s = if s.halted then .fault .halted else .next (tick s) := by rw [step, ha, ht]

/-! ### A stream's turn (R126, R199) -/

theorem runWord_of_decoded {st : Stream} {n : Nat} {i : Instr} {s t : State} (hd : decodeBits st n = .ok i)
    (hx : exec i s = .next t) : runWord st n s = .next (observeIssue s t st n i) := by
  simp only [runWord, hd, hx]

theorem issue_of_fetched {st : Stream} {n : Nat} {s : State} (ha : (s.cur.pc st).toNat % st.wordAlign = 0)
    (hf : fetchWord s st = .ok n) : issue st s = runWord st n (useWord s st) := by simp [issue, ha, hf]

/-! ### An act's turn -/

theorem act_of_performed {e : Act} {s t : State} (h : perform e s = .next t) : act e s = .next (observeAct s t e) := by
  simp only [act, h]

end Sys2Proof.Machine

namespace Sys2Proof.Slice0

open Sys2Proof.Machine

/-- A stream of a package that has not halted issues in the state that issuing names (R71, R413). -/
theorem takeTurn_issue {s : State} {f : Focus} (h : (s.pkg (s.ctx f.key).pkg).halted = false) :
    takeTurn (.issue f) s = issue f.stream (issuing s f) := if_neg (Bool.eq_false_iff.1 h)

/-- An act is performed as the row of its name is executed, act by act. -/
theorem perform_eq_exec_of_isRow {e : Act} {i : Instr} (h : isRow e i) (s : State) : perform e s = exec i s := by
  cases e <;> cases h <;> rfl

theorem act_of_row {e : Act} {i : Instr} {s t : State} (h : isRow e i) (hx : exec i s = .next t) :
    act e s = .next (observeAct s t e) := act_of_performed ((perform_eq_exec_of_isRow h s).trans hx)

/-- Settles O52: by what stands first, the agenda's turn, a stream's, or none. -/
theorem stepRunsDecodedInstruction : Obligations.StepRunsDecodedInstruction := by
  refine fun s => ⟨?word, fun e i r row => ⟨?act, ?actOn⟩, step_of_idle⟩
  case word =>
    intro f n i ha ht running u aligned fetched decoded w t hx
    calc step s
      _ = takeTurn (.issue f) s := step_of_nextTurn ha ht
      _ = issue f.stream u := takeTurn_issue running
      _ = runWord f.stream n w := issue_of_fetched aligned fetched
      _ = .next (observeIssue w t f.stream n i) := runWord_of_decoded decoded hx
  case act => intro ha u t hx; rw [step_of_agenda ha]; exact act_of_row row hx
  case actOn => intro k ha u t hx; rw [step_of_agenda ha]; exact act_of_row row hx

end Sys2Proof.Slice0
end

section
/-! CERTIFICATE. A store and the view of its own context (O8): what a store that is buffered leaves in the buffer, and
the bytes that one buffered entry puts over a line. -/

namespace Sys2Proof.Machine

/-! ### A translation leaves the focus alone (R120) -/

@[simp] theorem countEvent_focus (s : State) (c : Ctx) (ev n : Nat) : (countEvent s c ev n).focus = s.focus := by
  unfold countEvent
  split <;> rfl

@[simp] theorem State.setTlb_focus (s : State) (u : Tlb) (l : List Xlat) : (s.setTlb u l).focus = s.focus := by
  cases u <;> rfl

@[simp] theorem State.modUnits_focus (s : State) (d cl : Nat) (f : Units → Units) :
    (s.modUnits d cl f).focus = s.focus := rfl

theorem readError_focus (s : State) (line : Nat) : (readError s line).focus = s.focus := by
  simp only [readError]
  split
  · rfl
  · split <;> rfl

@[simp] theorem walkErrors_focus (s : State) (d vi va : Nat) : (walkErrors s d vi va).focus = s.focus := by
  unfold walkErrors
  split
  · rfl
  · exact foldl_same State.focus readError_focus _ _

theorem translate_focus (s : State) (u : Tlb) (c : Ctx) (a : Accessor) (va : Nat) :
    (translate s u c a va).focus = s.focus := by
  simp only [translate]
  split
  · simp
  · split
    · simp
    · split <;> simp

theorem xlatS_focus (s : State) (k va : Nat) : (xlatS s k va).focus = s.focus := by
  unfold xlatS
  split
  · rfl
  · exact translate_focus _ _ _ _ _

/-! ### A store into an empty buffer (R108, R224) -/

/-- The entry that a store of the low n bytes of s[d] buffers. -/
def storeEntry (s : State) (n : Nat) (d a : Reg) (imm : BitVec 16) : SbEntry :=
  let ea := (effAddr s a imm).toNat
  ⟨BitVec.ofNat 64 (ea / 64), setField (0 : Line) (8 * (ea % 64)) (8 * n) (s.rS d).toNat,
    maskRange (ea % 64) n, s.pen, none, 0⟩

theorem storeEntry_line (s : State) (n : Nat) (d a : Reg) (imm : BitVec 16) :
    (storeEntry s n d a imm).line.toNat = (effAddr s a imm).toNat / 64 :=
  Nat.mod_eq_of_lt (Nat.lt_of_le_of_lt (Nat.div_le_self _ _) (effAddr s a imm).isLt)

/-- A context whose buffer holds one entry alone. -/
def Ctx.holding (c : Ctx) (e : SbEntry) : Ctx := { c with sbuf := [e] }

theorem Ctx.sbuf_holding (c : Ctx) (e : SbEntry) : (c.holding e).sbuf = [e] := rfl
theorem Ctx.spill_holding (c : Ctx) (e : SbEntry) : (c.holding e).spill = c.spill := rfl

theorem Ctx.buffer_of_empty {c : Ctx} (h : c.sbuf = []) (quota : Nat) (e : SbEntry) :
    c.buffer quota e = some (c.holding e) := by simp [Ctx.buffer, Ctx.holding, sbPut, h]

/-- Without spilled stores nothing is written to the spill area. -/
theorem withStores_of_no_spill {c : Ctx} (h : c.spill = []) (s : State) (k : Nat) :
    withStores s k c = s.setCtx k c := by rw [withStores, h]; rfl

theorem storeS_of_empty {n : Nat} {d a : Reg} {imm : BitVec 16} {s : State} {w : Where}
    (aligned : (effAddr s a imm).toNat % n = 0)
    (source : checkSource s (s.cur.accessor s) Need.write (effAddr s a imm).toNat = .ok w)
    (plain : isDescriptor s w.gpa s.pen = false) (empty : s.cur.sbuf = []) (noSpill : s.cur.spill = []) :
    storeS n d a imm s = ((xlatS s s.focus.key (effAddr s a imm).toNat).setCtx s.focus.key
      (s.cur.holding (storeEntry s n d a imm))).nextS := by
  have alignedB : ((effAddr s a imm).toNat % n != 0) = false := by simp [aligned]
  have plainB : isDescriptor s w.gpa (s.cur.accessor s).pen = false := plain
  simp only [storeS, alignedB, source, plainB, Ctx.buffer_of_empty empty]
  exact congrArg State.nextS (withStores_of_no_spill ((Ctx.spill_holding _ _).trans noSpill) _ _)

/-- After the store, S of the issuing context has moved on, and its buffer holds the store. -/
theorem cur_storeS_of_empty {n : Nat} {d a : Reg} {imm : BitVec 16} {s : State} {w : Where}
    (aligned : (effAddr s a imm).toNat % n = 0)
    (source : checkSource s (s.cur.accessor s) Need.write (effAddr s a imm).toNat = .ok w)
    (plain : isDescriptor s w.gpa s.pen = false) (empty : s.cur.sbuf = []) (noSpill : s.cur.spill = []) :
    (storeS n d a imm s).cur = (s.cur.holding (storeEntry s n d a imm)).advance .s 4 := by
  rw [storeS_of_empty aligned source plain empty noSpill]
  generalize hu : xlatS s s.focus.key (effAddr s a imm).toNat = u
  have focus : u.focus = s.focus := hu ▸ xlatS_focus _ _ _
  rw [← focus, ← State.setCur_eq, State.setCur_nextS, State.cur_setCur]

/-! ### What one buffered store puts over a line (R129) -/

@[simp] theorem Ctx.overlay_advance (c : Ctx) (st : Stream) (n : Nat) : (c.advance st n).overlay = c.overlay := by
  cases st <;> rfl

theorem Ctx.overlay_holding {c : Ctx} {e : SbEntry} {line : Nat} (hs : c.spill = []) (hl : e.line.toNat = line)
    (x : Line) : (c.holding e).overlay e.pen line x = mergeBytes e.mask e.data x := by
  simp [Ctx.overlay, Ctx.sbuf_holding, Ctx.spill_holding, hs, hl]

/-! ### The bytes of a stored value -/

/-- The mask of n bytes from byte o has those bytes of a line. -/
theorem getLsbD_maskRange (o n : Nat) {j : Nat} (hj : j < 64) :
    (maskRange o n).getLsbD j = decide (o ≤ j ∧ j < o + n) := by
  rw [maskRange, BitVec.getLsbD_shiftLeft, BitVec.getLsbD_ofNat, Nat.testBit_two_pow_sub_one, Bool.eq_iff_iff]
  simp only [Bool.and_eq_true, Bool.not_eq_true', decide_eq_true_eq, decide_eq_false_iff_not]
  omega

/-- Bit i of a field put into an empty word is bit i of its value. -/
theorem getLsbD_setField_zero {n lo w i : Nat} (v : Nat) (hi : i < w) (hn : lo + i < n) :
    (setField (0 : BitVec n) lo w v).getLsbD (lo + i) = v.testBit i := by
  have hw : i < n := by omega
  simp [setField, hi, hn, hw, BitVec.getElem_eq_testBit_toNat]

/-- Byte j of a value put at byte o of an empty line. -/
theorem lineByte_setField_zero {o n j : Nat} (v : Dword) (ho : o ≤ j) (hn : j < o + n) (hj : j < 64) :
    lineByte (setField (0 : Line) (8 * o) (8 * n) v.toNat) j = v.extractLsb' (8 * (j - o)) 8 := by
  apply BitVec.eq_of_getLsbD_eq
  intro i hi
  have place : 8 * j + i = 8 * o + (8 * (j - o) + i) := by omega
  rw [getLsbD_lineByte _ _ _ hi, place, getLsbD_setField_zero _ (by omega) (by omega), BitVec.testBit_toNat,
    BitVec.getLsbD_extractLsb', decide_eq_true hi, Bool.true_and]

/-- The bytes of a line under a store: the store's within its range, and the line's elsewhere. -/
theorem lineByte_mergeBytes_storeEntry (s : State) (n : Nat) (d a : Reg) (imm : BitVec 16) (x : Line) {j : Nat}
    (hj : j < 64) :
    let o := (effAddr s a imm).toNat % 64
    lineByte (mergeBytes (storeEntry s n d a imm).mask (storeEntry s n d a imm).data x) j =
      if o ≤ j ∧ j < o + n then (s.rS d).extractLsb' (8 * (j - o)) 8 else lineByte x j := by
  intro o
  have mask : (storeEntry s n d a imm).mask.getLsbD j = decide (o ≤ j ∧ j < o + n) := getLsbD_maskRange o n hj
  rw [lineByte_mergeBytes _ _ _ _ hj, mask]
  by_cases inside : o ≤ j ∧ j < o + n
  · rw [if_pos (decide_eq_true inside), if_pos inside]
    exact lineByte_setField_zero (s.rS d) inside.1 inside.2 hj
  · rw [decide_eq_false inside, if_neg Bool.false_ne_true, if_neg inside]

end Sys2Proof.Machine

namespace Sys2Proof.Slice0

open Sys2Proof.Machine

/-- Each store of S is storeS of its size (R224). -/
theorem exec_scalarStores (d a : Reg) (imm : BitVec 16) (s : State) :
    ∀ e ∈ scalarStores, exec (e.1 d a imm) s = .next (storeS e.2 d a imm s) := by
  simp only [scalarStores, List.forall_mem_cons]
  exact ⟨rfl, rfl, rfl, rfl, List.forall_mem_nil _⟩

/-- Settles O8: the store is the one entry of the buffer, so the view is its line under that entry's bytes. -/
theorem ownStoreIsSeen : Obligations.OwnStoreIsSeen := by
  intro e he d a imm s t w x j aligned source plain empty noSpill run hj
  have ht : storeS e.2 d a imm s = t := Host.Outcome.next.inj ((exec_scalarStores d a imm s e he).symm.trans run)
  have cur : t.cur = (s.cur.holding (storeEntry s e.2 d a imm)).advance .s 4 :=
    ht ▸ cur_storeS_of_empty aligned source plain empty noSpill
  have seen : t.cur.overlay s.pen (ea s a imm / 64) x =
      mergeBytes (storeEntry s e.2 d a imm).mask (storeEntry s e.2 d a imm).data x := by
    rw [cur, Ctx.overlay_advance]
    exact Ctx.overlay_holding noSpill (storeEntry_line s e.2 d a imm) x
  rw [seen]
  exact lineByte_mergeBytes_storeEntry s e.2 d a imm x hj

end Sys2Proof.Slice0
end

section
/-! CERTIFICATE. The host's accesses (O48). What an access leaves at its targets is nothing that the host's answer or
HOSTERR is made of (`State.hostView`); and each row has an equation for an access that its function answers. -/

namespace Sys2Proof.Machine

/-! ### Fields of words that a register write makes -/

theorem getLsbD_setField {n : Nat} (x : BitVec n) (lo w v : Nat) {i : Nat} (hi : i < n) :
    (setField x lo w v).getLsbD i = if lo ≤ i ∧ i < lo + w then v.testBit (i - lo) else x.getLsbD i := by
  have hn : i - lo < n := by omega
  simp only [setField, BitVec.getLsbD_or, BitVec.getLsbD_and, BitVec.getLsbD_not, BitVec.getLsbD_shiftLeft,
    BitVec.getLsbD_setWidth, BitVec.getLsbD_allOnes, BitVec.getLsbD_ofNat, hi, hn]
  by_cases inside : lo ≤ i ∧ i < lo + w
  · have above : ¬ i < lo := by omega
    have hw : i - lo < w := by omega
    simp [inside, above, hw]
  · by_cases below : i < lo
    · simp [below, inside]
    · have hw : ¬ i - lo < w := by omega
      simp [hw, inside]

theorem field_setField_same {n : Nat} (x : BitVec n) {lo w v : Nat} (hn : lo + w ≤ n) (hv : v < 2 ^ w) :
    field (setField x lo w v) lo w = v := by
  have bits : (setField x lo w v).extractLsb' lo w = BitVec.ofNat w v := by
    apply BitVec.eq_of_getLsbD_eq
    intro i hi
    have inside : lo ≤ lo + i ∧ lo + i < lo + w := by omega
    rw [BitVec.getLsbD_extractLsb', getLsbD_setField _ _ _ _ (by omega), if_pos inside, Nat.add_sub_cancel_left,
      BitVec.getLsbD_ofNat]
  rw [field, bits, BitVec.toNat_ofNat, Nat.mod_eq_of_lt hv]

theorem field_setField_below {n : Nat} (x : BitVec n) {lo w lo' w' : Nat} (v : Nat) (h : lo' + w' ≤ lo) (hn : lo ≤ n) :
    field (setField x lo w v) lo' w' = field x lo' w' := by
  refine congrArg BitVec.toNat (BitVec.eq_of_getLsbD_eq fun i hi => ?_)
  have outside : ¬ (lo ≤ lo' + i ∧ lo' + i < lo + w) := by omega
  rw [BitVec.getLsbD_extractLsb', BitVec.getLsbD_extractLsb', getLsbD_setField _ _ _ _ (by omega), if_neg outside]

/-- A mask whose bits of a field are all ones keeps the field. -/
theorem field_and_of_ones {n : Nat} (x m : BitVec n) {lo w : Nat} (h : m.extractLsb' lo w = BitVec.allOnes w) :
    field (x &&& m) lo w = field x lo w := by
  rw [field, BitVec.extractLsb'_and, h, BitVec.and_allOnes, field]

/-! ### What an access leaves at its targets (R110, R191, R371, R373) -/

/-- What a host's answer is held against: memory, the contexts, and HOSTERR of every die. -/
def State.hostView (s : State) : Memory × Table Ctx × (Nat → Dword) :=
  (s.mem, s.ctxs, fun d => (s.die d).counters.hostErr)

theorem State.hostView_mk {s t : State} (hm : t.mem = s.mem) (hc : t.ctxs = s.ctxs)
    (hd : ∀ d, (t.die d).counters.hostErr = (s.die d).counters.hostErr) : t.hostView = s.hostView := by
  simp only [State.hostView, hm, hc, hd]

theorem State.mem_of_hostView {s t : State} (h : t.hostView = s.hostView) : t.mem = s.mem := congrArg Prod.fst h
theorem State.ctxs_of_hostView {s t : State} (h : t.hostView = s.hostView) : t.ctxs = s.ctxs :=
  congrArg (fun x => x.2.1) h
theorem State.hostErr_of_hostView {s t : State} (h : t.hostView = s.hostView) (d : Nat) :
    (t.die d).counters.hostErr = (s.die d).counters.hostErr := congrArg (fun x => x.2.2 d) h

theorem State.hostView_modDie (s : State) (k : Nat) {f : Die → Die} (hf : ∀ x, (f x).counters.hostErr = x.counters.hostErr) :
    (s.modDie k f).hostView = s.hostView := by
  refine State.hostView_mk rfl rfl fun d => ?_
  by_cases h : d = k
  · rw [h, State.modDie_eq, State.die_setDie, hf]
  · rw [State.modDie_eq, State.die_setDie_other _ _ h]

theorem State.hostView_count (s : State) (d : Nat) {f : Counters → Counters} (hf : ∀ c, (f c).hostErr = c.hostErr) :
    (s.count d f).hostView = s.hostView := s.hostView_modDie d fun x => hf x.counters

theorem State.hostView_modRouter (s : State) (d : Nat) (f : Router → Router) : (s.modRouter d f).hostView = s.hostView :=
  s.hostView_modDie d fun _ => rfl

theorem hostView_readError (s : State) (line : Nat) : (readError s line).hostView = s.hostView := by
  simp only [readError]
  split
  · rfl
  · split <;> exact State.hostView_count _ _ fun _ => rfl

theorem hostView_meetTarget (s : State) (die : Nat) (pen : Pen) (w : Where) (whole : Bool) :
    (meetTarget s die pen w whole).hostView = s.hostView := by
  simp only [meetTarget]
  split
  · exact s.hostView_count _ fun _ => rfl
  · split
    · rfl
    · split
      · split
        · exact hostView_readError _ _
        · rfl
      · exact foldl_same State.hostView hostView_readError _ _

theorem hostView_afterAccess (s : State) (a : Accessor) (n : Need) (va : Nat) (whole : Bool) :
    (afterAccess s a n va whole).hostView = s.hostView := by
  simp only [afterAccess]
  split
  · rfl
  · split
    · rfl
    · exact hostView_meetTarget _ _ _ _ _

theorem hostView_exchangeDies (s : State) (die dst : Nat) : (exchangeDies s die dst).hostView = s.hostView := by
  simp only [exchangeDies, heardAndReplied, heard, replied, State.modReceive, State.hostView_modRouter]

theorem hostView_reachDie (s : State) (a : Accessor) (n : Need) (va : Nat) : (reachDie s a n va).hostView = s.hostView := by
  simp only [reachDie]
  split
  · rfl
  · exact hostView_exchangeDies _ _ _

/-- The lines of a host read leave memory, the contexts and HOSTERR alone. -/
theorem hostView_meetPieces (a : Accessor) (ps : List (Nat × Nat × Nat)) (s : State) :
    (meetPieces s a ps).hostView = s.hostView := by
  induction ps generalizing s with
  | nil => rfl
  | cons piece rest ih =>
    have met := (hostView_reachDie (afterAccess s a Need.read piece.1 false) a Need.read piece.1).trans
      (hostView_afterAccess s a Need.read piece.1 false)
    simp only [meetPieces]
    split
    · exact met
    · exact (ih _).trans met

/-! ### Replies and counts -/

@[simp] theorem State.reply_eq (s : State) (p : Nat) (r : Reply) : s.reply p r = s.setPkg p { s.pkg p with reply := r } := rfl

@[simp] theorem State.counters_count (s : State) (d : Nat) (f : Counters → Counters) :
    ((s.count d f).die d).counters = f (s.die d).counters := by simp [State.count]

/-! ### Doors (R156, R157, R192) -/

@[simp] theorem Pkg.door_setDoor (k : Pkg) (n : Nat) (d : Door) : (k.setDoor n d).door n = d := by
  simp [Pkg.door, Pkg.setDoor]

theorem door_doorOverflow (s : State) (p n : Nat) :
    ((doorOverflow s p n).pkg p).door n = { (s.pkg p).door n with overflow := satInc ((s.pkg p).door n).overflow } := by
  simp [doorOverflow]

theorem appendHost_of_appended {s u : State} {p vi n i : Nat} {data : List Byte} (len : data.length = 64)
    (openDoor : doorOpen s p vi n = true) (appended : doorAppend s p vi n (lineOf data) = .ok (i, u)) :
    appendHost s p vi n 0 data = serveDoor (wakeEv u p vi) p vi n := by simp [appendHost, len, openDoor, appended]

theorem appendHost_of_length_ne {data : List Byte} (len : data.length ≠ 64) (s : State) (p vi n ofs : Nat) :
    appendHost s p vi n ofs data = doorOverflow s p n := by simp [appendHost, len]

/-! ### The trace copies and counter copies of a cluster (R194, R197, R398) -/

@[simp] theorem State.cluster_setCluster (s : State) (dn cl : Nat) (x : Cluster) : (s.setCluster dn cl x).cluster dn cl = x := by
  simp [State.cluster, State.setCluster]

/-- Guest writes that take effect change nothing of the hypervisor's copies. -/
theorem Cluster.hyp_applyGuest (c : Cluster) (e : Nat × Dword) : (c.applyGuest e).hyp = c.hyp := by
  unfold Cluster.applyGuest
  split <;> rfl
theorem Cluster.traceHyp_applyGuest (c : Cluster) (e : Nat × Dword) : (c.applyGuest e).traceHyp = c.traceHyp := by
  unfold Cluster.applyGuest
  split <;> rfl

@[simp] theorem Cluster.hyp_releaseGuest (c : Cluster) : c.releaseGuest.hyp = c.hyp :=
  foldl_same Cluster.hyp Cluster.hyp_applyGuest _ _
@[simp] theorem Cluster.traceHyp_releaseGuest (c : Cluster) : c.releaseGuest.traceHyp = c.traceHyp :=
  foldl_same Cluster.traceHyp Cluster.traceHyp_applyGuest _ _
theorem Cluster.guest_releaseGuest_of_no_pending {c : Cluster} (h : c.pending = []) : c.releaseGuest.guest = c.guest := by
  simp [Cluster.releaseGuest, h]

theorem Cluster.cfg_writeConfig (c : Cluster) (v : Dword) : (c.writeConfig v).hyp.cfg = v &&& 0x0000FFFF800000FF := by
  simp [Cluster.writeConfig]

/-- Another GVI in the hypervisor copy sets the guest copy to its reset values (R194). -/
theorem Cluster.guest_writeConfig {c : Cluster} {v : Dword} (h : ccGvi v ≠ ccGvi c.hyp.cfg) :
    (c.writeConfig v).guest = .reset := by
  have other : (ccGvi v == c.gvi) = false := beq_eq_false_iff_ne.2 h
  rw [Cluster.writeConfig, Cluster.guest_releaseGuest_of_no_pending] <;> simp [other]

theorem Cluster.traceHyp_writeHyp (c : Cluster) {reg : Nat} (v : Dword) (h : 0x400 ≤ reg) :
    (c.writeHyp reg v).traceHyp = c.traceHyp.write true reg v := by
  have h0 : (reg == 0) = false := beq_eq_false_iff_ne.2 (by omega)
  have h4 : ¬ reg < 0x400 := by omega
  simp [Cluster.writeHyp, h0, h4]

theorem TraceCopy.tdelay_write_zero (x : TraceCopy) : (x.write true 0x400 ((0 : Word).setWidth 64)).tdelay = 0 := rfl
theorem TraceCopy.tlost_write_zero (x : TraceCopy) : (x.write true 0x404 ((0 : Word).setWidth 64)).tlost = 0 := rfl

/-- The write at the offset of TCTL. With the offset a variable the branches are told apart by their hypotheses; at the
literal the kernel would unfold writeCtl down to its bounds on TBASE. -/
theorem TraceCopy.write_tctl (x : TraceCopy) (hyp : Bool) (v : Dword) {reg : Nat} (h : reg = 0x500) :
    x.write hyp reg v = x.writeCtl v := by
  unfold TraceCopy.write
  split
  case h_3 => rfl
  case h_11 => contradiction
  all_goals omega

/-- The write at the offset of TRPTR, stated as that of TCTL is. -/
theorem TraceCopy.write_trptr (x : TraceCopy) (hyp : Bool) (v : Dword) {reg : Nat} (h : reg = 0x520) :
    x.write hyp reg v = x.writeRptr (v.setWidth 32) := by
  unfold TraceCopy.write
  split
  case h_6 => rfl
  case h_11 => contradiction
  all_goals omega

theorem TraceCopy.tctl_writeCtl {x : TraceCopy} {v : Dword} (h : tcTen v = false ∨ x.ringOk = true) :
    (x.writeCtl v).tctl = v &&& 0x8000F01F := by
  have taken : (tcTen v && !x.ringOk) = false := by rcases h with h | h <;> simp [h]
  simp [TraceCopy.writeCtl, taken]

theorem TraceCopy.trptr_writeRptr (x : TraceCopy) (v : Word) : (x.writeRptr v).trptr =
    if span32 v.toNat x.trptr.toNat ≤ span32 x.twptr.toNat x.trptr.toNat then v else x.trptr := by
  unfold TraceCopy.writeRptr
  split <;> rfl

theorem ccEn_masked (v : Dword) : ccEn (v &&& 0x0000FFFF800000FF) = ccEn v := by simp [ccEn]
theorem ccCore_masked (v : Dword) : ccCore (v &&& 0x0000FFFF800000FF) = ccCore v := field_and_of_ones v _ (by decide)
theorem ccGvi_masked (v : Dword) : ccGvi (v &&& 0x0000FFFF800000FF) = ccGvi v := field_and_of_ones v _ (by decide)

/-! ### The ring (R399) -/

/-- No packet is lost on the way of a die to itself. -/
@[simp] theorem roundTrip_self (s : State) (die : Nat) : roundTrip s die die = none := by simp [roundTrip]

/-- The address of a ring's next record. -/
def TraceCopy.nextVa (x : TraceCopy) : Nat := x.tbase.toNat + 32 * (x.twptr.toNat % x.capacity)

/-- The write of a record to its place of the ring, at the home of the line. -/
def recordWrite (s : State) (a : Accessor) (va : Nat) (r : BitVec 256) : Except Fail State :=
  homeWrite (lateWrite (afterAccess s a Need.write va false) a va) a Need.write va (maskRange (va % 64) 32)
    (BitVec.ofNat 512 (r.toNat * 2 ^ (8 * (va % 64))))

theorem ringWrite_of_written {s u : State} {a : Accessor} {x : TraceCopy} {r : BitVec 256} {l : List (BitVec 256)}
    (queue : x.queue = r :: l) (room : span32 x.twptr.toNat x.trptr.toNat ≠ x.capacity) (aligned : x.tbase.toNat % 32 = 0)
    (here : targetOf s a Need.write x.nextVa = a.die) (written : recordWrite s a x.nextVa r = .ok u) :
    ringWrite s a x = ({ x with queue := l, twptr := x.twptr + 1 }, u) := by
  have notFull : (span32 x.twptr.toNat x.trptr.toNat == x.capacity) = false := beq_eq_false_iff_ne.2 room
  have place : x.nextVa % 32 = 0 := by rw [TraceCopy.nextVa]; omega
  simp only [TraceCopy.nextVa] at here place
  simp only [recordWrite, TraceCopy.nextVa] at written
  simp [ringWrite, queue, notFull, place, here, written]

end Sys2Proof.Machine
end

section
/-! CERTIFICATE. The rows of the host's accesses at a function that answers (O48): what each comes to. -/

namespace Sys2Proof.Slice0

open Sys2Proof.Machine

/-! ### Doors (R156, R157, R192) -/

section Doors

variable {s : State} {p door : Nat} {vi : BitVec 8} (inside : door < viDcount ((s.pkg p).vi vi.toNat))
include inside

theorem hostDoorAppend_of_inbound {ide : Bool} (ofs : Nat) (data : List Byte) (answered : answers s p vi.toNat ide)
    (inbound : dOut ((s.pkg p).door (viDfirst ((s.pkg p).vi vi.toNat) + door)).desc = false) :
    hostDoorAppend p vi door ofs data ide s = appendHost s p vi.toNat (viDfirst ((s.pkg p).vi vi.toNat) + door) ofs data := by
  obtain ⟨accepts, running⟩ := answered
  simp [hostDoorAppend, accepts, running, Nat.not_le.2 inside, inbound]

/-- A new HEAD by the owner of an outbound door: taken up to TAIL, ignored beyond. -/
theorem doorHeadWrite_of_outbound {ide : Bool} (w : Word) {n : Nat} {d : Door} (answered : answers s p vi.toNat ide)
    (hn : n = viDfirst ((s.pkg p).vi vi.toNat) + door) (hd : d = (s.pkg p).door n) (outbound : dOut d.desc = true)
    (owned : dPen d.desc = s.penOf p vi.toNat) : doorHeadWrite p vi door w ide s =
      if span32 (dTail d.desc) (dHead d.desc) < span32 w.toNat (dHead d.desc) then s
      else s.setPkg p ((s.pkg p).setDoor n { d with desc := setField d.desc 400 32 w.toNat }) := by
  obtain ⟨accepts, running⟩ := answered
  subst hn hd
  simp only [State.penOf] at owned
  simp [doorHeadWrite, accepts, running, Nat.not_le.2 inside, outbound, owned]

theorem overflowCounterClear_zero (answered : answers0 s p vi.toNat) : overflowCounterClear p vi door 0 s =
    s.setPkg p ((s.pkg p).setDoor (viDfirst ((s.pkg p).vi vi.toNat) + door)
      { (s.pkg p).door (viDfirst ((s.pkg p).vi vi.toNat) + door) with overflow := 0 }) := by
  obtain ⟨accepts, running⟩ := answered
  simp [overflowCounterClear, accepts, running, Nat.not_le.2 inside]

end Doors

/-! ### Device memory (R406) -/

theorem hostMemRead_of_rejected {s : State} {p : Nat} {vi : BitVec 8} {ide : Bool} (va : Dword) (len : Nat)
    (rejected : s.rejects p vi.toNat ide = true) :
    hostMemRead p vi va len ide s = s.reply p ⟨.unsupportedRequest, []⟩ := by rw [hostMemRead, if_pos rejected]

/-- The answer to an accepted read: its bytes, or the abort that HOSTERR counts. -/
theorem hostMemRead_of_accepted {s : State} {p : Nat} {vi : BitVec 8} {ide : Bool} {va : Dword} {len : Nat}
    {bs : Option (List Byte)} (accepted : s.rejects p vi.toNat ide = false)
    (read : readPieces s (hostAccessor s p vi.toNat) (piecesOf va.toNat len) = bs) :
    let met := meetPieces s (hostAccessor s p vi.toNat) (piecesOf va.toNat len)
    hostMemRead p vi va len ide s = bs.elim ((met.reply p ⟨.completerAbort, []⟩).count (die0 p) Counters.incHostErr)
      (fun bs => met.reply p ⟨.successful, bs⟩) := by
  cases bs <;> simp [hostMemRead, accepted, read]

theorem hostMemWrite_of_answers {s u : State} {p : Nat} {vi : BitVec 8} {ide ok : Bool} {va : Dword} {data : List Byte}
    (answered : answers s p vi.toNat ide)
    (written : writePieces s (hostAccessor s p vi.toNat) (piecesOf va.toNat data.length) data = (ok, u)) :
    hostMemWrite p vi va data ide s = if ok then u else u.count (die0 p) Counters.incHostErr := by
  obtain ⟨accepts, running⟩ := answered
  cases ok <;> simp [hostMemWrite, accepts, running, written]

/-- A reply leaves memory and the contexts as they were met. -/
theorem hostAnswer_reply {s t : State} (p : Nat) (st : Completion) (bs : List Byte) (same : t.hostView = s.hostView) :
    hostAnswer s (t.reply p ⟨st, bs⟩) p st bs := by
  rw [hostAnswer, State.reply_eq, State.pkg_setPkg]
  exact ⟨rfl, State.mem_of_hostView same, State.ctxs_of_hostView same⟩

/-! ### Counter copies and trace copies (R194, R197, R398, R399) -/

section Copies

variable {s : State} {dn cl : Nat} (inside : cl < 16) (answered : answers0 s (pkgOf dn) 0)
include inside answered

theorem hostProfileWrite_of_answers (reg : Nat) (v : Dword) :
    hostProfileWrite s dn cl true 0 reg v = s.setCluster dn cl ((s.cluster dn cl).writeHyp reg v) := by
  obtain ⟨accepts, running⟩ := answered
  simp [hostProfileWrite, profileWrite, accepts, running, Nat.not_le.2 inside]

theorem cluster_hostProfileWrite_config (v : Dword) :
    (hostProfileWrite s dn cl true 0 0 v).cluster dn cl = (s.cluster dn cl).writeConfig v := by
  rw [hostProfileWrite_of_answers inside answered, State.cluster_setCluster]
  rfl

theorem traceOf_hostProfileWrite {reg : Nat} (v : Dword) (h : 0x400 ≤ reg) :
    traceOf (hostProfileWrite s dn cl true 0 reg v) dn cl true = (traceOf s dn cl true).write true reg v := by
  rw [hostProfileWrite_of_answers inside answered, traceOf, if_pos rfl, State.cluster_setCluster]
  exact Cluster.traceHyp_writeHyp _ _ h

end Copies

/-- The record that a ring write has written leaves the queue of the hypervisor's trace copy. -/
theorem traceRecordWrite_of_ringWrite {s u : State} {dn cl : Nat} {x : TraceCopy} (listed : (s.die dn).clusters ≠ [])
    (written : ringWrite s ⟨dn, 0, s.penOf (pkgOf dn) 0⟩ (traceOf s dn cl true) = (x, u)) :
    traceRecordWrite dn cl true s = u.setCluster dn cl { s.cluster dn cl with traceHyp := x }.releaseGuest := by
  simp only [traceOf, if_true] at written
  simp [traceRecordWrite, ringAccessor, listed, written]

theorem traceOf_setCluster_releaseGuest (s : State) (dn cl : Nat) (c : Cluster) :
    traceOf (s.setCluster dn cl c.releaseGuest) dn cl true = c.traceHyp := by
  rw [traceOf, if_pos rfl, State.cluster_setCluster, Cluster.traceHyp_releaseGuest]

/-! ### The physical function's window (R197, R349, R405, R411, R413) -/

theorem plimWrite_of_present {s : State} {p : Nat} (v : Dword) (present : s.absent p = false) :
    plimWrite p v s = s.modPkg p (fun k => { k with plim := max 400 (min 1600 (field v 0 16)) }) := by
  simp [plimWrite, present]

theorem registerWrite_physical {s : State} {p : Nat} (answered : answers0 s p 0) (ofs : Nat) (v : Dword) :
    registerWrite p 0 ofs v s = physicalWrite s p ofs v := by
  obtain ⟨accepts, running⟩ := answered
  simp [registerWrite, accepts, running]

theorem physicalWrite_mailbox (s : State) (p : Nat) {ofs : Nat} (v : Dword) (h : ofs + 8 ≤ 0xC0) :
    physicalWrite s p (0x130000 + ofs) v = s.modPkg p (fun k => { k with mailbox := putBytes k.mailbox ofs v }) := by
  have inside : 0x130000 + ofs + 8 ≤ 0x1300C0 := by omega
  simp [physicalWrite, inside]

theorem physicalWrite_preq (s : State) (p : Nat) (v : Dword) : physicalWrite s p 0x100000 v = preqWrite p v s := rfl

section Preq

variable (vi : BitVec 8) (vcn : BitVec 16) (g : Bool)

theorem op_preqWord {op : Nat} (h : op < 256) : field (preqWord op vi vcn g) 56 8 = op := by
  have bits : (preqWord op vi vcn g).extractLsb' 56 8 = BitVec.ofNat 8 op := by
    rw [preqWord]
    iterate 2 refine (BitVec.extractLsb'_append_eq_of_le (by decide)).trans ?_
    exact BitVec.extractLsb'_append_eq_left
  rw [field, bits, BitVec.toNat_ofNat, Nat.mod_eq_of_lt h]

theorem vi_preqWord (op : Nat) : (preqWord op vi vcn g).extractLsb' 48 8 = vi := by
  rw [preqWord]
  iterate 2 refine (BitVec.extractLsb'_append_eq_of_le (by decide)).trans ?_
  exact BitVec.extractLsb'_append_eq_right

theorem vcn_preqWord (op : Nat) : (preqWord op vi vcn g).extractLsb' 32 16 = vcn := by
  rw [preqWord]
  refine (BitVec.extractLsb'_append_eq_of_le (by decide)).trans ?_
  exact BitVec.extractLsb'_append_eq_right

theorem g_preqWord (op : Nat) : (preqWord op vi vcn g).getLsbD 0 = g := by
  rw [preqWord, BitVec.getLsbD_append]
  cases g <;> rfl

theorem preqWrite_preempt (p : Nat) (s : State) : preqWrite p (preqWord 1 vi vcn g) s = preempt p vi vcn g s := by
  simp only [preqWrite, op_preqWord, vi_preqWord, vcn_preqWord, g_preqWord, Nat.reduceLT]
theorem preqWrite_release (p : Nat) (s : State) : preqWrite p (preqWord 2 vi vcn g) s = release_ p vi vcn g s := by
  simp only [preqWrite, op_preqWord, vi_preqWord, vcn_preqWord, g_preqWord, Nat.reduceLT]
theorem preqWrite_cancel (p : Nat) (s : State) : preqWrite p (preqWord 3 vi vcn g) s = cancel p vi vcn g s := by
  simp only [preqWrite, op_preqWord, vi_preqWord, vcn_preqWord, g_preqWord, Nat.reduceLT]

end Preq

/-! ### Reads of the windows (R192, R197, R405) -/

theorem not_silent_of_accepts {s : State} {p vi : Nat} (h : s.rejects0 p vi = false) (ofs : Nat) :
    s.silent p vi ofs = false := by
  obtain ⟨present, sound⟩ := Bool.or_eq_false_iff.1 h
  simp [State.silent, present, sound]

/-- The answer to a read of eight aligned bytes of a window. -/
theorem hostAnswer_registerRead {s : State} {p ofs : Nat} {vi : BitVec 8} {v : Dword} (accepted : s.rejects0 p vi.toNat = false)
    (aligned : ofs % 8 = 0) (read : (if vi == 0 then physicalRead s p ofs else virtualRead s p vi.toNat ofs) = v) :
    hostAnswer s (registerRead p vi ofs s) p .successful (leBytes 8 v.toNat) := by
  have whole : ofs / 8 * 8 = ofs := by omega
  simp only [registerRead, whole, not_silent_of_accepts accepted, Bool.false_eq_true, if_false, read]
  exact hostAnswer_reply p _ _ rfl

theorem counterRead_inOrder (s : State) (d : Nat) {i : Nat} (h : i < 11) :
    counterRead s d (0x1000 + 8 * i) = (s.die d).counters.inOrder.getD i 0 := by
  have notSweep : ¬ 0x1000 + 8 * i < 0x20 := by omega
  have notGen : ¬ 0x1000 + 8 * i < 0x900 := by omega
  have inside : 0x1000 + 8 * i < 0x1058 := by omega
  simp [counterRead, notSweep, notGen, inside]

theorem physicalRead_die0 (s : State) (p : Nat) {x : Nat} (h : x < 0x40000) : physicalRead s p x = counterRead s (die0 p) x := by
  simp [physicalRead, h]

theorem physicalRead_die1 (s : State) (p : Nat) {x : Nat} (h : x < 0x40000) :
    physicalRead s p (0x40000 + x) = counterRead s (die1 p) x := by
  have other : ¬ 0x40000 + x < 0x40000 := by omega
  have inside : 0x40000 + x < 0x80000 := by omega
  simp [physicalRead, other, inside]

theorem Pkg.ownOverflow_of_lt {k : Pkg} {vi door : Nat} (h : door < viDcount (k.vi vi)) : k.ownOverflow vi door =
    if dPen (k.door (viDfirst (k.vi vi) + door)).desc = k.pen vi then (k.door (viDfirst (k.vi vi) + door)).overflow else 0 := by
  simp [Pkg.ownOverflow, h]

theorem virtualRead_overflow (s : State) (p vi : Nat) {i : Nat} (h : i < 16384) :
    virtualRead s p vi (8 * i) = (s.pkg p).ownOverflow vi (2 * i + 1) ++ (s.pkg p).ownOverflow vi (2 * i) := by
  have inside : 8 * i < 0x20000 := by omega
  have place : 8 * i / 4 = 2 * i := by omega
  simp [virtualRead, inside, place]

/-- Settles O48: each access comes to the one operation that its equation above names, and what it meets on the way is
nothing that its answer is made of. -/
theorem hostEventsComplete : Obligations.HostEventsComplete := by
  intro s p vi v
  refine ⟨?append, ?head, ?read, ?rejected, ?aborted, ?write, ?clear, ?copies, ?plim, ?mailbox, ?preq, ?counters, ?overflows⟩
  case append =>
    intro door data ide i u n answered inside inbound
    have run : exec (.hostDoorAppend p vi door 0 data ide) s = .next (appendHost s p vi.toNat n 0 data) :=
      congrArg Host.Outcome.next (hostDoorAppend_of_inbound inside 0 data answered inbound)
    refine ⟨fun len room appended => ⟨_, run, appendHost_of_appended len room appended⟩, fun len => ⟨_, run, ?_⟩⟩
    rw [appendHost_of_length_ne len]
    exact ⟨congrArg Door.overflow (door_doorOverflow s p n), rfl, rfl⟩
  case head =>
    intro door w ide n d answered inside outbound owned
    have run := doorHeadWrite_of_outbound inside w answered rfl rfl outbound owned
    refine ⟨fun taken => ⟨_, congrArg Host.Outcome.next (run.trans (if_neg (Nat.not_lt.2 taken))), ?_⟩,
      fun beyond => congrArg Host.Outcome.next (run.trans (if_pos beyond))⟩
    dsimp only
    rw [State.pkg_setPkg, Pkg.door_setDoor]
    exact ⟨field_setField_same _ (by decide) w.isLt, field_setField_below _ _ (by decide) (by decide), rfl⟩
  case read =>
    intro len ide bs accepted read
    exact ⟨_, congrArg Host.Outcome.next (hostMemRead_of_accepted accepted read),
      hostAnswer_reply p _ _ (hostView_meetPieces _ _ s)⟩
  case rejected =>
    intro len ide rejected
    exact ⟨_, congrArg Host.Outcome.next (hostMemRead_of_rejected v len rejected), hostAnswer_reply p _ _ rfl⟩
  case aborted =>
    intro len ide accepted failed
    have same := hostView_meetPieces (hostAccessor s p vi.toNat) (piecesOf v.toNat len) s
    refine ⟨_, congrArg Host.Outcome.next (hostMemRead_of_accepted accepted failed), hostAnswer_reply p _ _ same, ?_⟩
    refine (congrArg Counters.hostErr (State.counters_count _ _ _)).trans ?_
    exact congrArg satInc (State.hostErr_of_hostView same (die0 p))
  case write =>
    intro data ide ok u answered written
    refine ⟨_, congrArg Host.Outcome.next (hostMemWrite_of_answers answered written), ?_⟩
    cases ok with
    | true => exact ⟨rfl, rfl⟩
    | false => exact ⟨rfl, congrArg Counters.hostErr (State.counters_count _ _ _)⟩
  case clear =>
    intro door answered inside
    refine ⟨_, congrArg Host.Outcome.next (overflowCounterClear_zero inside answered), ?_⟩
    dsimp only
    rw [State.pkg_setPkg, Pkg.door_setDoor]
    exact ⟨rfl, rfl⟩
  case copies =>
    intro dn cl inside answered
    have config := cluster_hostProfileWrite_config inside answered v
    have trace := fun (reg : Nat) (x : Dword) => traceOf_hostProfileWrite (reg := reg) inside answered x
    refine ⟨⟨_, rfl, ?config⟩, ⟨_, rfl, ?tdelay⟩, ⟨_, rfl, ?tlost⟩, fun taken => ⟨_, rfl, ?tctl⟩,
      fun w => ⟨_, rfl, ?trptr⟩, ?record⟩
    case config =>
      dsimp only
      rw [config, Cluster.cfg_writeConfig]
      exact ⟨ccEn_masked v, ccCore_masked v, ccGvi_masked v, Cluster.guest_writeConfig⟩
    case tdelay => exact (congrArg TraceCopy.tdelay (trace 0x400 _ (by decide))).trans (TraceCopy.tdelay_write_zero _)
    case tlost => exact (congrArg TraceCopy.tlost (trace 0x404 _ (by decide))).trans (TraceCopy.tlost_write_zero _)
    case tctl =>
      refine (congrArg TraceCopy.tctl (trace 0x500 v (by decide))).trans ?_
      rw [TraceCopy.write_tctl _ _ _ rfl, TraceCopy.tctl_writeCtl taken]
    case trptr =>
      refine (congrArg TraceCopy.trptr (trace 0x520 _ (by decide))).trans ?_
      rw [TraceCopy.write_trptr _ _ _ rfl, BitVec.setWidth_setWidth_of_le w (by decide), BitVec.setWidth_eq,
        TraceCopy.trptr_writeRptr]
    case record =>
      intro r l u x queue listed room aligned ⟨here, written⟩
      have ring := ringWrite_of_written queue room aligned here written
      refine ⟨_, congrArg Host.Outcome.next (traceRecordWrite_of_ringWrite listed ring), ?_⟩
      dsimp only
      rw [traceOf_setCluster_releaseGuest]
      exact ⟨rfl, rfl, rfl⟩
  case plim =>
    intro present
    refine ⟨_, congrArg Host.Outcome.next (plimWrite_of_present v present), ?_⟩
    dsimp only
    rw [State.modPkg_eq, State.pkg_setPkg]
    exact ⟨rfl, rfl, rfl⟩
  case mailbox =>
    intro ofs inside answered
    have run := (registerWrite_physical answered (0x130000 + ofs) v).trans (physicalWrite_mailbox s p v inside)
    refine ⟨_, congrArg Host.Outcome.next run, ?_⟩
    dsimp only
    rw [State.modPkg_eq, State.pkg_setPkg]
    rfl
  case preq =>
    intro answered vcn g
    have run := fun op => (registerWrite_physical answered 0x100000 (preqWord op vi vcn g)).trans (physicalWrite_preq s p _)
    exact ⟨congrArg Host.Outcome.next ((run 1).trans (preqWrite_preempt vi vcn g p s)),
      congrArg Host.Outcome.next ((run 2).trans (preqWrite_release vi vcn g p s)),
      congrArg Host.Outcome.next ((run 3).trans (preqWrite_cancel vi vcn g p s))⟩
  case counters =>
    intro i inside accepted
    refine ⟨hostAnswer_registerRead accepted (by omega) ?die0, hostAnswer_registerRead accepted (by omega) ?die1⟩
    case die0 => exact (physicalRead_die0 s p (by omega)).trans (counterRead_inOrder s _ inside)
    case die1 =>
      have place : 0x41000 + 8 * i = 0x40000 + (0x1000 + 8 * i) := by omega
      rw [place]
      exact (physicalRead_die1 s p (by omega)).trans (counterRead_inOrder s _ inside)
  case overflows =>
    intro i virtual accepted inside small o
    have other : (vi == 0) = false := beq_eq_false_iff_ne.2 virtual
    refine hostAnswer_registerRead accepted (by omega) ?_
    rw [other, if_neg Bool.false_ne_true, virtualRead_overflow s p _ small, Pkg.ownOverflow_of_lt inside,
      Pkg.ownOverflow_of_lt (by omega)]
    rfl

end Sys2Proof.Slice0
end

section
/-! SUPPORT. The generations and the VI map of every package (`State.tenancies`): what drains, ends and discards of contexts
do to a domain is no change of them. Shutters, resets and pass ends, which do change them, are read through this. -/

namespace Sys2Proof.Machine

/-! ### Tables changed entry by entry -/

/-- Where every entry is changed by its key, a key reads as changed; a key that is not listed too, if its default stays. -/
theorem Table.get_map {α : Type} (t : Table α) (f : Nat → α → α) (k : Nat) (d : α) (hd : f k d = d) :
    Table.get (t.map (fun e => (e.1, f e.1 e.2))) k d = f k (Table.get t k d) := by
  induction t with
  | nil => exact hd.symm
  | cons e r ih =>
    obtain ⟨j, x⟩ := e
    by_cases h : j = k
    · subst h; simp [Table.get]
    · simpa [Table.get, h] using ih

/-- A domain whose packages are all changed by a function that keeps a package at reset. -/
theorem State.pkg_of_mapped {s t : State} {f : Pkg → Pkg} (h : t.pkgs = s.pkgs.map (fun e => (e.1, f e.2)))
    (hf : f .reset = .reset) (p : Nat) : t.pkg p = f (s.pkg p) := by
  rw [State.pkg, h]
  exact Table.get_map s.pkgs (fun _ => f) p .reset hf

/-! ### The view -/

/-- The generations of a package's VIs, and its VI map (R163, R186). -/
def Pkg.tenancies (k : Pkg) : Table Dword × Table (BitVec 1024) := (k.gens, k.viMap)

/-- The same of every package. -/
def State.tenancies (s : State) (p : Nat) : Table Dword × Table (BitVec 1024) := (s.pkg p).tenancies

theorem State.tenancies_congr {s t : State} (h : t.pkgs = s.pkgs) : t.tenancies = s.tenancies := by
  funext p
  rw [State.tenancies, State.pkg_congr h, State.tenancies]

theorem gen_of_tenancies {s t : State} (h : t.tenancies = s.tenancies) (p v : Nat) : (t.pkg p).gen v = (s.pkg p).gen v :=
  congrArg (fun x : Table Dword × Table (BitVec 1024) => Table.get x.1 v 0) (congrFun h p)

theorem vi_of_tenancies {s t : State} (h : t.tenancies = s.tenancies) (p v : Nat) : (t.pkg p).vi v = (s.pkg p).vi v :=
  congrArg (fun x : Table Dword × Table (BitVec 1024) => Table.get x.2 v 0) (congrFun h p)

theorem shutBusy_of_tenancies {s t : State} (h : t.tenancies = s.tenancies) (p v : Nat) :
    (t.pkg p).shutBusy v = (s.pkg p).shutBusy v := by
  rw [Pkg.shutBusy, Pkg.shutBusy, gen_of_tenancies h]

/-- A change of a package that leaves its generations and its VI map alone. -/
theorem State.tenancies_modPkg (s : State) (p : Nat) {f : Pkg → Pkg}
    (hf : ∀ k, (f k).tenancies = k.tenancies := by intro; rfl) : (s.modPkg p f).tenancies = s.tenancies := by
  funext q
  rw [State.tenancies, State.tenancies, State.modPkg_eq]
  by_cases h : q = p
  · rw [h, State.pkg_setPkg, hf]
  · rw [State.pkg_setPkg_other _ _ h]

/-! ### Accesses, counts and records (R110, R149, R155 to R158, R191, R343) -/

@[simp] theorem tenancies_readError (s : State) (line : Nat) : (readError s line).tenancies = s.tenancies := by
  simp only [readError]
  split
  · rfl
  · split <;> rfl

@[simp] theorem tenancies_meetTarget (s : State) (die : Nat) (pen : Pen) (w : Where) (whole : Bool) :
    (meetTarget s die pen w whole).tenancies = s.tenancies := by
  simp only [meetTarget]
  split
  · rfl
  · split
    · rfl
    · split
      · split
        · exact tenancies_readError _ _
        · rfl
      · exact foldl_same State.tenancies tenancies_readError _ _

@[simp] theorem tenancies_afterAccess (s : State) (a : Accessor) (n : Need) (va : Nat) (whole : Bool) :
    (afterAccess s a n va whole).tenancies = s.tenancies := by
  simp only [afterAccess]
  split
  · rfl
  · split
    · rfl
    · exact tenancies_meetTarget _ _ _ _ _

theorem tenancies_writeLine {s t : State} {a : Accessor} {w : Where} {m : BitVec 64} {x : Line}
    (e : writeLine s a w m x = .ok t) : t.tenancies = s.tenancies := by
  simp only [writeLine] at e
  generalize hs : (if m == maskAll then s.sound (w.gpa / 64) 1 else s) = u at e
  have sound : u.tenancies = s.tenancies := by
    rw [← hs]
    split <;> rfl
  refine Eq.trans ?_ sound
  split at e
  · cases e; rfl
  · split at e
    · split at e <;> cases e <;> rfl
    · split at e
      · cases e
      · split at e <;> cases e <;> exact State.tenancies_congr (by dsimp only [State.sound, State.setLen])

theorem tenancies_homeWrite {s t : State} {a : Accessor} {n : Need} {va : Nat} {m : BitVec 64} {x : Line}
    (e : homeWrite s a n va m x = .ok t) : t.tenancies = s.tenancies := by
  simp only [homeWrite] at e
  split at e
  · cases e
  · exact tenancies_writeLine e

theorem tenancies_signalVector (k : Pkg) (vi vec : Nat) : (signalVector k vi vec).tenancies = k.tenancies := by
  simp only [signalVector]
  split <;> rfl

theorem tenancies_doorAppend {s t : State} {p vi n : Nat} {m : Line} {x : Nat} (e : doorAppend s p vi n m = .ok (x, t)) :
    t.tenancies = s.tenancies := by
  simp only [doorAppend] at e
  split at e
  · cases e
  · rename_i written
    cases e
    refine Eq.trans ?_ ((tenancies_homeWrite written).trans (tenancies_afterAccess _ _ _ _ _))
    refine State.tenancies_modPkg _ _ fun k => ?_
    split
    · exact tenancies_signalVector _ _ _
    · rfl

@[simp] theorem tenancies_doorOverflow (s : State) (p n : Nat) : (doorOverflow s p n).tenancies = s.tenancies :=
  s.tenancies_modPkg p

@[simp] theorem tenancies_postRecord (s : State) (p vi d : Nat) (m : Line) : (postRecord s p vi d m).2.tenancies = s.tenancies := by
  simp only [postRecord]
  split
  · rfl
  · split
    · exact tenancies_doorOverflow s _ _
    · split
      · exact (tenancies_doorOverflow _ _ _).trans (tenancies_afterAccess _ _ _ _ _)
      · rename_i appended; exact tenancies_doorAppend appended

@[simp] theorem tenancies_report (s : State) (p vi : Nat) (r : FaultRec) (pager : Bool) :
    (report s p vi r pager).2.tenancies = s.tenancies := by
  have seq := s.tenancies_modPkg p
    (f := fun k => { k with faultSeq := Table.put k.faultSeq vi ((Table.get (s.pkg p).faultSeq vi 0 + 1) % 2 ^ 64) })
  simp only [report]
  split
  · exact (tenancies_postRecord _ _ _ _ _).trans ((tenancies_postRecord _ _ _ _ _).trans seq)
  · exact (tenancies_postRecord _ _ _ _ _).trans seq

@[simp] theorem tenancies_releaseRef (s : State) (d vi : Nat) (x : Handle) : (releaseRef s d vi x).tenancies = s.tenancies := by
  simp only [releaseRef]
  split <;> rfl

@[simp] theorem tenancies_dropRecord (s : State) (p vi vq : Nat) (pen : Pen) (r : Line) (code pos : Nat) :
    (dropRecord s p vi vq pen r code pos).tenancies = s.tenancies := by
  simp only [dropRecord]
  split
  · exact (tenancies_releaseRef _ _ _ _).trans (tenancies_report _ _ _ _ _)
  · exact tenancies_report _ _ _ _ _

theorem tenancies_freshQueue (k : Pkg) (q : Nat) (pen : Pen) : (freshQueue k q pen).tenancies = k.tenancies := by
  simp only [freshQueue]
  split <;> rfl

theorem tenancies_queueWrite {s t : State} {p vi q : Nat} {pen : Pen} {r : Line} (e : queueWrite s p vi q pen r = .ok t) :
    t.tenancies = s.tenancies := by
  simp only [queueWrite] at e
  split at e
  · cases e
  · rename_i written
    cases e
    refine Eq.trans ?_ ((tenancies_homeWrite written).trans (tenancies_afterAccess _ _ _ _ _))
    exact State.tenancies_modPkg _ _ fun k => tenancies_freshQueue k q pen

@[simp] theorem tenancies_pushHome (s : State) (p vi vq : Nat) (pen : Pen) (r : Line) :
    (pushHome s p vi vq pen r).2.tenancies = s.tenancies := by
  simp only [pushHome]
  split
  · rfl
  · split
    · exact tenancies_dropRecord _ _ _ _ _ _ _ _
    · split
      · exact s.tenancies_modPkg p
      · split
        · exact tenancies_dropRecord _ _ _ _ _ _ _ _
        · split
          · rename_i written; exact tenancies_queueWrite written
          · exact (tenancies_dropRecord _ _ _ _ _ _ _ _).trans (tenancies_afterAccess _ _ _ _ _)

/-! ### Drains and switches (R30, R32, R287, R322) -/

theorem tenancies_pushRecord (c : Ctx) (f : Flight) (s : State) (r : Line) : (pushRecord c f s r).tenancies = s.tenancies := by
  simp only [pushRecord]
  split
  · exact tenancies_pushHome _ _ _ _ _ _
  · simp only [askPush]
    split <;> rfl

@[simp] theorem tenancies_landFlight (s : State) (k : Nat) (f : Flight) : (landFlight s k f).tenancies = s.tenancies :=
  foldl_same State.tenancies (tenancies_pushRecord (s.ctx k) f) f.recs _

@[simp] theorem tenancies_drain (s : State) (k : Nat) : (drain s k).tenancies = s.tenancies := by
  have landed := foldl_same State.tenancies (fun t f => tenancies_landFlight t k f) (s.ctx k).flights
    (s.setCtx k { s.ctx k with flights := [], fills := [], soft := [] })
  have filled := foldl_same State.tenancies (f := fun t f => landFill t k f) (fun _ _ => rfl) (s.ctx k).fills
  simp only [drain]
  split
  · exact (filled _).trans landed
  · exact (filled _).trans landed

@[simp] theorem tenancies_putReady (s : State) (ck : Nat) (bank : Bool) : (putReady s ck bank).tenancies = s.tenancies := by
  simp only [putReady]
  split
  · exact tenancies_drain _ _
  · rfl

@[simp] theorem tenancies_dropL1 (s : State) (k : Nat) : (dropL1 s k).tenancies = s.tenancies := by
  simp only [dropL1]
  split <;> rfl

@[simp] theorem tenancies_putRunning (s : State) (ck : Nat) (bank : Bool) : (putRunning s ck bank).tenancies = s.tenancies :=
  tenancies_dropL1 _ _

@[simp] theorem tenancies_switchTo (s : State) (ck : Nat) (bank : Bool) : (switchTo s ck bank).tenancies = s.tenancies := by
  have put := (tenancies_putRunning (putReady s ck (!bank)) ck bank).trans (tenancies_putReady s ck (!bank))
  simp only [switchTo]
  split <;> exact put

@[simp] theorem tenancies_stopRunning (s : State) (k : Nat) : (stopRunning s k).tenancies = s.tenancies := by
  simp only [stopRunning]
  split <;> rfl

@[simp] theorem tenancies_leaveCore (s : State) (k : Nat) : (leaveCore s k).tenancies = s.tenancies := by
  simp only [leaveCore]
  split
  · rfl
  · split
    · exact (tenancies_switchTo _ _ _).trans (tenancies_stopRunning _ _)
    · exact tenancies_stopRunning _ _

/-! ### Contexts discarded (R91, R275, R353) -/

@[simp] theorem tenancies_freeHeader (s : State) (k : Nat) : (freeHeader s k).tenancies = s.tenancies := by
  simp only [freeHeader]
  split
  · simp only [putDevice]
    split <;> rfl
  · rfl

@[simp] theorem tenancies_emptyBank (s : State) (k : Nat) : (emptyBank s k).tenancies = s.tenancies := by
  simp only [emptyBank]
  refine (tenancies_leaveCore _ _).trans (Eq.trans ?_ (tenancies_freeHeader s k))
  funext p
  rw [State.tenancies, State.pkg_of_mapped (s := freeHeader s k) (f := fun x => { x with
    doorWaiters := x.doorWaiters.filter (fun e => e.2 != (s.ctx k).id) }) rfl rfl p]
  rfl

@[simp] theorem State.tenancies_setTile (s : State) (ck t : Nat) (x : Tile) : (s.setTile ck t x).tenancies = s.tenancies := by
  simp only [State.setTile]
  split <;> rfl

@[simp] theorem State.tenancies_setPlaceTile (s : State) (p : Place) (t : Nat) (x : Tile) :
    (s.setPlaceTile p t x).tenancies = s.tenancies := by
  cases p with
  | core ck => exact s.tenancies_setTile ck t x
  | slot k => rfl

@[simp] theorem tenancies_admitDelivery (s : State) (d : Delivery) : (admitDelivery s d).tenancies = s.tenancies := by
  have tile := s.tenancies_setTile (coreKey d.die d.core) d.tile { s.tile (coreKey d.die d.core) d.tile with land := true }
  simp only [admitDelivery]
  split
  · exact tile
  · split <;> exact tile

@[simp] theorem tenancies_admitHeld (s : State) (ck t : Nat) : (admitHeld s ck t).tenancies = s.tenancies := by
  simp only [admitHeld]
  split
  · rfl
  · split
    · rfl
    · split
      · rfl
      · exact (tenancies_admitDelivery _ _).trans (State.tenancies_setTile _ _ _ _)

@[simp] theorem tenancies_unhold (s : State) (d : Delivery) : (unhold s d).tenancies = s.tenancies := by
  simp only [unhold]
  split
  · exact State.tenancies_setTile _ _ _ _
  · rfl

@[simp] theorem tenancies_endLanding (full : Bool) (s : State) (d : Delivery) : (endLanding full s d).tenancies = s.tenancies := by
  simp only [endLanding]
  split
  · rfl
  · split
    · split
      · exact State.tenancies_setPlaceTile _ _ _ _
      · exact (tenancies_admitHeld _ _ _).trans (State.tenancies_setPlaceTile _ _ _ _)
    · split <;> exact State.tenancies_setPlaceTile _ _ _ _

@[simp] theorem tenancies_cutDelivery (shut : Bool) (s : State) (d : Delivery) : (cutDelivery shut s d).tenancies = s.tenancies := by
  have unheld := tenancies_unhold { s with deliveries := s.deliveries.filter (fun x => x.n != d.n) } d
  simp only [cutDelivery]
  split
  · split <;> exact unheld
  · split <;> exact unheld
  · exact tenancies_endLanding _ _ _
  · rfl

@[simp] theorem tenancies_cutCommands (s : State) (k : Nat) (shut : Bool) : (cutCommands s k shut).tenancies = s.tenancies := by
  have cut := foldl_same State.tenancies (f := fun t d => cutDelivery (shut && pkgOf d.die == (s.ctx k).pkg) t d)
    (fun _ _ => tenancies_cutDelivery _ _ _) (s.deliveries.filter (fun d => d.ctx == (s.ctx k).id)) s
  simp only [cutCommands]
  exact cut

@[simp] theorem tenancies_keepEntries (s : State) (k : Nat) : (keepEntries s k).tenancies = s.tenancies := by
  simp only [keepEntries]
  split <;> rfl

theorem tenancies_discardContext (s : State) (k : Nat) : (discardContext s k).tenancies = s.tenancies := by
  simp only [discardContext, tenancies_emptyBank, tenancies_cutCommands, tenancies_keepEntries, tenancies_drain]

@[simp] theorem tenancies_discardVi (s : State) (p vi : Nat) : (discardVi s p vi).tenancies = s.tenancies :=
  foldl_same State.tenancies tenancies_discardContext _ _

/-! ### What a shutter drops besides (R149, R354) -/

@[simp] theorem tenancies_dropDelivery (s : State) (d : Delivery) : (dropDelivery s d).tenancies = s.tenancies := by
  simp only [dropDelivery]
  split
  · rfl
  · split <;> rfl

@[simp] theorem tenancies_cutInbound (s : State) (p : Nat) (pen : Pen) : (cutInbound s p pen).tenancies = s.tenancies := by
  refine foldl_same State.tenancies (fun t d => ?_) _ s
  split
  · exact (tenancies_dropDelivery _ _).trans (tenancies_unhold _ _)
  · exact (tenancies_dropDelivery _ _).trans (tenancies_unhold _ _)
  · exact tenancies_cutDelivery _ _ _

@[simp] theorem tenancies_dropOld (s : State) (p vi : Nat) (old : Pen) : (dropOld s p vi old).tenancies = s.tenancies := by
  have records := s.tenancies_modPkg p (f := fun k => { k with
    heldPushes := k.heldPushes.filter (fun h => h.pen != old)
    barriers := k.barriers.filter (fun b => !(k.queueVi b.queue == vi))
    notices := k.notices.filter (fun n => !(k.queueVi n.queue == vi)) })
  simp only [dropOld, tenancies_cutInbound]
  exact records

/-! ### The erasure before a reset's shutter (R359) -/

theorem tenancies_flrErase (s : State) (p vi : Nat) : (flrErase s p vi).tenancies = s.tenancies := by
  refine (State.tenancies_modPkg _ p).trans ((tenancies_discardVi _ _ _).trans ?_)
  exact State.tenancies_modPkg s p

end Sys2Proof.Machine
end

section
/-! CERTIFICATE. The end of a sweep pass (O60). Its effect on the package is `Pkg.endPass`, entry by entry; the stale entries
it voids and the resets that it lets go on leave the package and the sweep units alone. -/

namespace Sys2Proof.Machine

/-! ### Fields -/

theorem field_lt {n : Nat} (x : BitVec n) (lo w : Nat) : field x lo w < 2 ^ w := BitVec.isLt _

theorem field_setField_above {n : Nat} (x : BitVec n) {lo w lo' w' : Nat} (v : Nat) (h : lo + w ≤ lo') (hn : lo' + w' ≤ n) :
    field (setField x lo w v) lo' w' = field x lo' w' := by
  refine congrArg BitVec.toNat (BitVec.eq_of_getLsbD_eq fun i hi => ?_)
  have outside : ¬ (lo ≤ lo' + i ∧ lo' + i < lo + w) := by omega
  rw [BitVec.getLsbD_extractLsb', BitVec.getLsbD_extractLsb', getLsbD_setField _ _ _ _ (by omega), if_neg outside]

/-! The counts of a generation entry (R186) beside a change of one of them. -/

theorem genRcnt_lt (g : Dword) : genRcnt g < 256 := field_lt g 16 8

theorem genSnap_setSnap (g : Dword) {n : Nat} (h : n < 256) : genSnap (setField g 8 8 n) = n :=
  field_setField_same g (by decide) h
theorem genRcnt_setSnap (g : Dword) (n : Nat) : genRcnt (setField g 8 8 n) = genRcnt g :=
  field_setField_above g n (by decide) (by decide)
theorem genRcnt_setRcnt (g : Dword) {n : Nat} (h : n < 256) : genRcnt (setField g 16 8 n) = n :=
  field_setField_same g (by decide) h
theorem genGen_setRcnt (g : Dword) (n : Nat) : genGen (setField g 16 8 n) = genGen g :=
  field_setField_below g n (by decide) (by decide)
theorem genGen_setGen (g : Dword) {n : Nat} (h : n < 256) : genGen (setField g 0 8 n) = n :=
  field_setField_same g (by decide) h

@[simp] theorem viState_zero : viState 0#1024 = 0 := field_zero 728 2
theorem viState_setViState (e : BitVec 1024) {n : Nat} (h : n < 4) : viState (setViState e n) = n :=
  field_setField_same e (by decide) h

/-! ### The sweep units of a package (R188) -/

theorem die0_ne_die1 (p : Nat) : die0 p ≠ die1 p := by unfold die1; omega

@[simp] theorem State.sweep_setSweep (s : State) (d : Nat) (f : Sweep → Sweep) : (s.setSweep d f).sweep d = f (s.sweep d) := by
  simp [State.sweep, State.setSweep]
@[simp] theorem State.sweep_setSweep_other (s : State) {d j : Nat} (f : Sweep → Sweep) (h : j ≠ d) :
    (s.setSweep d f).sweep j = s.sweep j := by
  simp [State.sweep, State.setSweep, h]
@[simp] theorem State.mem_setSweep (s : State) (d : Nat) (f : Sweep → Sweep) : (s.setSweep d f).mem = s.mem := rfl

/-- A change of both sweep units of a package. -/
def State.setSweeps (s : State) (p : Nat) (f g : Sweep → Sweep) : State := (s.setSweep (die0 p) f).setSweep (die1 p) g

@[simp] theorem State.sweep_setSweeps_die0 (s : State) (p : Nat) (f g : Sweep → Sweep) :
    (s.setSweeps p f g).sweep (die0 p) = f (s.sweep (die0 p)) := by simp [State.setSweeps, die0_ne_die1 p]
@[simp] theorem State.sweep_setSweeps_die1 (s : State) (p : Nat) (f g : Sweep → Sweep) :
    (s.setSweeps p f g).sweep (die1 p) = g (s.sweep (die1 p)) := by simp [State.setSweeps, (die0_ne_die1 p).symm]

/-! ### What a pass end does to a package (R189) -/

theorem Pkg.gen_endPass (k : Pkg) (v : Nat) :
    k.endPass.gen v = setField (setField (k.gen v) 16 8 (genRcnt (k.gen v) - genSnap (k.gen v))) 8 8 0 :=
  Table.get_map k.gens (fun _ g => setField (setField g 16 8 (genRcnt g - genSnap g)) 8 8 0) v 0 (by decide)

theorem Pkg.genRcnt_endPass (k : Pkg) (v : Nat) :
    genRcnt (k.endPass.gen v) = genRcnt (k.gen v) - genSnap (k.gen v) := by
  have small : genRcnt (k.gen v) - genSnap (k.gen v) < 256 := Nat.lt_of_le_of_lt (Nat.sub_le _ _) (genRcnt_lt _)
  rw [Pkg.gen_endPass, genRcnt_setSnap, genRcnt_setRcnt _ small]

theorem Pkg.genSnap_endPass (k : Pkg) (v : Nat) : genSnap (k.endPass.gen v) = 0 := by
  rw [Pkg.gen_endPass, genSnap_setSnap _ (by decide)]

theorem Pkg.vi_endPass (k : Pkg) (v : Nat) : k.endPass.vi v =
    if viState (k.vi v) == 2 && genRcnt (k.endPass.gen v) == 0 then setViState (k.vi v) 0 else k.vi v :=
  Table.get_map k.viMap (fun v e => if viState e == 2 && genRcnt (k.endPass.gen v) == 0 then setViState e 0 else e) v 0
    (by simp)

theorem Pkg.viState_endPass (k : Pkg) (v : Nat) : viState (k.endPass.vi v) =
    if viState (k.vi v) = 2 ∧ genRcnt (k.gen v) - genSnap (k.gen v) = 0 then 0 else viState (k.vi v) := by
  rw [Pkg.vi_endPass, Pkg.genRcnt_endPass]
  by_cases closed : viState (k.vi v) = 2 ∧ genRcnt (k.gen v) - genSnap (k.gen v) = 0
  · rw [if_pos closed, if_pos (by simp [closed]), viState_setViState _ (by decide)]
  · rw [if_neg closed, if_neg (by simpa using closed)]

/-! ### What a pass end does to the domain (R189, R360) -/

/-- The domain after a pass end, before the resets that waited for it go on. -/
def passEnded (p : Nat) (s : State) : State := (voidStale (s.setSweeps p .stop .stop) p).modPkg p .endPass

/-- The resets that waited for a pass end listed as the next acts (R360). -/
def resumeResets (p : Nat) (s : State) : State :=
  (s.pkg p).flrPending.foldl (fun s v => s.act (.flrShutterResume p (BitVec.ofNat 8 v))) s

@[simp] theorem State.pkg_act (s : State) (a : Act) : (s.act a).pkg = s.pkg := rfl
@[simp] theorem State.sweep_act (s : State) (a : Act) : (s.act a).sweep = s.sweep := rfl

@[simp] theorem pkg_resumeResets (p : Nat) (s : State) : (resumeResets p s).pkg = s.pkg :=
  foldl_same State.pkg (fun t v => t.pkg_act (.flrShutterResume p (BitVec.ofNat 8 v))) _ s
@[simp] theorem sweep_resumeResets (p : Nat) (s : State) : (resumeResets p s).sweep = s.sweep :=
  foldl_same State.sweep (fun t v => t.sweep_act (.flrShutterResume p (BitVec.ofNat 8 v))) _ s

theorem sweepPassEnd_of_finished {s : State} {p : Nat} (h0 : (s.sweep (die0 p)).finished = true)
    (h1 : (s.sweep (die1 p)).finished = true) : sweepPassEnd p s = resumeResets p (passEnded p s) := by
  simp only [sweepPassEnd, h0, h1, Bool.not_true, Bool.or_self, Bool.false_eq_true, if_false]
  rfl

theorem sweepPassEnd_of_unfinished {s : State} {p : Nat}
    (h : ¬ ((s.sweep (die0 p)).finished = true ∧ (s.sweep (die1 p)).finished = true)) : sweepPassEnd p s = s :=
  if_pos (by simpa [Classical.or_iff_not_imp_left] using h)

theorem pkg_passEnded (p : Nat) (s : State) : (passEnded p s).pkg p = (s.pkg p).endPass := by
  rw [passEnded, State.modPkg_eq, State.pkg_setPkg]
  rfl

theorem sweep_passEnded (p : Nat) (s : State) : (passEnded p s).sweep = (s.setSweeps p .stop .stop).sweep := rfl

end Sys2Proof.Machine

namespace Sys2Proof.Slice0

open Sys2Proof.Machine

/-- Settles O60: a pass end stops both units and changes the package by `Pkg.endPass`; the resumed resets are listed as acts,
which the tables do not show, and without both units finished nothing is done. -/
theorem sweepPassEnds : Obligations.SweepPassEnds := by
  intro s p
  split
  case isTrue done =>
    obtain ⟨done0, done1⟩ := done
    refine ⟨_, congrArg Host.Outcome.next (sweepPassEnd_of_finished done0 done1), ?_⟩
    dsimp only
    rw [pkg_resumeResets, pkg_passEnded, sweep_resumeResets, sweep_passEnded, State.sweep_setSweeps_die0,
      State.sweep_setSweeps_die1]
    exact ⟨rfl, rfl, fun v => ⟨Pkg.genRcnt_endPass _ v, Pkg.genSnap_endPass _ v⟩, Pkg.viState_endPass _⟩
  case isFalse unfinished => exact congrArg Host.Outcome.next (sweepPassEnd_of_unfinished unfinished)

end Sys2Proof.Slice0
end

section
/-! CERTIFICATE. Resets, the halt, power and the sweep (O50). A shutter makes its VI's next generation from the tenancies as
they stood when its row began, since discards and erasures leave them alone (`State.tenancies`); the other rows write out
what they change. -/

namespace Sys2Proof.Machine

/-! ### The shutter (R187, R338, R353, R359, R360) -/

theorem genCount_pos (v : Nat) : 0 < genCount v := by unfold genCount; split <;> decide
theorem genCount_le (v : Nat) : genCount v ≤ 256 := by unfold genCount; split <;> decide

theorem Pkg.genGen_shut (k : Pkg) (vi : Nat) (close : Bool) :
    genGen ((k.shut vi close).gen vi) = (genGen (k.gen vi) + 1) % genCount vi := by
  have next : (genGen (k.gen vi) + 1) % genCount vi < 256 :=
    Nat.lt_of_lt_of_le (Nat.mod_lt _ (genCount_pos vi)) (genCount_le vi)
  have gen : (k.shut vi close).gen vi =
      setField (setField (k.gen vi) 0 8 ((genGen (k.gen vi) + 1) % genCount vi)) 16 8 (genRcnt (k.gen vi) + 1) := by
    cases close <;> exact Table.get_put_same _ _ _ _
  rw [gen, genGen_setRcnt, genGen_setGen _ next]

theorem Pkg.viState_shut (k : Pkg) (vi : Nat) : viState ((k.shut vi true).vi vi) = 2 := by
  have entry : (k.shut vi true).vi vi = setViState (k.vi vi) 2 := Table.get_put_same _ _ _ _
  rw [entry, viState_setViState _ (by decide)]

theorem genGen_shutter (s : State) (p vi : Nat) (close : Bool) :
    genGen (((shutter s p vi close).pkg p).gen vi) = (genGen ((s.pkg p).gen vi) + 1) % genCount vi := by
  simp only [shutter]
  rw [gen_of_tenancies (tenancies_dropOld _ _ _ _), State.modPkg_eq, State.pkg_setPkg, Pkg.genGen_shut,
    gen_of_tenancies (tenancies_discardVi _ _ _)]

theorem viState_shutter (s : State) (p vi : Nat) : viState (((shutter s p vi true).pkg p).vi vi) = 2 := by
  simp only [shutter]
  rw [vi_of_tenancies (tenancies_dropOld _ _ _ _), State.modPkg_eq, State.pkg_setPkg, Pkg.viState_shut]

/-- The shutter of a reset, from a state with the tenancies that the reset began with. -/
theorem flrShutter_of_tenancies {s u : State} {p vi : Nat} (same : u.tenancies = s.tenancies)
    (free : (s.pkg p).shutBusy vi = false) :
    genGen (((flrShutter u p vi).pkg p).gen vi) = (genGen ((s.pkg p).gen vi) + 1) % genCount vi ∧
    viState (((flrShutter u p vi).pkg p).vi vi) = 2 ∧ vi ∉ ((flrShutter u p vi).pkg p).flrPending := by
  have done : flrShutter u p vi = (shutter u p vi true).modPkg p
      (fun k => { k with flrPending := k.flrPending.filter (fun v => v != vi) }) := by
    rw [flrShutter, shutBusy_of_tenancies same, free]
    rfl
  have kept : (flrShutter u p vi).tenancies = (shutter u p vi true).tenancies := by
    rw [done]
    exact State.tenancies_modPkg _ p
  refine ⟨?generation, ?closing, ?pending⟩
  case generation => rw [gen_of_tenancies kept, genGen_shutter, gen_of_tenancies same]
  case closing => rw [vi_of_tenancies kept, viState_shutter]
  case pending => rw [done, State.modPkg_eq, State.pkg_setPkg]; simp

/-- A virtual function's reset, in a VI that is not CLOSING, comes to its shutter (R359, R361). -/
theorem flr_of_not_closing {s : State} {p vi : Nat} (virtual : vi ≠ 0) (standing : viState ((s.pkg p).vi vi) ≠ 2) :
    flr p vi s = flrShutter ((flrErase s p vi).modPkg p
      (fun k => { k with flrPending := k.flrPending.filter (fun v => v != vi) ++ [vi] })) p vi := by
  have unclosed : (viState (((flrErase s p vi).pkg p).vi vi) == 2) = false := by
    rw [vi_of_tenancies (tenancies_flrErase s p vi)]
    exact beq_eq_false_iff_ne.2 standing
  rw [flr, if_pos (bne_iff_ne.2 virtual), flrVi, unclosed]
  rfl

/-! ### A package forgotten (R410, R413) -/

theorem home_of_mem_forget {s : State} {p : Nat} {e : Nat × Ctx} (h : e ∈ (forget s p).ctxs) :
    pkgOf (dieOfCore e.2.home) ≠ p := by
  have kept := (List.mem_filter.1 h).2
  simpa [ctxIn] using kept

theorem pen_forget {s : State} {p l : Nat} (h : pkgOf (dieOfGpa (64 * l)) = p) : (forget s p).mem.pen l = voidPen := by
  refine (Table.get_filter s.mem.pens (fun j => !lineIn p j) l voidPen).trans (if_neg ?_)
  simpa [lineIn] using h

theorem thermalHalt_of_cool {p celsius : Nat} (s : State) (h : celsius < 110) : thermalHalt p celsius s = s := if_pos h
theorem thermalHalt_of_hot {p celsius : Nat} (s : State) (h : 110 ≤ celsius) :
    thermalHalt p celsius s = (forget s p).setPkg p { Pkg.reset with halted := true } := if_neg (by omega)

/-! ### The start of a pass and a visit (R188) -/

/-- SNAP becomes RCNT in every generation entry. -/
def Pkg.startPass (k : Pkg) : Pkg := { k with gens := k.gens.map (fun e => (e.1, setField e.2 8 8 (genRcnt e.2))) }

theorem Pkg.gen_startPass (k : Pkg) (v : Nat) : k.startPass.gen v = setField (k.gen v) 8 8 (genRcnt (k.gen v)) :=
  Table.get_map k.gens (fun _ g => setField g 8 8 (genRcnt g)) v 0 (by decide)

theorem Pkg.genSnap_startPass (k : Pkg) (v : Nat) : genSnap (k.startPass.gen v) = genRcnt (k.gen v) := by
  rw [Pkg.gen_startPass, genSnap_setSnap _ (genRcnt_lt _)]

theorem Pkg.genRcnt_startPass (k : Pkg) (v : Nat) : genRcnt (k.startPass.gen v) = genRcnt (k.gen v) := by
  rw [Pkg.gen_startPass, genRcnt_setSnap]

theorem sweepPassStart_of_due {s : State} {p : Nat} (idle : sweepIdle s p = true) (due : (s.pkg p).sweepDue = true) :
    ∃ h0 h1, sweepPassStart p s =
      (s.modPkg p .startPass).setSweeps p (Sweep.start s.cycle h0) (Sweep.start s.cycle h1) := by
  refine ⟨halvesOf (s.modPkg p .startPass) (die0 p), halvesOf (s.modPkg p .startPass) (die1 p), ?_⟩
  rw [sweepPassStart, idle, due]
  rfl

@[simp] theorem Memory.cells_sweepLine (m : Memory) (k : Pkg) (l : Nat) : (m.sweepLine k l).cells = m.cells := by
  rw [Memory.sweepLine]
  split <;> rfl

theorem Memory.pen_sweepLine (m : Memory) (k : Pkg) (l j : Nat) :
    (m.sweepLine k l).pen j = if j = l ∧ k.inSnap (m.pen j) = true then voidPen else m.pen j := by
  rw [Memory.sweepLine]
  by_cases here : j = l
  · subst here
    split <;> simp [*]
  · split <;> simp [here]

theorem sweepVisit_of_quiet {s : State} {dn : Nat} (run : (s.sweep dn).run = true)
    (left : (s.sweep dn).prog.toNat < (s.sweep dn).target) (quiet : snapQuiet s (pkgOf dn) = true)
    (begun : (s.sweep dn).begun + cycles5ms ≤ s.cycle) : sweepVisit dn s =
      (visitUnit s dn ((s.sweep dn).unit (s.sweep dn).prog.toNat)).setSweep dn (fun x => { x with prog := x.prog + 1 }) := by
  refine if_neg ?_
  simp only [run, quiet, Bool.not_true, Bool.false_or, Bool.or_false, Bool.or_eq_true, decide_eq_true_eq]
  omega

theorem visitUnit_line (s : State) (dn n : Nat) : visitUnit s dn (.line n) =
    { s with mem := s.mem.sweepLine (s.pkg (pkgOf dn)) (dn * dieSpan / 64 + n) } := rfl

end Sys2Proof.Machine

namespace Sys2Proof.Slice0

open Sys2Proof.Machine

/-- Settles O50: both resets come to the shutter of `flrShutter_of_tenancies`; cold reset and the halt to `forget`; a pass
starts with `Pkg.startPass`, and a line's visit is `Memory.sweepLine`. -/
theorem resetAndSweepEventsComplete : Obligations.ResetAndSweepEventsComplete := by
  intro s p vi
  refine ⟨?reset, ?resume, ?cold, fun c => ⟨?hot, ?cool⟩, ?sample, ?throttle, ?start, ?visit⟩
  case reset =>
    intro virtual standing free
    have number : vi.toNat ≠ 0 := fun h => virtual (BitVec.eq_of_toNat_eq h)
    refine ⟨_, congrArg Host.Outcome.next (flr_of_not_closing number standing), ?_⟩
    refine flrShutter_of_tenancies (Eq.trans ?_ (tenancies_flrErase s p vi.toNat)) free
    exact State.tenancies_modPkg _ p
  case resume =>
    intro waiting free
    obtain ⟨generation, -, pending⟩ := flrShutter_of_tenancies (s := s) (u := s) rfl free
    exact ⟨_, congrArg Host.Outcome.next (if_pos waiting), generation, pending⟩
  case cold =>
    intro a b
    exact ⟨_, rfl, State.pkg_setPkg _ _ _, fun _ => home_of_mem_forget, fun _ => pen_forget⟩
  case hot =>
    intro hot
    refine ⟨_, congrArg Host.Outcome.next (thermalHalt_of_hot s hot), ?_, fun _ => home_of_mem_forget⟩
    rw [State.pkg_setPkg]
  case cool => exact fun cool => congrArg Host.Outcome.next (thermalHalt_of_cool s cool)
  case sample =>
    intro w
    refine ⟨powerSample p w s, rfl, ?_⟩
    dsimp only
    rw [powerSample, State.modPkg_eq, State.pkg_setPkg]
    exact ⟨rfl, rfl, rfl, rfl⟩
  case throttle =>
    refine ⟨throttleStep p s, rfl, rfl, rfl, ?_⟩
    rw [throttleStep, State.modPkg_eq, State.pkg_setPkg]
    rfl
  case start =>
    intro idle due
    obtain ⟨h0, h1, started⟩ := sweepPassStart_of_due idle due
    refine ⟨_, congrArg Host.Outcome.next started, ?_, ?_⟩
    · have pkg : ((s.modPkg p .startPass).setSweeps p (Sweep.start s.cycle h0) (Sweep.start s.cycle h1)).pkg p =
          (s.pkg p).startPass := State.pkg_setPkg _ _ _
      rw [pkg]
      exact fun v => ⟨Pkg.genSnap_startPass _ v, Pkg.genRcnt_startPass _ v⟩
    · rw [State.sweep_setSweeps_die0, State.sweep_setSweeps_die1]
      exact ⟨rfl, rfl, rfl, rfl⟩
  case visit =>
    intro dn n run left quiet begun line
    refine ⟨_, congrArg Host.Outcome.next (sweepVisit_of_quiet run left quiet begun), ?_⟩
    dsimp only
    rw [line, visitUnit_line, State.sweep_setSweep, State.mem_setSweep]
    refine ⟨rfl, Memory.cells_sweepLine _ _ _, fun l => ?_⟩
    exact Memory.pen_sweepLine _ _ _ l

end Sys2Proof.Slice0
end
